-- ==== Sys2Proof/Word.lean ====
section
/-! DEFINITION. The words and the plain data types that instructions and device events are made of. -/

namespace Sys2Proof

/-- One byte. -/
abbrev Byte := BitVec 8
/-- A 32-bit register element. -/
abbrev Word := BitVec 32
/-- A 64-bit value: a register pair, a virtual address, a PC. -/
abbrev DWord := BitVec 64
/-- One bit per lane of a wave. -/
abbrev Mask := BitVec 64

/-- The sixteen element types of the TY field, in the order of their codes (R58). -/
inductive Ty where
  | b32 | s32 | n32 | f32 | b64 | s64 | n64 | f16
  | bf16 | s16 | n16 | s8 | n8 | f8e4 | f8e5 | slot
  deriving DecidableEq, Repr

/-- The four rounding modes (R60). -/
inductive Rnd where
  | rn | rz | ru | rd
  deriving DecidableEq, Repr

/-- A 12-bit operand field: a space and an index (R49). `bad` keeps a field that names no legal operand, which is an
illegal-operand fault at issue and not an error of decoding. -/
inductive Operand where
  | v (n : Nat) | s (n : Nat) | p (n : Nat) | h (n : Nat) | g (n : Nat) | m (n : Nat) | a (n : Nat)
  | imm (k : BitVec 9)
  | sys (i : BitVec 9)
  | none
  | long
  | bad (raw : BitVec 12)
  deriving DecidableEq, Repr

/-- The guard: a predicate and whether it is negated (R53). -/
structure Guard where
  neg  : Bool
  pred : BitVec 3
  deriving DecidableEq, Repr

/-- The hint bits that are not reserved (R54). -/
structure Hints where
  sw    : Bool
  reuse : Bool
  yld   : Bool
  cache : BitVec 2
  deriving DecidableEq, Repr

/-- The common form of every instruction word but its OP (R46). -/
structure Form where
  var   : BitVec 4
  ty    : Ty
  d     : Operand
  a     : Operand
  b     : Operand
  guard : Guard
  hints : Hints
  imm   : BitVec 32
  deriving DecidableEq, Repr

/-- The key of a tile: name space, name and length (R363). -/
structure TileKey where
  nspace : Word
  name   : BitVec 128
  len    : Nat
  deriving DecidableEq, Repr

/-- A name route of a router (R366). -/
structure Route where
  space  : Word
  prefx  : Word
  length : Nat
  face   : Nat
  deriving DecidableEq, Repr

/-- What travels between two Finsel routers (R367, R371, R385). -/
inductive NetBody where
  | interest (key : TileKey) (remaining : Nat)
  | tile (key : TileKey) (bytes : List Byte) (shelf : Nat) (announced : Bool)
  | notice (key : TileKey)
  deriving DecidableEq, Repr

/-- A message on its way to a router, and the face of that router it will arrive on. -/
structure NetMsg where
  router : Nat
  face   : Nat
  body   : NetBody
  deriving DecidableEq, Repr

/-- What another package sends over a link (R349, R355, R371, R430): a named-tile message, a request for this package's memory by
physical address, a name to resolve, a message for a port, by its handle word, with the frames it lends, or a lent frame that returns. -/
inductive PeerReq where
  | net (body : NetBody)
  | load (pa n : Nat)
  | store (pa : Nat) (bytes : List Byte)
  | atomic (op : Nat) (ty : Ty) (pa : Nat) (val : DWord)
  | cas (ty : Ty) (pa : Nat) (old new : DWord)
  | xsum (ty : Ty) (pa : Nat) (val : DWord)
  | look (name : DWord)
  | send (port : Word) (nw : Bool) (label sender : Word) (bytes : List Byte) (frames : List (Nat × Bool))
  | giveBack (frame : Nat)
  deriving DecidableEq, Repr

/-- A flit as a link receiver sees it (R429): its 256 bytes, and what its payload carries, if anything, with the peer number of the
package it comes from. No rule lays the payload out, so it stands beside the bytes (assumption 66). -/
structure Flit where
  bytes : List Byte
  msg   : Option (Nat × PeerReq)
  /-- The SEQ that a replay request names. -/
  names : Nat
  deriving DecidableEq, Repr

/-- A flit and the port that receives it. -/
structure PortFlit where
  port : Nat
  flit : Flit
  deriving DecidableEq, Repr

/-- A context descriptor (R391). -/
structure CtxDesc where
  num    : Nat
  nspace : Word
  kslot  : Nat
  pbase  : Nat
  plog2  : Nat
  root   : Nat
  ending : Bool
  /-- The physical address of its 64 bytes. -/
  area   : Nat
  deriving DecidableEq, Repr

/-- What the fuses and the boot test bring at a cold reset: the PEER_ID, the user cores that fail (facet, CORE_ID), the
register-file banks that fail (facet, CORE_ID, bank) (R19, R35, R447), how far the reference counter of each facet, and then of
each router, has come when bring-up ends, since each reads 0 when it is powered and none is synchronised with another (R43, R364), and the
image in the on-package flash (R404, R447). What the image does when it starts stands beside it, since no rule lays it out (assumption
65): the bytes of HBM that it brings, by address; the level-4 table of context 0; and the PC at which the firmware core of each die that it
starts begins. -/
structure Boot where
  peer     : Nat
  failed   : List (Nat × Nat)
  badBanks : List (Nat × Nat × Nat)
  skew     : List Nat
  flash    : List Byte
  load     : List (Nat × List Byte)
  root     : Nat
  start    : List (Nat × DWord)
  deriving DecidableEq, Repr

end Sys2Proof
end

