-- ==== Sys2Proof/Machine/Bits.lean ====
section
/-! DEFINITION. Bit fields, sign extension, byte order and lane masks, used by every other file. -/

namespace Sys2Proof.Machine

/-- `x[lo + n - 1 : lo]` as a number (R8, R13). -/
def bits {w : Nat} (x : BitVec w) (lo n : Nat) : Nat := (x.toNat >>> lo) % 2 ^ n

/-- Bit `i` of `x`. -/
def bit {w : Nat} (x : BitVec w) (i : Nat) : Bool := x.getLsbD i

/-- `wrap(x, w)` of R93: an exact integer modulo 2^w. -/
def wrapInt (x : Int) (w : Nat) : Nat := (x % ((2 : Int) ^ w)).toNat

/-- `sx(x, w)` of R93: the low `w` bits of `x` read as a signed integer. -/
def sx (x w : Nat) : Int :=
  let y := x % 2 ^ w
  if y < 2 ^ (w - 1) then (y : Int) else (y : Int) - (2 : Int) ^ w

/-- The bytes of `n` as `k` bytes, the least significant first (R8). -/
def toBytes : Nat → Nat → List Byte
  | 0, _ => []
  | k + 1, n => BitVec.ofNat 8 n :: toBytes k (n / 256)

/-- The number that bytes stand for, the least significant first (R8). -/
def ofBytes : List Byte → Nat
  | [] => 0
  | b :: bs => b.toNat + 256 * ofBytes bs

/-- The 64 lane numbers in ascending order. -/
def allLanes : List Nat := List.range 64

/-- The lanes of a mask in ascending order. -/
def lanesOf (m : Mask) : List Nat := allLanes.filter (fun l => m.getLsbD l)

/-- The mask with the one bit of lane `l`. -/
def laneBit (l : Nat) : Mask := (1 : Mask) <<< l

/-- The mask of the lanes below `n` (R25). -/
def lowMask (n : Nat) : Mask := BitVec.ofNat 64 (2 ^ min n 64 - 1)

/-- The mask of the lanes that satisfy a test. -/
def maskWhere (t : Nat → Bool) : Mask :=
  BitVec.ofNat 64 ((allLanes.filter t).foldl (fun acc l => acc + 2 ^ l) 0)

/-- The highest-numbered lane of a mask, if it has one (R32). -/
def topLane (m : Mask) : Option Nat := (lanesOf m).getLast?

/-- The lowest-numbered lane of a mask, if it has one. -/
def lowLane (m : Mask) : Option Nat := (lanesOf m).head?

/-- The number of 1 bits among the low `w` bits. -/
def popCount (w x : Nat) : Nat := ((List.range w).filter (fun i => x.testBit i)).length

/-- The number of 0 bits above the highest 1 bit of a `w`-bit value (R116). -/
def leadZeros (w x : Nat) : Nat := if x = 0 then w else w - 1 - Nat.log2 x

/-- A `w`-bit value with its bits in reverse order (R116). -/
def revBits (w x : Nat) : Nat :=
  ((List.range w).filter (fun i => x.testBit i)).foldl (fun acc i => acc + 2 ^ (w - 1 - i)) 0

/-- The distinct members of a list, in the order in which they first stand. -/
def distinct {α : Type} [DecidableEq α] : List α → List α
  | [] => []
  | x :: xs => x :: (distinct xs).filter (· ≠ x)

/-- The first `n` different members of a list, in any order. -/
def distinctUpTo {α : Type} [DecidableEq α] (n : Nat) (xs : List α) : List α :=
  xs.foldl (fun acc x => if n ≤ acc.length || acc.contains x then acc else x :: acc) []

/-- A list without the members that equal the one before them. -/
def squeeze {α : Type} [DecidableEq α] : List α → List α
  | [] => []
  | x :: xs =>
    match squeeze xs with
    | [] => [x]
    | y :: ys => if x = y then y :: ys else x :: y :: ys

/-- `n` rounded up to a multiple of `k`. -/
def roundUp (n k : Nat) : Nat := (n + k - 1) / k * k

/-- `min` over a list, with a value for the empty list. -/
def minList (d : Nat) (l : List Nat) : Nat := l.foldl min d

end Sys2Proof.Machine
end

