-- ==== Sys2Proof/Syntax.lean ====
section
/-! DEFINITION. The instructions and the device events: one constructor per row of the opcode table. -/

namespace Sys2Proof

/-- One constructor per row of the opcode table. The first 176 are instructions of the 96-bit word, and each carries the
common form of R46. The other 76 are whole steps of the device (a home agent, a fetcher, admission, a collector, a router, a
link, the host or the firmware core), and each carries what the event brings from outside: which queue, launch, group,
wave or port it concerns, and the value a host writes. -/
inductive Instr where
  /-- NOP (R299): Does nothing and continues at PC + 12. -/
  | nop (f : Form)
  /-- BRA (R302): Moves the active lanes to a relative target and gives them the target block's priority. -/
  | bra (f : Form)
  /-- BRX (R303): Moves each active lane to a 64-bit target read from a register, grouping lanes that share a target. -/
  | brx (f : Form)
  /-- CALL (R304): Writes a link block of return PC and priority, then branches to a relative target. -/
  | call (f : Form)
  /-- CALLX (R304): Writes a link block, then branches to targets read from a register. -/
  | callx (f : Form)
  /-- RET (R305): Returns each active lane to the PC and priority held in its link block. -/
  | ret (f : Form)
  /-- CONV (R309): Makes the issuing path wait at one PC until every needed lane has joined it, then continues. -/
  | conv (f : Form)
  /-- PRIO (R307): Sets the priority of the issuing path. -/
  | prio (f : Form)
  /-- VOTE (R311): Combines a predicate over the active lanes into ALL, ANY, UNI or a ballot mask. -/
  | vote (f : Form)
  /-- SLOOP (R306): Decrements a scalar counter and branches while the result is nonzero. -/
  | sloop (f : Form)
  /-- BAR (R312): Records the wave's arrival at a group barrier, fencing the named kinds and releasing the phase once the expected count is reached. -/
  | bar (f : Form)
  /-- EXIT (R315): Ends the active lanes with an 8-bit status and drops their reservations and trap frames. -/
  | exit (f : Form)
  /-- YIELD (R317): Offers the group for pre-emption; the wave stops if a request is pending before its deadline. -/
  | yield (f : Form)
  /-- SLEEP (R318): Parks the wave for a number of reference cycles of its facet. -/
  | sleep (f : Form)
  /-- ACQ (R320): Requests the group's full allotment of the named components and parks until it is granted. -/
  | acq (f : Form)
  /-- REL (R321): Parks the wave until every wave of the group has asked to lower the named components to the prologue allotment. -/
  | rel (f : Form)
  /-- TSPAWN (R323): Adds a child task with a given box and argument to the launch, or holds it back in a divisible task. -/
  | tspawn (f : Form)
  /-- TDOM (R324): Writes one field of the task's box, or its argument, to the active lanes. -/
  | tdom (f : Form)
  /-- TSPLIT (R325): Asks for a voluntary abort and halving of a divisible task, or writes 0 when the task cannot split. -/
  | tsplit (f : Form)
  /-- TCHK (R326): Aborts the task if the launch's cancel bit is set on the group's facet. -/
  | tchk (f : Form)
  /-- TCHK_TEST (R326): Writes the state of the launch's cancel bit to a predicate. -/
  | tchkTest (f : Form)
  /-- TCHK_TRAP (R326): Sends the active lanes into the cancel trap if the launch's cancel bit is set. -/
  | tchkTrap (f : Form)
  /-- SALLOC (R327): Carves and zeroes a scratchpad region, writing its address, or 0xFFFF_FFFF, or exhausting a divisible task. -/
  | salloc (f : Form)
  /-- SFREE (R328): Waits for commands that use a region, withdraws interests that deliver into it, and returns it. -/
  | sfree (f : Form)
  /-- IADD (R103): Integer add, wrapping or saturating. -/
  | iadd (f : Form)
  /-- ISUB (R103): Integer subtract, wrapping or saturating. -/
  | isub (f : Form)
  /-- IADDC (R104): Adds or subtracts with a carry held in a predicate, and writes the carry out. -/
  | iaddc (f : Form)
  /-- IMUL (R103): Integer multiply, low half. -/
  | imul (f : Form)
  /-- IMULH (R103): Integer multiply, high half. -/
  | imulh (f : Form)
  /-- IMAD (R103): Integer multiply-add. -/
  | imad (f : Form)
  /-- IMADW (R105): Widening 32 × 32 + 64-bit multiply-add into a register pair. -/
  | imadw (f : Form)
  /-- IDIV (R103): Truncating integer divide; division by zero gives all ones. -/
  | idiv (f : Form)
  /-- IREM (R103): Integer remainder; division by zero gives the dividend. -/
  | irem (f : Form)
  /-- IMIN (R103): Integer minimum. -/
  | imin (f : Form)
  /-- IMAX (R103): Integer maximum. -/
  | imax (f : Form)
  /-- IABS (R103): Integer absolute value, wrapping or saturating. -/
  | iabs (f : Form)
  /-- ISAD (R103): Sum of an absolute difference and an addend. -/
  | isad (f : Form)
  /-- ISETP (R106): Integer compare into a predicate, optionally ANDed into the old predicate. -/
  | isetp (f : Form)
  /-- ISEL (R107): Selects between two sources by a predicate. -/
  | isel (f : Form)
  /-- LEA (R108): Forms an address from a base and a scaled index. -/
  | lea (f : Form)
  /-- AND (R110): Bitwise AND, on registers or predicates. -/
  | and (f : Form)
  /-- OR (R110): Bitwise OR, on registers or predicates. -/
  | or (f : Form)
  /-- XOR (R110): Bitwise exclusive OR, on registers or predicates. -/
  | xor (f : Form)
  /-- NOT (R110): Bitwise complement, on a register or a predicate. -/
  | not (f : Form)
  /-- LOP3 (R111): Three-input bitwise function of A, B and the old D, given by a truth table. -/
  | lop3 (f : Form)
  /-- SHL (R112): Shifts left. -/
  | shl (f : Form)
  /-- SHR (R112): Shifts right, logical. -/
  | shr (f : Form)
  /-- SHRA (R112): Shifts right, arithmetic. -/
  | shra (f : Form)
  /-- FSHF (R113): Funnel shift of the 64-bit concatenation A : B. -/
  | fshf (f : Form)
  /-- BFX (R114): Extracts a bit field. -/
  | bfx (f : Form)
  /-- BFI (R115): Inserts a bit field. -/
  | bfi (f : Form)
  /-- POPC (R116): Counts the set bits. -/
  | popc (f : Form)
  /-- CLZ (R116): Counts the leading zero bits. -/
  | clz (f : Form)
  /-- BREV (R116): Reverses the bit order. -/
  | brev (f : Form)
  /-- MOV (R117): Copies a source, system registers included. -/
  | mov (f : Form)
  /-- MOVI (R117): Writes an immediate, or with .HI writes the upper half of a pair. -/
  | movi (f : Form)
  /-- SHFL (R120): Moves values between lanes within segments, by index, up, down or XOR. -/
  | shfl (f : Form)
  /-- RDLANE (R121): Reads one lane's value into every active lane. -/
  | rdlane (f : Form)
  /-- WRLANE (R121): Writes a value into one lane's element of D. -/
  | wrlane (f : Form)
  /-- BCAST (R121): Broadcasts the lowest or highest active lane's value. -/
  | bcast (f : Form)
  /-- PRMT (R122): Assembles each byte from a pool of eight bytes, with sign and zero control. -/
  | prmt (f : Form)
  /-- FADD (R124): F32 add, rounded once. -/
  | fadd (f : Form)
  /-- FSUB (R124): F32 subtract, rounded once. -/
  | fsub (f : Form)
  /-- FMUL (R124): F32 multiply. -/
  | fmul (f : Form)
  /-- FFMA (R124): F32 fused multiply-add with one rounding. -/
  | ffma (f : Form)
  /-- FMIN (R125): F32 minimum, with −0 below +0 and optional NaN propagation. -/
  | fmin (f : Form)
  /-- FMAX (R125): F32 maximum, with −0 below +0 and optional NaN propagation. -/
  | fmax (f : Form)
  /-- FSETP (R126): F32 compare into a predicate. -/
  | fsetp (f : Form)
  /-- FCLASS (R127): Classifies an F32 value as a one-hot word or a masked predicate. -/
  | fclass (f : Form)
  /-- FRCP (R128): Correctly rounded reciprocal. -/
  | frcp (f : Form)
  /-- FRSQ (R128): Correctly rounded reciprocal square root. -/
  | frsq (f : Form)
  /-- FSQRT (R128): Correctly rounded square root. -/
  | fsqrt (f : Form)
  /-- FDIV (R128): Correctly rounded divide. -/
  | fdiv (f : Form)
  /-- FEXP2 (R129): Correctly rounded 2^x. -/
  | fexp2 (f : Form)
  /-- FLOG2 (R129): Correctly rounded log2. -/
  | flog2 (f : Form)
  /-- FSIN (R129): Correctly rounded sine. -/
  | fsin (f : Form)
  /-- FCOS (R129): Correctly rounded cosine. -/
  | fcos (f : Form)
  /-- FTANH (R129): Correctly rounded hyperbolic tangent. -/
  | ftanh (f : Form)
  /-- FRND (R130): Rounds to an integral value in F32. -/
  | frnd (f : Form)
  /-- FSCALE (R131): Multiplies by a power of two. -/
  | fscale (f : Form)
  /-- HFMA2 (R132): Packed 16-bit fused multiply-add on two elements. -/
  | hfma2 (f : Form)
  /-- HADD2 (R132): Packed 16-bit add on two elements. -/
  | hadd2 (f : Form)
  /-- HMUL2 (R132): Packed 16-bit multiply on two elements. -/
  | hmul2 (f : Form)
  /-- FDOT2 (R133): Two-element 16-bit dot product into an F32 accumulator. -/
  | fdot2 (f : Form)
  /-- FDOT4 (R133): Four-element F8 dot product into an F32 accumulator. -/
  | fdot4 (f : Form)
  /-- CVT (R135): Converts a number to a floating format. -/
  | cvt (f : Form)
  /-- CVTI (R136): Converts a number to an integer type. -/
  | cvti (f : Form)
  /-- PACK (R137): Converts two F32 values into 16-bit or 8-bit elements of D. -/
  | pack (f : Form)
  /-- UNPK (R137): Converts one packed element to F32. -/
  | unpk (f : Form)
  /-- QBLK (R138): Quantises 32 F32 registers into one F4X block per lane. -/
  | qblk (f : Form)
  /-- DQBLK (R138): Decodes one F4X block per lane into 32 F32 registers. -/
  | dqblk (f : Form)
  /-- MMA (R156): Queues a 64 × 64 × K matrix multiply-accumulate of register A and shared-memory B into a tile. -/
  | mma (f : Form)
  /-- MMAB (R157): Queues a matrix multiply-accumulate whose A is a converted window of a tile. -/
  | mmab (f : Form)
  /-- MZERO (R158): Sets the active rows of a tile to +0.0. -/
  | mzero (f : Form)
  /-- MLDA (R159): Loads tile rows from shared memory. -/
  | mlda (f : Form)
  /-- MSTA (R160): Stores tile rows to shared memory, converted. -/
  | msta (f : Form)
  /-- MEMIT (R161): Moves columns of a tile's rows into registers of the wave. -/
  | memit (f : Form)
  /-- MMAP (R163): Writes an operand map describing B in shared memory. -/
  | mmap (f : Form)
  /-- MRELA (R164): Releases the tiles named by a mask, and with .L empties the latch. -/
  | mrela (f : Form)
  /-- MADDT (R162): Elementwise add or subtract of two tiles. -/
  | maddt (f : Form)
  /-- MSCL (R162): Scales a tile by row or by column. -/
  | mscl (f : Form)
  /-- LDS (R216): Loads from shared memory. -/
  | lds (f : Form)
  /-- STS (R216): Stores to shared memory. -/
  | sts (f : Form)
  /-- LDP (R216): Loads from scratchpad. -/
  | ldp (f : Form)
  /-- STP (R216): Stores to scratchpad. -/
  | stp (f : Form)
  /-- SPILL (R223): Writes a block of registers to the spill stack. -/
  | spill (f : Form)
  /-- FILL (R223): Reads a block of registers from the spill stack. -/
  | fill (f : Form)
  /-- ATS (R219): Atomic read-modify-write on shared memory. -/
  | ats (f : Form)
  /-- ATP (R219): Atomic read-modify-write on scratchpad. -/
  | atp (f : Form)
  /-- CASS (R220): Compare and swap on shared memory. -/
  | cass (f : Form)
  /-- CASP (R220): Compare and swap on scratchpad. -/
  | casp (f : Form)
  /-- LRS (R222): Load that takes a reservation in shared memory. -/
  | lrs (f : Form)
  /-- SCS (R222): Store conditional on a shared-memory reservation. -/
  | scs (f : Form)
  /-- LRP (R222): Load that takes a reservation in scratchpad. -/
  | lrp (f : Form)
  /-- SCP (R222): Store conditional on a scratchpad reservation. -/
  | scp (f : Form)
  /-- BCIN (R226): Copies rows from main memory into shared memory or scratchpad. -/
  | bcin (f : Form)
  /-- BCOUT (R226): Copies rows from local memory to main memory. -/
  | bcout (f : Form)
  /-- BGATH (R227): Gathers one element per lane from main memory. -/
  | bgath (f : Form)
  /-- BSCAT (R227): Scatters one element per lane to main memory. -/
  | bscat (f : Form)
  /-- BFILL (R226): Fills rows of main memory with a 4-byte pattern. -/
  | bfill (f : Form)
  /-- MATOM (R228): Returning atomic on main memory at the home agent. -/
  | matom (f : Form)
  /-- MRED (R228): Non-returning atomic reduction on main memory. -/
  | mred (f : Form)
  /-- MCAS (R228): Compare and swap on main memory. -/
  | mcas (f : Form)
  /-- XSUM (R229): Adds a value exactly into an exact-sum cell. -/
  | xsum (f : Form)
  /-- XRD (R229): Reads an exact-sum cell, rounded once. -/
  | xrd (f : Form)
  /-- XCLR (R229): Clears an exact-sum cell. -/
  | xclr (f : Form)
  /-- PREF (R230): Asks for a range of main memory to be brought into L2. -/
  | pref (f : Form)
  /-- FENCE (R231): Waits until earlier accesses of the named kinds are performed at the named scope. -/
  | fence (f : Form)
  /-- WAITC (R232): Parks until at most n commands of a class are unsignalled, then reports one raising status. -/
  | waitc (f : Form)
  /-- HWAIT (R233): Parks until the named handles are complete, then reports one raising status. -/
  | hwait (f : Form)
  /-- HTEST (R234): Reads a handle's completion or status without waiting or reporting. -/
  | htest (f : Form)
  /-- HCANCEL (R235): Withdraws a pending own command that has not begun to take effect. -/
  | hcancel (f : Form)
  /-- HMOV (R236): Moves a handle word to a g register, installs a reference, or copies a handle. -/
  | hmov (f : Form)
  /-- HMOV_OBJ (R236): Installs a word from a g register as an object handle. -/
  | hmovObj (f : Form)
  /-- WSPAWN (R338): Creates a free wave with a context block and puts it at the tail of a bench level. -/
  | wspawn (f : Form)
  /-- WKILL (R343): Ends a free wave with a status. -/
  | wkill (f : Form)
  /-- PNEW (R344): Creates a port with a queue of a given depth. -/
  | pnew (f : Form)
  /-- PSEND (R345): Sends a message with optional page grants to a port or proxy, waiting for room unless .NW. -/
  | psend (f : Form)
  /-- PRECV (R347): Takes the oldest message of a port, delivering its bytes and installing its grants. -/
  | precv (f : Form)
  /-- SNEW (R351): Creates a wait set. -/
  | snew (f : Form)
  /-- SADD (R351): Adds a port or timer to a wait set under a tag. -/
  | sadd (f : Form)
  /-- SDEL (R351): Removes a member from a wait set. -/
  | sdel (f : Form)
  /-- WWAIT (R352): Returns the lowest ready tag of a wait set, parking until one is ready unless .POLL. -/
  | wwait (f : Form)
  /-- TNEW (R353): Creates a disarmed timer. -/
  | tnew (f : Form)
  /-- TARM (R353): Arms a timer with a relative or absolute deadline and clears its ready state. -/
  | tarm (f : Form)
  /-- TDIS (R353): Disarms a timer and clears its ready state. -/
  | tdis (f : Form)
  /-- OLOOK (R355): Resolves a port name to a port handle or to a new proxy. -/
  | olook (f : Form)
  /-- OBIND (R354): Binds a name to a port privately. -/
  | obind (f : Form)
  /-- OBIND_PUB (R354): Binds a name to a port publicly across the Brodone domain. -/
  | obindPub (f : Form)
  /-- OBIND_UNB (R354): Removes the issuing context's binding of a name. -/
  | obindUnb (f : Form)
  /-- OFREE (R356): Frees an object and advances its generation. -/
  | ofree (f : Form)
  /-- OINFO (R357): Reads the state, count or auxiliary field of an object. -/
  | oinfo (f : Form)
  /-- NWANT (R376): Records an interest for a named tile at the die router, served from the shelf, merged or forwarded. -/
  | nwant (f : Form)
  /-- NHAVE (R377): Announces local bytes under a tile name, as a release. -/
  | nhave (f : Form)
  /-- NDROP (R378): Withdraws the wave's interest records of a key at its die router. -/
  | ndrop (f : Form)
  /-- NPEEK (R379): Looks up a key on the die router's shelf. -/
  | npeek (f : Form)
  /-- NROUTE_ADD (R380): Installs a name route in a router. -/
  | nrouteAdd (f : Form)
  /-- NROUTE_DEL (R380): Removes a name route from a router. -/
  | nrouteDel (f : Form)
  /-- NROUTE_CLR (R380): Removes every route of a name space at a router. -/
  | nrouteClr (f : Form)
  /-- TRAP (R418): Sends the active lanes into trap entry with code 0x0001 and an information value. -/
  | trap (f : Form)
  /-- RTT (R419): Pops the sub-wave's frame once all its lanes stand at an RTT, returning them to the return PC. -/
  | rtt (f : Form)
  /-- RTT_RPL (R419): Returns from trap and submits the reported command again. -/
  | rttRpl (f : Form)
  /-- RTT_ESC (R419): Hands a page-not-present frame to the firmware core as a page request. -/
  | rttEsc (f : Form)
  /-- MPOINT (R420): Releases the tiles its live mask omits and stops the wave if a pre-emption request is pending. -/
  | mpoint (f : Form)
  /-- SYSR (R421): Reads a system register. -/
  | sysr (f : Form)
  /-- SYSW (R421): Writes a system register that the issuing code may write. -/
  | sysw (f : Form)
  /-- CNTR (R422): Reads, and optionally clears, a counter of the facet's bank. -/
  | cntr (f : Form)
  /-- MONCTL_CLAIM (R401): Claims and clears the facet's counter bank for the issuing context. -/
  | monctlClaim (f : Form)
  /-- MONCTL_FREE (R401): Releases and clears the counter bank. -/
  | monctlFree (f : Form)
  /-- MONCTL_SET (R401): Clears a capture unit and sets the quantity it watches. -/
  | monctlSet (f : Form)
  /-- MONCTL_READ (R402): Reads one word of a capture unit. -/
  | monctlRead (f : Form)
  /-- TLBINV_VA (R237): Invalidates a context's translations of one address and waits for old requests to be performed. -/
  | tlbinvVa (f : Form)
  /-- TLBINV_CTX (R237): Invalidates every translation of a context. -/
  | tlbinvCtx (f : Form)
  /-- TLBINV_ALL (R237): Invalidates every translation in the package. -/
  | tlbinvAll (f : Form)
  /-- KEYSEL_GEN (R395): Generates a fresh key in a free slot and binds it to a context. -/
  | keyselGen (f : Form)
  /-- KEYSEL_DEL (R395): Waits for requests under a slot, then erases its key and frees it. -/
  | keyselDel (f : Form)
  /-- TAIL_WRITE (R262): The home agent applies a write to a queue's TAIL only if it is larger, detecting overrun. -/
  | tailWrite (q : Nat) (value : DWord)
  /-- PACKET_HEADER_REREAD (R263): The fetcher re-reads an EMPTY header at READ at least every 32 reference cycles. -/
  | packetHeaderReread (q : Nat)
  /-- LAUNCH_PACKET (R267): The fetcher reads and checks a launch record, initialises its completion record and presents it to admission. -/
  | launchPacket (q : Nat)
  /-- DEPEND_PACKET (R268): The fetcher reads the completion records a DEPEND packet names and consumes it when all are done. -/
  | dependPacket (q : Nat)
  /-- DEPEND_RECHECK (R268): The fetcher re-reads a waiting DEPEND's records at a completion or every 100 reference cycles. -/
  | dependRecheck (q : Nat)
  /-- SIGNAL_PACKET (R269): The fetcher performs a write, add or maximum at ADDR as a release, and optionally raises a host interrupt. -/
  | signalPacket (q : Nat)
  /-- NOPKT (R266): The fetcher consumes a NOPKT packet with no other effect. -/
  | nopkt (q : Nat)
  /-- QUEUE_STALL_RESUME (R265): A stalled queue returns to ACTIVE once the firmware core has made the faulting page present. -/
  | queueStallResume (q : Nat)
  /-- QUEUE_MAP (R272): The firmware core maps a waiting software queue onto an idle slot. -/
  | queueMap (q facet : Nat)
  /-- FORCED_UNMAP (R271): The firmware core force-unmaps a borrowed slot for a class below its minimum. -/
  | forcedUnmap (facet cls : Nat)
  /-- QUEUE_IDLE_UNMAP (R272): A queue idle for 10,000 reference cycles is unmapped when another queue of its class waits. -/
  | queueIdleUnmap (q : Nat)
  /-- LAUNCH_ACCEPT (R280): Admission accepts a launch under its class rule, and its packet is consumed. -/
  | launchAccept (l : Nat) (places : List (Nat × List Nat))
  /-- GROUP_PLACE (R36): Admission places a pending group on a core once capacity, spill, save and deferred storage fit. -/
  | groupPlace (l facet : Nat) (cores : List Nat)
  /-- ACQ_GRANT (R320): A waiting ACQ request is granted when its increment fits on every core. -/
  | acqGrant (g : Nat)
  /-- REL_LOWER (R321): The allotment is lowered once the commands naming the released shared memory have completed. -/
  | relLower (g : Nat)
  /-- ALLOW_EXPIRY (R285): A divisible task that has been resident for its time allowance exhausts and is aborted and split. -/
  | allowExpiry (g : Nat)
  /-- TASK_RETIRE (R288): A task whose last thread has left reduces its statuses, performs its held-back records, enters children and returns its regions. -/
  | taskRetire (g : Nat)
  /-- LAUNCH_COMPLETE (R278): When the task list is empty and no task runs, the completion record is written with DONE last. -/
  | launchComplete (l : Nat)
  /-- CANCEL_WORD_WRITE (R290): A nonzero write to a cancel word sets the cancel bit of every facet running its launches. -/
  | cancelWordWrite (l : Nat) (value : DWord)
  /-- COMMAND_COMPLETE (R207): A command's effects are performed and its completion is signalled in class order. -/
  | commandComplete (g w cls seq : Nat) (ans : Byte)
  /-- LAUNCH_END (R412): The ending fault reaches an escalation queue and the launch is ended, its waves stopped and its record written. -/
  | launchEnd (l : Nat)
  /-- RESUME_RETRY (R415): A RESUME write with action retry pops the waiting frame and returns its lanes. -/
  | resumeRetry (token : Nat)
  /-- RESUME_END (R415): A RESUME write with action end ends the launch or free wave of the waiting frame. -/
  | resumeEnd (token : Nat)
  /-- PREEMPT_WRITE (R423): The firmware core posts a pre-emption request for the group of a named wave slot. -/
  | preemptWrite (value : DWord)
  /-- PRIORITY_PREEMPT (R423): A realtime or high group unplaced for 1,000 reference cycles posts a pre-emption request. -/
  | priorityPreempt (l facet : Nat)
  /-- SAVE_DEADLINE (R424): At the yield deadline the waves still running stop and the save becomes forced. -/
  | saveDeadline (g : Nat)
  /-- GROUP_SAVE (R424): Once every engine acknowledges, the collector writes the group's state to its save area and frees its resources. -/
  | groupSave (g : Nat)
  /-- GROUP_RESTORE (R426): Admission restores a saved group on any facet of its partition and resubmits its saved work. -/
  | groupRestore (g : Nat) (places : List (Nat × List Nat))
  /-- FAIRNESS_RUN (R296): When the fairness counter reaches 4,096, a run of 64 instructions goes to the best waiting ready path. -/
  | fairnessRun (g w : Nat)
  /-- SLEEP_WAKE (R318): A sleeping wave resumes once its count of reference cycles has passed. -/
  | sleepWake (g w : Nat)
  /-- BENCH_PLACE (R340): The head of the most urgent bench level is placed on a core of its home facet. -/
  | benchPlace (facet core : Nat)
  /-- STAND_DOWN (R341): A free wave parked on PORT-class work is saved to its context block and its slot freed. -/
  | standDown (g : Nat)
  /-- STOOD_DOWN_WAKE (R342): The event ending a stood-down wave's park puts it at the tail of its bench level. -/
  | stoodDownWake (g : Nat)
  /-- TIMER_EXPIRE (R353): A timer whose home counter reaches its deadline expires and becomes ready. -/
  | timerExpire (facet idx : Nat)
  /-- PAGE_MIGRATE (R197): The firmware core moves a migrate-mode page whose counter passed its threshold into the requester's quarter. -/
  | pageMigrate (ctx : Nat) (va : DWord) (facet frame : Nat)
  /-- HOST_MEM_ACCESS (R258): A host CXL.mem or BAR2 access is served at the home agent under key slot 0. -/
  | hostMemAccess (pa : Nat) (write : Bool) (bytes : List Byte)
  /-- HOST_RECALL (R187): A host request recalls a sector from any facet's L2. -/
  | hostRecall (pa : Nat)
  /-- INTEREST_ARRIVE (R367): An interest arriving on a face makes a record, served from the shelf, merged and refreshed, or forwarded. -/
  | interestArrive (i : Nat)
  /-- TILE_ARRIVE (R370): A tile reaching a router satisfies every record of its key's entry, or is kept or dropped as a transit tile. -/
  | tileArrive (i : Nat)
  /-- INTEREST_EXPIRE (R369): An interest record whose deadline equals the router counter expires, completing local records with EXPIRED. -/
  | interestExpire (router : Nat) (key : TileKey)
  /-- SHELF_COPY_EXPIRE (R373): A home copy whose shelf lifetime has run out leaves the shelf. -/
  | shelfCopyExpire (router : Nat) (key : TileKey)
  /-- EXPIRY_NOTICE (R385): A router receiving an expiry notice expires the matching entry and passes the notice on. -/
  | expiryNotice (i : Nat)
  /-- FLIT_RECEIVE (R430): A link receiver accepts a flit with good CRC, TAG and SEQ, or discards it and requests a replay. -/
  | flitReceive (port : Nat) (f : Flit)
  /-- REPLAY_REQUEST (R430): A sender answers a replay request by resending from the named SEQ, retraining after three failures. -/
  | replayRequest (port : Nat) (f : Flit)
  /-- ACK_TIMEOUT (R430): A flit not acknowledged within 1,000 reference cycles counts as a failed send. -/
  | ackTimeout (port : Nat)
  /-- LINK_TRAINING (R431): A training attempt completes, agreeing a width, lanes, speed and port key, or leaving the port down. -/
  | linkTraining (port : Nat) (maskA maskB : BitVec 4) (speedsA speedsB : BitVec 3) (verified : Bool)
  /-- TRAINING_RETRY (R431): A down port retries training every 1,000,000 reference cycles. -/
  | trainingRetry (port : Nat)
  /-- BUCKET_DRAIN (R432): At each hour of the router counter, one retrain token drains. -/
  | bucketDrain (router : Nat)
  /-- PEER_RETIRE_FLIT (R432): A final training flit from the far end retires this end of the port. -/
  | peerRetireFlit (final : PortFlit)
  /-- ROUTE_REGENERATE (R433): The firmware cores rebuild fabric and name routes over the remaining ports. -/
  | routeRegenerate (fabric : List (Nat × Nat)) (routes : List (Nat × Route))
  /-- THERM_HOT (R446): A junction passing 95 °C sets THERM to hot and allows thermal migration. -/
  | thermHot (facet core : Nat)
  /-- THERM_THROTTLE (R446): A junction passing 105 °C sets THERM to throttling. -/
  | thermThrottle (facet core : Nat)
  /-- THROTTLE_STEP (R446): A throttling island steps down 50 MHz every 10,000 reference cycles. -/
  | throttleStep (facet : Nat)
  /-- THERM_TRIP (R446): A junction reaching 115 °C powers off every island and ends its launches. -/
  | thermTrip (facet core : Nat)
  /-- COLD_RESET (R447): Power-up loads fuses, zeroes counters, runs the boot test, starts firmware and trains the ports. -/
  | coldReset (boot : Boot)
  /-- HOST_PORT_TRAIN (R434): The host port trains to the rate and width the host offers. -/
  | hostPortTrain (rate width : Nat) (cxl : Bool)
  /-- HEALTH_WRITE (R436): A host write to HEALTH clears the W1C bits QERR and LOGNEW. -/
  | healthWrite (value : DWord)
  /-- DRVSTAT_WRITE (R438): A host write to DRVSTAT clears the W1C bit OVER. -/
  | drvstatWrite (value : DWord)
  /-- REGISTER_WRITE (R436): A host write to a BAR0 register without behaviour of its own, such as WINBASE or DRVARG. -/
  | registerWrite (offset : Nat) (value : DWord)
  /-- QCLEAR (R441): Clears a queue in ERROR by skip, retry or discard. -/
  | qclear
  /-- BIAS (R442): Flips a range of pages to host or device bias in ascending order. -/
  | bias
  /-- PAGEANS (R442): Answers a page request, after which the firmware core writes RESUME. -/
  | pageans
  /-- FWUPD (R443): Starts a firmware update: sets FWBUSY and verifies the image. The event names what the image's bytes give: whether its
  signature verifies, and its version. -/
  | fwupd (accepted : Bool) (version : Nat)
  /-- FWUPD_SWITCH (R443): After verification every die's firmware core switches to the new image and the result is written. -/
  | fwupdSwitch
  /-- DRAIN (R444): Stops fetchers and saves all work of the masked facets ahead of the copy. -/
  | drain
  /-- DRAIN_COMPLETE (R444): Every sector has been re-encrypted and written to host memory, and DRAINED is set. -/
  | drainComplete
  /-- ATTEST (R405): The firmware core writes and signs an attestation report for the host. -/
  | attest
  /-- LOGSET (R439): Sets the host error log base, size and vector. -/
  | logset
  /-- PRSET (R442): Sets the host page-request ring base, size and vector. -/
  | prset
  /-- DRVCMD_BAD_OP (R438): A DRVCMD write with code 0 or 9 to 15 gives RESULT 1. -/
  | drvcmdBadOp (op : BitVec 4)
  /-- CONTEXT_END (R393): The firmware ends a context by unmapping queues, freeing objects and regions, invalidating TLBs and destroying its key. -/
  | contextEnd (ctx : Nat)
  /-- PARTITION_CHANGE (R390): The firmware moves facets between partitions, zeroing scratchpad and shelf and invalidating L2 and TLBs. -/
  | partitionChange (base log2 shelfUnits reserve : Nat)
  /-- REFERENCE_CLOCK_EDGE (R445): An edge of the 100 MHz reference clock advances every facet and router reference counter by 1. -/
  | referenceClockEdge
  /-- THERM_DROP (R446): A junction that falls below a threshold lowers THERM and writes a KIND 6 entry, and throttling stops stepping once below 100 °C. -/
  | thermDrop (facet core level : Nat)
  /-- CONTEXT_CREATE (R392): The firmware core makes a context descriptor live, refusing it if its NSPACE breaks the PEER_ID or uniqueness rule. -/
  | contextCreate (c : CtxDesc)
  /-- QUEUE_REGISTER (R261): The firmware core registers a software queue's control block when it creates the queue. -/
  | queueRegister (ctx : Nat) (cb : DWord)
  deriving DecidableEq, Repr

end Sys2Proof
end

