-- ==== Sys2Proof/Machine/Encoding.lean ====
section
/-! DEFINITION. The encoding tables of the spec: one row per OP, its operand fields, VAR, TY and IMM, and the constructor an
OP and VAR stand for. -/

namespace Sys2Proof.Machine

/-- How an instruction uses IMM, where no source of it is a long immediate (R46, R51, R52). -/
inductive ImmUse where
  /-- No use: every bit is zero, and a long immediate has no place here. -/
  | zero
  /-- A long immediate, or zero. -/
  | value
  /-- A third source operand in [11:0] (R52). -/
  | third
  /-- A long immediate, zero, or a third operand in [11:0], which must be none (R106, assumption 69). -/
  | compare
  /-- A command handle operand in [11:0] (R153). -/
  | handle
  /-- Branch offset and target priority (R63). -/
  | branch
  /-- Target priority in [31:20] (R299). -/
  | prio
  /-- A signed 32-bit byte offset (R70). -/
  | off
  /-- OFF, SCOPE and ORD of a local atomic (R214). -/
  | atomic
  /-- Handle, SCOPE and ORD of a main-memory atomic (R224). -/
  | mem
  /-- The truth table of LOP3 (R111). -/
  | lut
  /-- The source type of CVT and CVTI (R134). -/
  | cvt
  /-- The byte position of PACK (R134). -/
  | pos
  /-- The element number of UNPK (R134). -/
  | elem
  /-- Barrier number and fence kinds (R299). -/
  | barrier
  /-- The code of TRAP (R417). -/
  | code
  /-- The kinds of FENCE, at least one (R231). -/
  | kinds
  /-- The count of WAITC (R232). -/
  | count
  /-- The mask of HWAIT, where A is none (R233). -/
  | hmask
  /-- The handle and tag of SADD (R337). -/
  | tag
  deriving DecidableEq, Repr

/-- What the encoding tables say of one OP. `slot` is 0 where slot mode is illegal, 1 where it is legal with VAR[3] = 0, and 2
where VAR[3] stays a variant bit (R59). -/
structure EncRow where
  vars  : List Nat
  tys   : List Ty
  slot  : Nat
  guard : Bool
  imm   : ImmUse
  deriving DecidableEq, Repr

/-- The encoding tables of R102, R106 to R109, R117, R118, R123, R132 to R134, R155, R214, R223, R224, R231 to R237, R299,
R337, R374, R395, R401 and R417, by OP. An OP that is not in the table is not assigned (R62). The third
operand of ISETP and FSETP must be none (R106, assumption 69). -/
def encRow (op : Nat) : Option EncRow :=
  match op with
  | 0x00 => some ⟨[0], [.b32], 0, true, .zero⟩
  | 0x01 => some ⟨[0], [.b32], 0, true, .branch⟩
  | 0x02 => some ⟨[0], [.b32], 0, true, .prio⟩
  | 0x03 => some ⟨[0], [.b32], 0, true, .branch⟩
  | 0x04 => some ⟨[0], [.b32], 0, true, .prio⟩
  | 0x05 => some ⟨[0], [.b32], 0, true, .zero⟩
  | 0x06 => some ⟨[0], [.b32], 0, false, .zero⟩
  | 0x07 => some ⟨[0], [.b32], 0, false, .prio⟩
  | 0x08 => some ⟨[0, 1, 2, 3, 8, 9, 10, 11], [.b32], 0, true, .zero⟩
  | 0x09 => some ⟨[0], [.b32], 0, true, .branch⟩
  | 0x0A => some ⟨[0], [.b32], 0, false, .barrier⟩
  | 0x0B => some ⟨[0], [.b32], 0, true, .value⟩
  | 0x0C => some ⟨[0], [.b32], 0, false, .zero⟩
  | 0x0D => some ⟨[0], [.b32], 0, true, .value⟩
  | 0x0E => some ⟨[0, 1, 2, 3, 4, 5, 6, 7, 8, 9, 10, 11, 12, 13, 14, 15], [.b32], 0, false, .zero⟩
  | 0x0F => some ⟨[0, 1, 2, 3, 4, 5, 6, 7, 8, 9, 10, 11, 12, 13, 14, 15], [.b32], 0, false, .zero⟩
  | 0x10 => some ⟨[0], [.b32], 0, true, .value⟩
  | 0x11 => some ⟨[0, 1, 2, 3, 4, 5, 6], [.n32], 0, true, .zero⟩
  | 0x12 => some ⟨[0], [.b32], 0, false, .zero⟩
  | 0x13 => some ⟨[0, 1, 2], [.b32], 0, true, .zero⟩
  | 0x14 => some ⟨[0, 1], [.b32], 0, true, .value⟩
  | 0x15 => some ⟨[0], [.b32], 0, true, .value⟩
  | 0x20 => some ⟨[0, 1], [.b32, .s32, .n32, .b64, .s64, .n64], 0, true, .value⟩
  | 0x21 => some ⟨[0, 1], [.b32, .s32, .n32, .b64, .s64, .n64], 0, true, .value⟩
  | 0x22 => some ⟨[0, 8], [.n32, .n64], 0, true, .third⟩
  | 0x23 => some ⟨[0], [.b32, .s32, .n32, .b64, .s64, .n64], 0, true, .value⟩
  | 0x24 => some ⟨[0], [.s32, .n32, .s64, .n64], 0, true, .value⟩
  | 0x25 => some ⟨[0], [.b32, .s32, .n32, .b64, .s64, .n64], 0, true, .third⟩
  | 0x26 => some ⟨[0], [.s32, .n32], 0, true, .third⟩
  | 0x27 => some ⟨[0], [.s32, .n32, .s64, .n64], 0, true, .value⟩
  | 0x28 => some ⟨[0], [.s32, .n32, .s64, .n64], 0, true, .value⟩
  | 0x29 => some ⟨[0], [.s32, .n32, .s64, .n64], 0, true, .value⟩
  | 0x2A => some ⟨[0], [.s32, .n32, .s64, .n64], 0, true, .value⟩
  | 0x2B => some ⟨[0, 1], [.s32, .s64], 0, true, .value⟩
  | 0x2C => some ⟨[0], [.s32, .n32], 0, true, .third⟩
  | 0x2D => some ⟨[0, 1, 2, 3, 4, 5, 8, 9, 10, 11, 12, 13], [.s32, .n32, .s64, .n64], 0, true, .compare⟩
  | 0x2E => some ⟨[0], [.b32, .b64], 0, true, .third⟩
  | 0x2F => some ⟨[0, 1, 2, 3, 4, 5, 6, 7, 8, 9, 10, 11, 12, 13, 14, 15], [.n32, .n64], 0, true, .value⟩
  | 0x30 => some ⟨[0], [.b32, .b64], 0, true, .value⟩
  | 0x31 => some ⟨[0], [.b32, .b64], 0, true, .value⟩
  | 0x32 => some ⟨[0], [.b32, .b64], 0, true, .value⟩
  | 0x33 => some ⟨[0], [.b32, .b64], 0, true, .value⟩
  | 0x34 => some ⟨[0], [.b32, .b64], 0, true, .lut⟩
  | 0x35 => some ⟨[0], [.b32, .b64], 0, true, .value⟩
  | 0x36 => some ⟨[0], [.b32, .b64], 0, true, .value⟩
  | 0x37 => some ⟨[0], [.s32, .s64], 0, true, .value⟩
  | 0x38 => some ⟨[0, 1], [.b32], 0, true, .third⟩
  | 0x39 => some ⟨[0], [.s32, .n32, .s64, .n64], 0, true, .third⟩
  | 0x3A => some ⟨[0], [.b32, .b64], 0, true, .third⟩
  | 0x3B => some ⟨[0], [.b32, .b64], 0, true, .value⟩
  | 0x3C => some ⟨[0], [.b32, .b64], 0, true, .value⟩
  | 0x3D => some ⟨[0], [.b32, .b64], 0, true, .value⟩
  | 0x3E => some ⟨[0], [.b32, .b64], 0, true, .value⟩
  | 0x3F => some ⟨[0, 1], [.b32, .b64, .f32], 0, true, .value⟩
  | 0x40 => some ⟨[0, 1, 2, 3, 4, 5, 6, 7, 8, 9, 10, 11, 12, 13, 14, 15], [.b32, .b64], 0, true, .value⟩
  | 0x41 => some ⟨[0], [.b32, .b64], 0, true, .value⟩
  | 0x42 => some ⟨[0], [.b32, .b64], 0, true, .value⟩
  | 0x43 => some ⟨[0, 1], [.b32, .b64], 0, true, .zero⟩
  | 0x44 => some ⟨[0], [.b32], 0, true, .third⟩
  | 0x48 => some ⟨[0, 1, 2, 3], [.f32], 0, true, .value⟩
  | 0x49 => some ⟨[0, 1, 2, 3], [.f32], 0, true, .value⟩
  | 0x4A => some ⟨[0, 1, 2, 3], [.f32], 0, true, .value⟩
  | 0x4B => some ⟨[0, 1, 2, 3], [.f32], 0, true, .third⟩
  | 0x4C => some ⟨[0, 1], [.f32], 0, true, .value⟩
  | 0x4D => some ⟨[0, 1], [.f32], 0, true, .value⟩
  | 0x4E => some ⟨[0, 1, 2, 3, 4, 5, 6, 7, 8, 9, 10, 11, 12, 13, 14, 15], [.f32], 0, true, .compare⟩
  | 0x4F => some ⟨[0], [.f32], 0, true, .value⟩
  | 0x50 => some ⟨[0, 1, 2, 3], [.f32], 0, true, .value⟩
  | 0x51 => some ⟨[0, 1, 2, 3], [.f32], 0, true, .value⟩
  | 0x52 => some ⟨[0, 1, 2, 3], [.f32], 0, true, .value⟩
  | 0x53 => some ⟨[0, 1, 2, 3], [.f32], 0, true, .value⟩
  | 0x54 => some ⟨[0], [.f32], 0, true, .value⟩
  | 0x55 => some ⟨[0], [.f32], 0, true, .value⟩
  | 0x56 => some ⟨[0], [.f32], 0, true, .value⟩
  | 0x57 => some ⟨[0], [.f32], 0, true, .value⟩
  | 0x58 => some ⟨[0], [.f32], 0, true, .value⟩
  | 0x59 => some ⟨[0, 1, 2, 3], [.f32], 0, true, .value⟩
  | 0x5A => some ⟨[0, 1, 2, 3], [.f32], 0, true, .value⟩
  | 0x5B => some ⟨[0, 1, 2, 3], [.f16, .bf16], 0, true, .third⟩
  | 0x5C => some ⟨[0, 1, 2, 3], [.f16, .bf16], 0, true, .value⟩
  | 0x5D => some ⟨[0, 1, 2, 3], [.f16, .bf16], 0, true, .value⟩
  | 0x5E => some ⟨[0, 1, 2, 3], [.f16, .bf16], 0, true, .third⟩
  | 0x5F => some ⟨[0, 1, 2, 3], [.f8e4, .f8e5], 1, true, .third⟩
  | 0x60 => some ⟨[0, 1, 2, 3, 4, 5, 6, 7], [.f32, .f16, .bf16, .f8e4, .f8e5], 1, true, .cvt⟩
  | 0x61 => some ⟨[0, 1, 2, 3, 4, 5, 6, 7], [.s8, .s16, .s32, .s64, .n8, .n16, .n32, .n64], 0, true, .cvt⟩
  | 0x62 => some ⟨[0, 1, 2, 3, 4, 5, 6, 7], [.f16, .bf16, .f8e4, .f8e5], 1, true, .pos⟩
  | 0x63 => some ⟨[0], [.f16, .bf16, .f8e4, .f8e5], 1, true, .elem⟩
  | 0x64 => some ⟨[], [], 1, true, .zero⟩
  | 0x65 => some ⟨[], [], 1, true, .zero⟩
  | 0x68 => some ⟨[0], [.f32, .f16, .bf16, .f8e4, .f8e5], 1, true, .handle⟩
  | 0x69 => some ⟨[0, 1, 2, 3, 4, 5, 6, 7], [.f32, .f16, .bf16, .f8e4, .f8e5], 0, true, .handle⟩
  | 0x6A => some ⟨[0], [.b32], 0, true, .handle⟩
  | 0x6B => some ⟨[0], [.f32, .f16, .bf16, .f8e4, .f8e5], 0, true, .handle⟩
  | 0x6C => some ⟨[0, 1, 2, 3, 4, 5, 6, 7], [.f32, .f16, .bf16, .f8e4, .f8e5], 0, true, .handle⟩
  | 0x6D => some ⟨[0, 1, 2, 3, 4, 5, 6, 7, 8, 9, 10, 11, 12, 13, 14, 15], [.f32, .f16, .bf16], 0, true, .handle⟩
  | 0x6E => some ⟨[0, 8], [.f32, .f16, .bf16, .f8e4, .f8e5], 2, true, .value⟩
  | 0x6F => some ⟨[0, 1], [.b32], 0, true, .value⟩
  | 0x70 => some ⟨[0, 1, 2, 3, 8, 9, 10, 11], [.f32], 0, true, .handle⟩
  | 0x71 => some ⟨[0, 1, 2, 3, 8, 9, 10, 11], [.f32], 0, true, .handle⟩
  | 0x80 => some ⟨[0], [.s8, .n8, .s16, .n16, .b32, .b64], 0, true, .off⟩
  | 0x81 => some ⟨[0], [.s8, .n8, .s16, .n16, .b32, .b64], 0, true, .off⟩
  | 0x82 => some ⟨[0], [.s8, .n8, .s16, .n16, .b32, .b64], 0, true, .off⟩
  | 0x83 => some ⟨[0], [.s8, .n8, .s16, .n16, .b32, .b64], 0, true, .off⟩
  | 0x84 => some ⟨[0, 1, 2, 3, 4, 5, 6, 7, 8, 9, 10, 11, 12, 13, 14, 15], [.b32], 0, true, .off⟩
  | 0x85 => some ⟨[0, 1, 2, 3, 4, 5, 6, 7, 8, 9, 10, 11, 12, 13, 14, 15], [.b32], 0, true, .off⟩
  | 0x86 => some ⟨[0, 1, 2, 3, 4, 5, 6, 7, 8, 9, 10], [.b32, .s32, .n32, .f32, .b64, .s64, .n64], 0, true, .atomic⟩
  | 0x87 => some ⟨[0, 1, 2, 3, 4, 5, 6, 7, 8, 9, 10], [.b32, .s32, .n32, .f32, .b64, .s64, .n64], 0, true, .atomic⟩
  | 0x88 => some ⟨[0], [.b32, .b64], 0, true, .atomic⟩
  | 0x89 => some ⟨[0], [.b32, .b64], 0, true, .atomic⟩
  | 0x8A => some ⟨[0], [.s8, .n8, .s16, .n16, .b32, .b64], 0, true, .atomic⟩
  | 0x8B => some ⟨[0], [.s8, .n8, .s16, .n16, .b32, .b64], 0, true, .atomic⟩
  | 0x8C => some ⟨[0], [.s8, .n8, .s16, .n16, .b32, .b64], 0, true, .atomic⟩
  | 0x8D => some ⟨[0], [.s8, .n8, .s16, .n16, .b32, .b64], 0, true, .atomic⟩
  | 0x90 => some ⟨[0, 1], [.b32], 0, true, .handle⟩
  | 0x91 => some ⟨[0, 1], [.b32], 0, true, .handle⟩
  | 0x92 => some ⟨[0, 1, 2], [.s8, .n8, .s16, .n16, .b32, .b64], 0, true, .handle⟩
  | 0x93 => some ⟨[0, 1, 2], [.s8, .n8, .s16, .n16, .b32, .b64], 0, true, .handle⟩
  | 0x94 => some ⟨[0], [.b32], 0, true, .handle⟩
  | 0x95 => some ⟨[0, 1, 2, 3, 4, 5, 6, 7, 8, 9, 10, 11], [.b32, .s32, .n32, .f32, .b64, .s64, .n64], 0, true, .mem⟩
  | 0x96 => some ⟨[0, 1, 2, 3, 4, 5, 6, 7, 8, 9, 10, 11], [.b32, .s32, .n32, .f32, .b64, .s64, .n64], 0, true, .mem⟩
  | 0x97 => some ⟨[0], [.b32, .b64], 0, true, .mem⟩
  | 0x98 => some ⟨[0], [.f32, .f16, .bf16], 0, true, .mem⟩
  | 0x99 => some ⟨[0, 1, 2, 3], [.f32, .f16, .bf16], 0, true, .mem⟩
  | 0x9A => some ⟨[0], [.b32], 0, true, .mem⟩
  | 0x9B => some ⟨[0], [.b32], 0, true, .zero⟩
  | 0xA0 => some ⟨[0, 1, 2, 3, 4, 5], [.b32], 0, true, .kinds⟩
  | 0xA1 => some ⟨[1, 2, 3, 4, 5, 6, 7], [.b32], 0, true, .count⟩
  | 0xA2 => some ⟨[0], [.b32], 0, true, .hmask⟩
  | 0xA3 => some ⟨[0], [.b32], 0, true, .zero⟩
  | 0xA4 => some ⟨[0], [.b32], 0, true, .zero⟩
  | 0xA5 => some ⟨[0, 1], [.b32], 0, true, .zero⟩
  | 0xB0 => some ⟨[0], [.b32], 0, true, .zero⟩
  | 0xB1 => some ⟨[0], [.b32], 0, true, .handle⟩
  | 0xB2 => some ⟨[0], [.b32], 0, true, .zero⟩
  | 0xB3 => some ⟨[0, 1, 2, 3], [.b32], 0, true, .handle⟩
  | 0xB4 => some ⟨[0, 1, 2, 3], [.b32], 0, true, .handle⟩
  | 0xB5 => some ⟨[0], [.b32], 0, true, .zero⟩
  | 0xB6 => some ⟨[0], [.b32], 0, true, .tag⟩
  | 0xB7 => some ⟨[0], [.b32], 0, true, .handle⟩
  | 0xB8 => some ⟨[0, 1], [.b32], 0, true, .zero⟩
  | 0xB9 => some ⟨[0], [.b32], 0, true, .zero⟩
  | 0xBA => some ⟨[0, 1], [.b32], 0, true, .handle⟩
  | 0xBB => some ⟨[0], [.b32], 0, true, .handle⟩
  | 0xBC => some ⟨[0], [.b32], 0, true, .zero⟩
  | 0xBD => some ⟨[0, 1, 2], [.b32], 0, true, .handle⟩
  | 0xBE => some ⟨[0], [.b32], 0, true, .handle⟩
  | 0xBF => some ⟨[0, 1, 2], [.b32], 0, true, .handle⟩
  | 0xC0 => some ⟨[0, 1], [.b32], 0, true, .handle⟩
  | 0xC1 => some ⟨[0, 1], [.b32], 0, true, .handle⟩
  | 0xC2 => some ⟨[0], [.b32], 0, true, .handle⟩
  | 0xC3 => some ⟨[0], [.b32], 0, true, .handle⟩
  | 0xC4 => some ⟨[0, 1, 2], [.b32], 0, true, .zero⟩
  | 0xD0 => some ⟨[0], [.b32], 0, true, .code⟩
  | 0xD1 => some ⟨[0, 1, 2], [.b32], 0, false, .zero⟩
  | 0xD2 => some ⟨[0], [.b32], 0, true, .value⟩
  | 0xD3 => some ⟨[0], [.b32, .b64], 0, true, .value⟩
  | 0xD4 => some ⟨[0], [.b32, .b64], 0, true, .value⟩
  | 0xD5 => some ⟨[0, 1], [.b64], 0, true, .value⟩
  | 0xD6 => some ⟨[0, 1, 2, 3], [.b32], 0, true, .zero⟩
  | 0xD7 => some ⟨[0, 1, 2], [.b32], 0, true, .zero⟩
  | 0xD8 => some ⟨[0, 1], [.b32], 0, true, .zero⟩
  | _ => none

/-- Which of the fields D, A and B an instruction's form uses; every other one holds the none operand (R52). -/
def fieldsUsed (op var : Nat) : Bool × Bool × Bool :=
  match op with
  | 0x00 => (false, false, false)
  | 0x01 => (false, false, false)
  | 0x02 => (false, true, false)
  | 0x03 => (true, false, false)
  | 0x04 => (true, true, false)
  | 0x05 => (false, true, false)
  | 0x06 => (false, true, false)
  | 0x07 => (false, false, false)
  | 0x08 => (true, true, false)
  | 0x09 => (true, false, false)
  | 0x0A => (false, true, false)
  | 0x0B => (false, true, false)
  | 0x0C => (false, false, false)
  | 0x0D => (false, true, false)
  | 0x0E => (false, false, false)
  | 0x0F => (false, false, false)
  | 0x10 => (false, true, true)
  | 0x11 => (true, false, false)
  | 0x12 => (true, false, false)
  | 0x13 => (var == 1, false, false)
  | 0x14 => (true, true, var == 1)
  | 0x15 => (false, true, false)
  | 0x20 => (true, true, true)
  | 0x21 => (true, true, true)
  | 0x22 => (true, true, true)
  | 0x23 => (true, true, true)
  | 0x24 => (true, true, true)
  | 0x25 => (true, true, true)
  | 0x26 => (true, true, true)
  | 0x27 => (true, true, true)
  | 0x28 => (true, true, true)
  | 0x29 => (true, true, true)
  | 0x2A => (true, true, true)
  | 0x2B => (true, true, false)
  | 0x2C => (true, true, true)
  | 0x2D => (true, true, true)
  | 0x2E => (true, true, true)
  | 0x2F => (true, true, true)
  | 0x30 => (true, true, true)
  | 0x31 => (true, true, true)
  | 0x32 => (true, true, true)
  | 0x33 => (true, true, false)
  | 0x34 => (true, true, true)
  | 0x35 => (true, true, true)
  | 0x36 => (true, true, true)
  | 0x37 => (true, true, true)
  | 0x38 => (true, true, true)
  | 0x39 => (true, true, true)
  | 0x3A => (true, true, true)
  | 0x3B => (true, true, false)
  | 0x3C => (true, true, false)
  | 0x3D => (true, true, false)
  | 0x3E => (true, true, false)
  | 0x3F => (true, true, false)
  | 0x40 => (true, true, true)
  | 0x41 => (true, true, true)
  | 0x42 => (true, true, true)
  | 0x43 => (true, true, false)
  | 0x44 => (true, true, true)
  | 0x48 => (true, true, true)
  | 0x49 => (true, true, true)
  | 0x4A => (true, true, true)
  | 0x4B => (true, true, true)
  | 0x4C => (true, true, true)
  | 0x4D => (true, true, true)
  | 0x4E => (true, true, true)
  | 0x4F => (true, true, true)
  | 0x50 => (true, true, false)
  | 0x51 => (true, true, false)
  | 0x52 => (true, true, false)
  | 0x53 => (true, true, true)
  | 0x54 => (true, true, false)
  | 0x55 => (true, true, false)
  | 0x56 => (true, true, false)
  | 0x57 => (true, true, false)
  | 0x58 => (true, true, false)
  | 0x59 => (true, true, false)
  | 0x5A => (true, true, true)
  | 0x5B => (true, true, true)
  | 0x5C => (true, true, true)
  | 0x5D => (true, true, true)
  | 0x5E => (true, true, true)
  | 0x5F => (true, true, true)
  | 0x60 => (true, true, false)
  | 0x61 => (true, true, false)
  | 0x62 => (true, true, true)
  | 0x63 => (true, true, false)
  | 0x64 => (true, true, false)
  | 0x65 => (true, true, false)
  | 0x68 => (true, true, true)
  | 0x69 => (true, true, true)
  | 0x6A => (true, false, false)
  | 0x6B => (true, true, false)
  | 0x6C => (false, true, true)
  | 0x6D => (true, true, true)
  | 0x6E => (true, true, true)
  | 0x6F => (false, true, false)
  | 0x70 => (true, true, true)
  | 0x71 => (true, true, true)
  | 0x80 => (true, true, false)
  | 0x81 => (false, true, true)
  | 0x82 => (true, true, false)
  | 0x83 => (false, true, true)
  | 0x84 => (false, true, true)
  | 0x85 => (true, true, false)
  | 0x86 => (true, true, true)
  | 0x87 => (true, true, true)
  | 0x88 => (true, true, true)
  | 0x89 => (true, true, true)
  | 0x8A => (true, true, false)
  | 0x8B => (true, true, true)
  | 0x8C => (true, true, false)
  | 0x8D => (true, true, true)
  | 0x90 => (false, true, false)
  | 0x91 => (false, true, false)
  | 0x92 => (var == 0, true, var != 0)
  | 0x93 => (false, true, true)
  | 0x94 => (false, true, true)
  | 0x95 => (true, true, true)
  | 0x96 => (false, true, true)
  | 0x97 => (true, true, true)
  | 0x98 => (false, true, true)
  | 0x99 => (true, true, false)
  | 0x9A => (false, true, false)
  | 0x9B => (false, true, true)
  | 0xA0 => (false, false, false)
  | 0xA1 => (false, false, false)
  | 0xA2 => (false, true, false)
  | 0xA3 => (true, true, false)
  | 0xA4 => (true, true, false)
  | 0xA5 => (true, true, false)
  | 0xB0 => (true, true, true)
  | 0xB1 => (false, true, true)
  | 0xB2 => (true, true, false)
  | 0xB3 => (false, true, true)
  | 0xB4 => (true, true, false)
  | 0xB5 => (true, false, false)
  | 0xB6 => (false, true, true)
  | 0xB7 => (false, true, true)
  | 0xB8 => (true, true, false)
  | 0xB9 => (true, false, false)
  | 0xBA => (false, true, true)
  | 0xBB => (false, true, false)
  | 0xBC => (true, true, false)
  | 0xBD => (false, var != 2, true)
  | 0xBE => (false, true, false)
  | 0xBF => (true, true, false)
  | 0xC0 => (false, true, true)
  | 0xC1 => (false, true, true)
  | 0xC2 => (false, true, true)
  | 0xC3 => (true, true, true)
  | 0xC4 => (true, true, false)
  | 0xD0 => (false, false, false)
  | 0xD1 => (false, false, false)
  | 0xD2 => (false, true, false)
  | 0xD3 => (true, true, false)
  | 0xD4 => (true, true, false)
  | 0xD5 => (true, true, false)
  | 0xD6 => (var == 0 || var == 3, 2 ≤ var, 2 ≤ var)
  | 0xD7 => (false, var == 0, var ≤ 1)
  | 0xD8 => (true, true, var == 0)
  | _ => (false, false, false)

/-- The instruction that an OP and a form stand for. Where several rows of the table share an OP, VAR tells them apart. -/
def assemble (op : Nat) (f : Form) : Option Instr :=
  match op with
  | 0x00 => some (.nop f)
  | 0x01 => some (.bra f)
  | 0x02 => some (.brx f)
  | 0x03 => some (.call f)
  | 0x04 => some (.callx f)
  | 0x05 => some (.ret f)
  | 0x06 => some (.conv f)
  | 0x07 => some (.prio f)
  | 0x08 => some (.vote f)
  | 0x09 => some (.sloop f)
  | 0x0A => some (.bar f)
  | 0x0B => some (.exit f)
  | 0x0C => some (.yield f)
  | 0x0D => some (.sleep f)
  | 0x0E => some (.acq f)
  | 0x0F => some (.rel f)
  | 0x10 => some (.tspawn f)
  | 0x11 => some (.tdom f)
  | 0x12 => some (.tsplit f)
  | 0x13 => if f.var.toNat = 0 then some (.tchk f) else if f.var.toNat = 1 then some (.tchkTest f) else if f.var.toNat = 2 then some (.tchkTrap f) else none
  | 0x14 => some (.salloc f)
  | 0x15 => some (.sfree f)
  | 0x20 => some (.iadd f)
  | 0x21 => some (.isub f)
  | 0x22 => some (.iaddc f)
  | 0x23 => some (.imul f)
  | 0x24 => some (.imulh f)
  | 0x25 => some (.imad f)
  | 0x26 => some (.imadw f)
  | 0x27 => some (.idiv f)
  | 0x28 => some (.irem f)
  | 0x29 => some (.imin f)
  | 0x2A => some (.imax f)
  | 0x2B => some (.iabs f)
  | 0x2C => some (.isad f)
  | 0x2D => some (.isetp f)
  | 0x2E => some (.isel f)
  | 0x2F => some (.lea f)
  | 0x30 => some (.and f)
  | 0x31 => some (.or f)
  | 0x32 => some (.xor f)
  | 0x33 => some (.not f)
  | 0x34 => some (.lop3 f)
  | 0x35 => some (.shl f)
  | 0x36 => some (.shr f)
  | 0x37 => some (.shra f)
  | 0x38 => some (.fshf f)
  | 0x39 => some (.bfx f)
  | 0x3A => some (.bfi f)
  | 0x3B => some (.popc f)
  | 0x3C => some (.clz f)
  | 0x3D => some (.brev f)
  | 0x3E => some (.mov f)
  | 0x3F => some (.movi f)
  | 0x40 => some (.shfl f)
  | 0x41 => some (.rdlane f)
  | 0x42 => some (.wrlane f)
  | 0x43 => some (.bcast f)
  | 0x44 => some (.prmt f)
  | 0x48 => some (.fadd f)
  | 0x49 => some (.fsub f)
  | 0x4A => some (.fmul f)
  | 0x4B => some (.ffma f)
  | 0x4C => some (.fmin f)
  | 0x4D => some (.fmax f)
  | 0x4E => some (.fsetp f)
  | 0x4F => some (.fclass f)
  | 0x50 => some (.frcp f)
  | 0x51 => some (.frsq f)
  | 0x52 => some (.fsqrt f)
  | 0x53 => some (.fdiv f)
  | 0x54 => some (.fexp2 f)
  | 0x55 => some (.flog2 f)
  | 0x56 => some (.fsin f)
  | 0x57 => some (.fcos f)
  | 0x58 => some (.ftanh f)
  | 0x59 => some (.frnd f)
  | 0x5A => some (.fscale f)
  | 0x5B => some (.hfma2 f)
  | 0x5C => some (.hadd2 f)
  | 0x5D => some (.hmul2 f)
  | 0x5E => some (.fdot2 f)
  | 0x5F => some (.fdot4 f)
  | 0x60 => some (.cvt f)
  | 0x61 => some (.cvti f)
  | 0x62 => some (.pack f)
  | 0x63 => some (.unpk f)
  | 0x64 => some (.qblk f)
  | 0x65 => some (.dqblk f)
  | 0x68 => some (.mma f)
  | 0x69 => some (.mmab f)
  | 0x6A => some (.mzero f)
  | 0x6B => some (.mlda f)
  | 0x6C => some (.msta f)
  | 0x6D => some (.memit f)
  | 0x6E => some (.mmap f)
  | 0x6F => some (.mrela f)
  | 0x70 => some (.maddt f)
  | 0x71 => some (.mscl f)
  | 0x80 => some (.lds f)
  | 0x81 => some (.sts f)
  | 0x82 => some (.ldp f)
  | 0x83 => some (.stp f)
  | 0x84 => some (.spill f)
  | 0x85 => some (.fill f)
  | 0x86 => some (.ats f)
  | 0x87 => some (.atp f)
  | 0x88 => some (.cass f)
  | 0x89 => some (.casp f)
  | 0x8A => some (.lrs f)
  | 0x8B => some (.scs f)
  | 0x8C => some (.lrp f)
  | 0x8D => some (.scp f)
  | 0x90 => some (.bcin f)
  | 0x91 => some (.bcout f)
  | 0x92 => some (.bgath f)
  | 0x93 => some (.bscat f)
  | 0x94 => some (.bfill f)
  | 0x95 => some (.matom f)
  | 0x96 => some (.mred f)
  | 0x97 => some (.mcas f)
  | 0x98 => some (.xsum f)
  | 0x99 => some (.xrd f)
  | 0x9A => some (.xclr f)
  | 0x9B => some (.pref f)
  | 0xA0 => some (.fence f)
  | 0xA1 => some (.waitc f)
  | 0xA2 => some (.hwait f)
  | 0xA3 => some (.htest f)
  | 0xA4 => some (.hcancel f)
  | 0xA5 => if f.var.toNat = 0 then some (.hmov f) else if f.var.toNat = 1 then some (.hmovObj f) else none
  | 0xB0 => some (.wspawn f)
  | 0xB1 => some (.wkill f)
  | 0xB2 => some (.pnew f)
  | 0xB3 => some (.psend f)
  | 0xB4 => some (.precv f)
  | 0xB5 => some (.snew f)
  | 0xB6 => some (.sadd f)
  | 0xB7 => some (.sdel f)
  | 0xB8 => some (.wwait f)
  | 0xB9 => some (.tnew f)
  | 0xBA => some (.tarm f)
  | 0xBB => some (.tdis f)
  | 0xBC => some (.olook f)
  | 0xBD => if f.var.toNat = 0 then some (.obind f) else if f.var.toNat = 1 then some (.obindPub f) else if f.var.toNat = 2 then some (.obindUnb f) else none
  | 0xBE => some (.ofree f)
  | 0xBF => some (.oinfo f)
  | 0xC0 => some (.nwant f)
  | 0xC1 => some (.nhave f)
  | 0xC2 => some (.ndrop f)
  | 0xC3 => some (.npeek f)
  | 0xC4 => if f.var.toNat = 0 then some (.nrouteAdd f) else if f.var.toNat = 1 then some (.nrouteDel f) else if f.var.toNat = 2 then some (.nrouteClr f) else none
  | 0xD0 => some (.trap f)
  | 0xD1 => if f.var.toNat = 0 then some (.rtt f) else if f.var.toNat = 1 then some (.rttRpl f) else if f.var.toNat = 2 then some (.rttEsc f) else none
  | 0xD2 => some (.mpoint f)
  | 0xD3 => some (.sysr f)
  | 0xD4 => some (.sysw f)
  | 0xD5 => some (.cntr f)
  | 0xD6 => if f.var.toNat = 0 then some (.monctlClaim f) else if f.var.toNat = 1 then some (.monctlFree f) else if f.var.toNat = 2 then some (.monctlSet f) else if f.var.toNat = 3 then some (.monctlRead f) else none
  | 0xD7 => if f.var.toNat = 0 then some (.tlbinvVa f) else if f.var.toNat = 1 then some (.tlbinvCtx f) else if f.var.toNat = 2 then some (.tlbinvAll f) else none
  | 0xD8 => if f.var.toNat = 0 then some (.keyselGen f) else if f.var.toNat = 1 then some (.keyselDel f) else none
  | _ => none

/-- The OP and the form of an instruction; a device event has neither. -/
def wordOf (i : Instr) : Option (Nat × Form) :=
  match i with
  | .nop f => some (0x00, f)
  | .bra f => some (0x01, f)
  | .brx f => some (0x02, f)
  | .call f => some (0x03, f)
  | .callx f => some (0x04, f)
  | .ret f => some (0x05, f)
  | .conv f => some (0x06, f)
  | .prio f => some (0x07, f)
  | .vote f => some (0x08, f)
  | .sloop f => some (0x09, f)
  | .bar f => some (0x0A, f)
  | .exit f => some (0x0B, f)
  | .yield f => some (0x0C, f)
  | .sleep f => some (0x0D, f)
  | .acq f => some (0x0E, f)
  | .rel f => some (0x0F, f)
  | .tspawn f => some (0x10, f)
  | .tdom f => some (0x11, f)
  | .tsplit f => some (0x12, f)
  | .tchk f => some (0x13, f)
  | .tchkTest f => some (0x13, f)
  | .tchkTrap f => some (0x13, f)
  | .salloc f => some (0x14, f)
  | .sfree f => some (0x15, f)
  | .iadd f => some (0x20, f)
  | .isub f => some (0x21, f)
  | .iaddc f => some (0x22, f)
  | .imul f => some (0x23, f)
  | .imulh f => some (0x24, f)
  | .imad f => some (0x25, f)
  | .imadw f => some (0x26, f)
  | .idiv f => some (0x27, f)
  | .irem f => some (0x28, f)
  | .imin f => some (0x29, f)
  | .imax f => some (0x2A, f)
  | .iabs f => some (0x2B, f)
  | .isad f => some (0x2C, f)
  | .isetp f => some (0x2D, f)
  | .isel f => some (0x2E, f)
  | .lea f => some (0x2F, f)
  | .and f => some (0x30, f)
  | .or f => some (0x31, f)
  | .xor f => some (0x32, f)
  | .not f => some (0x33, f)
  | .lop3 f => some (0x34, f)
  | .shl f => some (0x35, f)
  | .shr f => some (0x36, f)
  | .shra f => some (0x37, f)
  | .fshf f => some (0x38, f)
  | .bfx f => some (0x39, f)
  | .bfi f => some (0x3A, f)
  | .popc f => some (0x3B, f)
  | .clz f => some (0x3C, f)
  | .brev f => some (0x3D, f)
  | .mov f => some (0x3E, f)
  | .movi f => some (0x3F, f)
  | .shfl f => some (0x40, f)
  | .rdlane f => some (0x41, f)
  | .wrlane f => some (0x42, f)
  | .bcast f => some (0x43, f)
  | .prmt f => some (0x44, f)
  | .fadd f => some (0x48, f)
  | .fsub f => some (0x49, f)
  | .fmul f => some (0x4A, f)
  | .ffma f => some (0x4B, f)
  | .fmin f => some (0x4C, f)
  | .fmax f => some (0x4D, f)
  | .fsetp f => some (0x4E, f)
  | .fclass f => some (0x4F, f)
  | .frcp f => some (0x50, f)
  | .frsq f => some (0x51, f)
  | .fsqrt f => some (0x52, f)
  | .fdiv f => some (0x53, f)
  | .fexp2 f => some (0x54, f)
  | .flog2 f => some (0x55, f)
  | .fsin f => some (0x56, f)
  | .fcos f => some (0x57, f)
  | .ftanh f => some (0x58, f)
  | .frnd f => some (0x59, f)
  | .fscale f => some (0x5A, f)
  | .hfma2 f => some (0x5B, f)
  | .hadd2 f => some (0x5C, f)
  | .hmul2 f => some (0x5D, f)
  | .fdot2 f => some (0x5E, f)
  | .fdot4 f => some (0x5F, f)
  | .cvt f => some (0x60, f)
  | .cvti f => some (0x61, f)
  | .pack f => some (0x62, f)
  | .unpk f => some (0x63, f)
  | .qblk f => some (0x64, f)
  | .dqblk f => some (0x65, f)
  | .mma f => some (0x68, f)
  | .mmab f => some (0x69, f)
  | .mzero f => some (0x6A, f)
  | .mlda f => some (0x6B, f)
  | .msta f => some (0x6C, f)
  | .memit f => some (0x6D, f)
  | .mmap f => some (0x6E, f)
  | .mrela f => some (0x6F, f)
  | .maddt f => some (0x70, f)
  | .mscl f => some (0x71, f)
  | .lds f => some (0x80, f)
  | .sts f => some (0x81, f)
  | .ldp f => some (0x82, f)
  | .stp f => some (0x83, f)
  | .spill f => some (0x84, f)
  | .fill f => some (0x85, f)
  | .ats f => some (0x86, f)
  | .atp f => some (0x87, f)
  | .cass f => some (0x88, f)
  | .casp f => some (0x89, f)
  | .lrs f => some (0x8A, f)
  | .scs f => some (0x8B, f)
  | .lrp f => some (0x8C, f)
  | .scp f => some (0x8D, f)
  | .bcin f => some (0x90, f)
  | .bcout f => some (0x91, f)
  | .bgath f => some (0x92, f)
  | .bscat f => some (0x93, f)
  | .bfill f => some (0x94, f)
  | .matom f => some (0x95, f)
  | .mred f => some (0x96, f)
  | .mcas f => some (0x97, f)
  | .xsum f => some (0x98, f)
  | .xrd f => some (0x99, f)
  | .xclr f => some (0x9A, f)
  | .pref f => some (0x9B, f)
  | .fence f => some (0xA0, f)
  | .waitc f => some (0xA1, f)
  | .hwait f => some (0xA2, f)
  | .htest f => some (0xA3, f)
  | .hcancel f => some (0xA4, f)
  | .hmov f => some (0xA5, f)
  | .hmovObj f => some (0xA5, f)
  | .wspawn f => some (0xB0, f)
  | .wkill f => some (0xB1, f)
  | .pnew f => some (0xB2, f)
  | .psend f => some (0xB3, f)
  | .precv f => some (0xB4, f)
  | .snew f => some (0xB5, f)
  | .sadd f => some (0xB6, f)
  | .sdel f => some (0xB7, f)
  | .wwait f => some (0xB8, f)
  | .tnew f => some (0xB9, f)
  | .tarm f => some (0xBA, f)
  | .tdis f => some (0xBB, f)
  | .olook f => some (0xBC, f)
  | .obind f => some (0xBD, f)
  | .obindPub f => some (0xBD, f)
  | .obindUnb f => some (0xBD, f)
  | .ofree f => some (0xBE, f)
  | .oinfo f => some (0xBF, f)
  | .nwant f => some (0xC0, f)
  | .nhave f => some (0xC1, f)
  | .ndrop f => some (0xC2, f)
  | .npeek f => some (0xC3, f)
  | .nrouteAdd f => some (0xC4, f)
  | .nrouteDel f => some (0xC4, f)
  | .nrouteClr f => some (0xC4, f)
  | .trap f => some (0xD0, f)
  | .rtt f => some (0xD1, f)
  | .rttRpl f => some (0xD1, f)
  | .rttEsc f => some (0xD1, f)
  | .mpoint f => some (0xD2, f)
  | .sysr f => some (0xD3, f)
  | .sysw f => some (0xD4, f)
  | .cntr f => some (0xD5, f)
  | .monctlClaim f => some (0xD6, f)
  | .monctlFree f => some (0xD6, f)
  | .monctlSet f => some (0xD6, f)
  | .monctlRead f => some (0xD6, f)
  | .tlbinvVa f => some (0xD7, f)
  | .tlbinvCtx f => some (0xD7, f)
  | .tlbinvAll f => some (0xD7, f)
  | .keyselGen f => some (0xD8, f)
  | .keyselDel f => some (0xD8, f)
  | .tailWrite _ _ => none
  | .packetHeaderReread _ => none
  | .launchPacket _ => none
  | .dependPacket _ => none
  | .dependRecheck _ => none
  | .signalPacket _ => none
  | .nopkt _ => none
  | .queueStallResume _ => none
  | .queueMap _ _ => none
  | .forcedUnmap _ _ => none
  | .queueIdleUnmap _ => none
  | .launchAccept _ _ => none
  | .groupPlace _ _ _ => none
  | .acqGrant _ => none
  | .relLower _ => none
  | .allowExpiry _ => none
  | .taskRetire _ => none
  | .launchComplete _ => none
  | .cancelWordWrite _ _ => none
  | .commandComplete _ _ _ _ _ => none
  | .launchEnd _ => none
  | .resumeRetry _ => none
  | .resumeEnd _ => none
  | .preemptWrite _ => none
  | .priorityPreempt _ _ => none
  | .saveDeadline _ => none
  | .groupSave _ => none
  | .groupRestore _ _ => none
  | .fairnessRun _ _ => none
  | .sleepWake _ _ => none
  | .benchPlace _ _ => none
  | .standDown _ => none
  | .stoodDownWake _ => none
  | .timerExpire _ _ => none
  | .pageMigrate _ _ _ _ => none
  | .hostMemAccess _ _ _ => none
  | .hostRecall _ => none
  | .interestArrive _ => none
  | .tileArrive _ => none
  | .interestExpire _ _ => none
  | .shelfCopyExpire _ _ => none
  | .expiryNotice _ => none
  | .flitReceive _ _ => none
  | .replayRequest _ _ => none
  | .ackTimeout _ => none
  | .linkTraining _ _ _ _ _ _ => none
  | .trainingRetry _ => none
  | .bucketDrain _ => none
  | .peerRetireFlit _ => none
  | .routeRegenerate _ _ => none
  | .thermHot _ _ => none
  | .thermThrottle _ _ => none
  | .throttleStep _ => none
  | .thermTrip _ _ => none
  | .coldReset _ => none
  | .hostPortTrain _ _ _ => none
  | .healthWrite _ => none
  | .drvstatWrite _ => none
  | .registerWrite _ _ => none
  | .qclear => none
  | .bias => none
  | .pageans => none
  | .fwupd _ _ => none
  | .fwupdSwitch => none
  | .drain => none
  | .drainComplete => none
  | .attest => none
  | .logset => none
  | .prset => none
  | .drvcmdBadOp _ => none
  | .contextEnd _ => none
  | .partitionChange _ _ _ _ => none
  | .referenceClockEdge => none
  | .thermDrop _ _ _ => none
  | .contextCreate _ => none
  | .queueRegister _ _ => none

/-- Whether an instruction is a device event of the table, which has no encoding. -/
def isEvent (i : Instr) : Bool := (wordOf i).isNone

/-- The element types each atomic operation allows (R218). -/
def atomTys (op : Nat) : List Ty :=
  match op with
  | 0x0 => [.s32, .n32, .s64, .n64]
  | 0x1 | 0x2 => [.s32, .n32, .s64, .n64, .f32]
  | 0x3 | 0x4 | 0x5 | 0x6 => [.b32, .b64]
  | 0x7 | 0x8 => [.n32]
  | 0x9 | 0xA | 0xB => [.f32]
  | _ => []

end Sys2Proof.Machine
end

