-- ==== Sys2Proof/Decode.lean ====
section
/-! DEFINITION. The decoder of the 96-bit word, which refuses by name, and the encoder written from the same tables. -/

namespace Sys2Proof

open Sys2Proof.Machine

/-- Why a word is not an instruction. Each is the illegal-instruction fault of R61 step 2 but `tooShort`, which says that
twelve bytes were not there. -/
inductive DecodeError where
  /-- Fewer than twelve bytes (R47). -/
  | tooShort
  /-- An OP that is not assigned (R62). -/
  | unassignedOp
  /-- A VAR value that the instruction does not allow (R61). -/
  | badVariant
  /-- A TY value that the instruction does not allow, or slot mode where it is not legal (R58, R59). -/
  | badType
  /-- A nonzero reserved hint bit (R54). -/
  | reservedHint
  /-- A copy cache hint outside OP 0x90 to 0x9B (R54). -/
  | badCacheHint
  /-- A guard on an instruction that takes none (R53). -/
  | badGuard
  /-- An unused operand field that is not the none operand (R52). -/
  | unusedField
  /-- Bits of IMM that the instruction does not use and that are not zero, or a value of IMM that it forbids (R52). -/
  | badImmediate
  /-- A combination of VAR, TY and IMM that the instruction's description forbids. -/
  | badCombination
  deriving DecidableEq, Repr

/-- The code of a type (R58). -/
def Ty.code : Ty → BitVec 4
  | .b32 => 0x0#4 | .s32 => 0x1#4 | .n32 => 0x2#4 | .f32 => 0x3#4
  | .b64 => 0x4#4 | .s64 => 0x5#4 | .n64 => 0x6#4 | .f16 => 0x7#4
  | .bf16 => 0x8#4 | .s16 => 0x9#4 | .n16 => 0xA#4 | .s8 => 0xB#4
  | .n8 => 0xC#4 | .f8e4 => 0xD#4 | .f8e5 => 0xE#4 | .slot => 0xF#4

/-- The type a code stands for (R58). -/
def Ty.ofCode (c : BitVec 4) : Ty :=
  match c.toNat with
  | 0x0 => .b32 | 0x1 => .s32 | 0x2 => .n32 | 0x3 => .f32
  | 0x4 => .b64 | 0x5 => .s64 | 0x6 => .n64 | 0x7 => .f16
  | 0x8 => .bf16 | 0x9 => .s16 | 0xA => .n16 | 0xB => .s8
  | 0xC => .n8 | 0xD => .f8e4 | 0xE => .f8e5 | _ => .slot

/-- A space selector in [11:9] and an index in [8:0] (R49). -/
def operandField (sel idx : Nat) : BitVec 12 := BitVec.ofNat 12 (sel * 512 + idx)

/-- The operand that a 12-bit field names (R49). -/
def Operand.decode (x : BitVec 12) : Operand :=
  let i := x.toNat % 512
  match x.toNat / 512 with
  | 0 => if i < 256 then .v i else .bad x
  | 1 => if i < 384 then .s i else .bad x
  | 2 => if i < 8 then .p i
         else if i < 16 then .bad x
         else if i < 32 then .h (i - 16)
         else if i < 48 then .g (i - 32)
         else if i < 56 then .m (i - 48)
         else .bad x
  | 3 => if i < 32 then .a i else .bad x
  | 4 => .imm (BitVec.ofNat 9 i)
  | 5 => .sys (BitVec.ofNat 9 i)
  | 7 => if i = 0 then .none else if i = 1 then .long else .bad x
  | _ => .bad x

/-- The 12-bit field that names an operand (R49). -/
def Operand.encode : Operand → BitVec 12
  | .v n => operandField 0 n
  | .s n => operandField 1 n
  | .p n => operandField 2 n
  | .h n => operandField 2 (16 + n)
  | .g n => operandField 2 (32 + n)
  | .m n => operandField 2 (48 + n)
  | .a n => operandField 3 n
  | .imm k => operandField 4 k.toNat
  | .sys i => operandField 5 i.toNat
  | .none => operandField 7 0
  | .long => operandField 7 1
  | .bad raw => raw

/-- The third source operand, or the handle operand, in IMM[11:0] (R52, R153). -/
def Form.c (f : Form) : Operand := Operand.decode (BitVec.ofNat 12 (bits f.imm 0 12))

/-- Whether VAR and TY are values that the row of the instruction allows (R58, R59, R61). -/
def checkType (r : EncRow) (f : Form) : Option DecodeError :=
  if f.ty = .slot then
    if r.slot = 0 then some .badType
    else if r.slot = 1 && 8 ≤ f.var.toNat then some .badVariant
    else none
  else if !(r.tys.contains f.ty) then some .badType
  else if !(r.vars.contains f.var.toNat) then some .badVariant
  else none

/-- Whether some source is the long immediate. -/
def Form.hasLong (f : Form) : Bool := f.a = .long || f.b = .long

/-- Whether IMM holds only what the instruction uses of it (R52), and a value it allows. -/
def checkImm (r : EncRow) (f : Form) : Bool :=
  let x := f.imm.toNat
  match r.imm with
  | .zero => x == 0
  | .value => f.hasLong || x == 0
  | .third | .handle => bits f.imm 12 20 == 0
  | .compare => f.hasLong || bits f.imm 12 20 == 0
  | .branch | .off => true
  | .prio => bits f.imm 0 20 == 0
  | .atomic => bits f.imm 25 7 == 0 && bits f.imm 20 3 ≤ 5
  | .mem => bits f.imm 17 15 == 0 && bits f.imm 12 3 ≤ 5
  | .lut => x < 256
  | .cvt => x < 15 && x != 0 && x != 4
  | .pos => x < 2
  | .elem => x < 4
  | .barrier => x < 1024
  | .code => x < 65536
  | .kinds => x != 0 && x < 64
  | .count => x < 256
  | .hmask => if f.a = .none then x != 0 && x < 65536 else x == 0
  | .tag => bits f.imm 28 4 == 0

/-- Whether a type is a floating format by its code (R134). -/
def Ty.isFloat : Ty → Bool
  | .f32 | .f16 | .bf16 | .f8e4 | .f8e5 => true
  | _ => false

/-- Whether a type is a raw bit pattern. -/
def Ty.isRaw (t : Ty) : Bool := t = .b32 || t = .b64

/-- The combinations of VAR, TY and IMM that the descriptions forbid: R102, R108, R117, R134, R155, R157, R218. Slot mode
is examined at issue, against the slot. -/
def badCombination (op : Nat) (f : Form) : Bool :=
  let var := f.var.toNat
  let src := Ty.ofCode (BitVec.ofNat 4 f.imm.toNat)
  if f.ty = .slot then false else
  match op with
  | 0x20 | 0x21 => var == 1 && f.ty.isRaw
  | 0x2F => 8 ≤ var && f.ty != .n64
  | 0x3F => var == 1 && f.ty != .b64
  | 0x61 => if src.isFloat then 4 ≤ var else var % 4 != 0
  | 0x62 => (f.ty = .f16 || f.ty = .bf16) && f.imm.toNat != 0
  | 0x63 => (f.ty = .f16 || f.ty = .bf16) && 1 < f.imm.toNat
  | 0x69 => if f.ty = .f32 then false
            else if f.ty = .f16 || f.ty = .bf16 then 2 ≤ var
            else 1 ≤ var
  | 0x6C => 4 ≤ var && !(f.ty = .f8e4 || f.ty = .f8e5)
  | 0x6D => f.ty = .f32 && var % 4 != 0
  | 0x86 | 0x87 | 0x95 | 0x96 => !((atomTys var).contains f.ty)
  | _ => false

/-- Whether an operand is a predicate register. -/
def Operand.isPred : Operand → Bool
  | .p _ => true
  | _ => false

/-- Whether a form breaks the field rules of its OP (R52). FCLASS uses B only where D is a predicate (R127). -/
def unusedFieldSet (op : Nat) (f : Form) : Bool :=
  let (d, a, b) := fieldsUsed op f.var.toNat
  let b := b && (op != 0x4F || f.d.isPred)
  (!d && f.d != .none) || (!a && f.a != .none) || (!b && f.b != .none)

/-- The checks of R61 step 2 on a form, in one order; `none` when the word is an instruction. -/
def checkForm (op : Nat) (f : Form) : Option DecodeError :=
  match encRow op with
  | none => some .unassignedOp
  | some r =>
    match checkType r f with
    | some e => some e
    | none =>
      if f.hints.cache != 0#2 && !(0x90 ≤ op && op ≤ 0x9B) then some .badCacheHint
      else if !r.guard && !(f.guard = ⟨false, 7#3⟩) then some .badGuard
      else if unusedFieldSet op f then some .unusedField
      else if !(checkImm r f) then some .badImmediate
      else if badCombination op f then some .badCombination
      else none

/-- The form held in the fields of a word (R46). -/
def formOf (x : BitVec 96) : Form :=
  { var := BitVec.ofNat 4 (bits x 84 4)
    ty := Ty.ofCode (BitVec.ofNat 4 (bits x 80 4))
    d := Operand.decode (BitVec.ofNat 12 (bits x 68 12))
    a := Operand.decode (BitVec.ofNat 12 (bits x 56 12))
    b := Operand.decode (BitVec.ofNat 12 (bits x 44 12))
    guard := { neg := bit x 43, pred := BitVec.ofNat 3 (bits x 40 3) }
    hints := { sw := bit x 39, reuse := bit x 38, yld := bit x 37, cache := BitVec.ofNat 2 (bits x 35 2) }
    imm := BitVec.ofNat 32 (bits x 0 32) }

/-- The instruction that a 96-bit word is, or the reason it is none (R46, R61). -/
def decodeWord (x : BitVec 96) : Except DecodeError Instr :=
  let op := bits x 88 8
  let f := formOf x
  if (encRow op).isNone then .error .unassignedOp
  else if bits x 32 3 != 0 then .error .reservedHint
  else match checkForm op f with
    | some e => .error e
    | none =>
      match assemble op f with
      | some i => .ok i
      | none => .error .badVariant

/-- The instruction at the head of a list of bytes, and the bytes after it. A word is twelve bytes, the least significant
first (R47, R8). -/
def decode (bs : List Byte) : Except DecodeError (Instr × List Byte) :=
  if bs.length < 12 then .error .tooShort
  else match decodeWord (BitVec.ofNat 96 (ofBytes (bs.take 12))) with
    | .ok i => .ok (i, bs.drop 12)
    | .error e => .error e

/-- The 96-bit word of an OP and a form (R46). -/
def packWord (op : Nat) (f : Form) : BitVec 96 :=
  BitVec.ofNat 8 op ++ f.var ++ f.ty.code ++ f.d.encode ++ f.a.encode ++ f.b.encode
    ++ BitVec.ofBool f.guard.neg ++ f.guard.pred
    ++ BitVec.ofBool f.hints.sw ++ BitVec.ofBool f.hints.reuse ++ BitVec.ofBool f.hints.yld ++ f.hints.cache ++ 0#3
    ++ f.imm

/-- The word of an instruction; a device event has none. -/
def encodeWord (i : Instr) : Option (BitVec 96) := (wordOf i).map (fun (op, f) => packWord op f)

/-- The twelve bytes of an instruction, the least significant first; a device event has none. -/
def encode (i : Instr) : Option (List Byte) := (encodeWord i).map (fun x => toBytes 12 x.toNat)

/-- The instruction the decoder reads from a word whose bits are `w`, with every bit from `nbits` up zero. -/
def decodeTableWord (nbits w : Nat) : Option Instr :=
  match decode (toBytes 12 (w % 2 ^ min nbits 96)) with
  | .ok (i, _) => some i
  | .error _ => none

end Sys2Proof
end

