-- ==== Sys2Proof/Machine/Fp.lean ====
section
/-! DEFINITION. Number formats, the one rounding procedure, and exact arithmetic on decoded values (R79 to R96). -/

namespace Sys2Proof.Machine

/-- A decoded value: a signed real `m * 2^e` in which zero carries a sign, an infinity, or NaN (R82). -/
inductive FVal where
  | nan
  | inf (neg : Bool)
  | fin (neg : Bool) (m : Nat) (e : Int)
  deriving DecidableEq, Repr

/-- A floating-point format (R79): exponent and fraction widths, bias, whether it has infinities, the canonical NaN, and the
pattern of the largest finite value. -/
structure Fmt where
  ebits : Nat
  fbits : Nat
  bias  : Int
  inf   : Bool
  nan   : Nat
  max   : Nat
  deriving DecidableEq, Repr

def Fmt.f32 : Fmt := ⟨8, 23, 127, true, 0x7FC00000, 0x7F7FFFFF⟩
def Fmt.f16 : Fmt := ⟨5, 10, 15, true, 0x7E00, 0x7BFF⟩
def Fmt.bf16 : Fmt := ⟨8, 7, 127, true, 0x7FC0, 0x7F7F⟩
def Fmt.f8e5 : Fmt := ⟨5, 2, 15, true, 0x7E, 0x7B⟩
def Fmt.f8e4 : Fmt := ⟨4, 3, 7, false, 0x7F, 0x7E⟩
/-- E2M1 has no NaN; its rounding is only ever asked for finite values (R89). -/
def Fmt.e2m1 : Fmt := ⟨2, 1, 1, false, 0, 7⟩

/-- The width of a format's patterns. -/
def Fmt.width (f : Fmt) : Nat := 1 + f.ebits + f.fbits

/-- The smallest exponent of a normal value (R79). -/
def Fmt.emin (f : Fmt) : Int := 1 - f.bias

/-- The format of a floating type; F32 for any other. -/
def fmtOf : Ty → Fmt
  | .f16 => .f16
  | .bf16 => .bf16
  | .f8e4 => .f8e4
  | .f8e5 => .f8e5
  | _ => .f32

/-- `dec(bits, f)`: the value of a pattern (R80). -/
def dec (f : Fmt) (x : Nat) : FVal :=
  let neg := x.testBit (f.ebits + f.fbits)
  let e := x / 2 ^ f.fbits % 2 ^ f.ebits
  let m := x % 2 ^ f.fbits
  if f.inf && e = 2 ^ f.ebits - 1 then (if m = 0 then .inf neg else .nan)
  else if f.nan ≠ 0 && !f.inf && x % 2 ^ (f.ebits + f.fbits) = f.nan then .nan
  else if e = 0 then .fin neg m (f.emin - f.fbits)
  else .fin neg (2 ^ f.fbits + m) ((e : Int) - f.bias - f.fbits)

/-- Whether a mode rounds a magnitude away from zero for a sign; for RN this is decided by the remainder. -/
def awayFrom (mode : Rnd) (neg : Bool) : Bool :=
  match mode with
  | .ru => !neg
  | .rd => neg
  | _ => false

/-- `choose(n, mode, sign)` for n = m / 2^sh (R82). -/
def choose (m sh : Nat) (mode : Rnd) (neg : Bool) : Nat :=
  if Nat.log2 m + 2 ≤ sh then
    -- n < 1/2: the nearest integer is 0
    if m ≠ 0 && awayFrom mode neg then 1 else 0
  else
    let k := m >>> sh
    let r := m % 2 ^ sh
    match mode with
    | .rn => if 2 * r > 2 ^ sh || (2 * r = 2 ^ sh && k % 2 = 1) then k + 1 else k
    | _ => if r ≠ 0 && awayFrom mode neg then k + 1 else k

/-- A magnitude pattern with a sign. -/
def withSign (f : Fmt) (neg : Bool) (x : Nat) : Nat := (if neg then 2 ^ (f.ebits + f.fbits) else 0) + x

/-- The pattern of an infinity, or the canonical NaN of a format that has none (R82). -/
def infPat (f : Fmt) (neg : Bool) : Nat := if f.inf then withSign f neg (f.max + 1) else f.nan

/-- `overflow(f, mode, sign, sat)` (R82). -/
def overflowPat (f : Fmt) (mode : Rnd) (neg sat : Bool) : Nat :=
  if sat || mode = .rz || (mode = .ru && neg) || (mode = .rd && !neg) then withSign f neg f.max else infPat f neg

/-- `round_f(x, f, mode, sat)` (R82): the only rounding of the machine. The pattern of a rounded magnitude k * 2^q is
`(e + bias) * 2^fbits + k - 2^fbits`, which also carries a k that reaches the next binade. -/
def roundF (x : FVal) (f : Fmt) (mode : Rnd) (sat : Bool) : Nat :=
  match x with
  | .nan => f.nan
  | .inf neg => if sat then withSign f neg f.max else infPat f neg
  | .fin neg m e =>
    if m = 0 then withSign f neg 0
    else
      let top : Int := Nat.log2 m + e
      if top > (2 ^ f.ebits : Int) - f.bias then overflowPat f mode neg sat
      else
        let ex := max top f.emin
        let q := ex - f.fbits
        let k := if q ≤ e then m <<< (e - q).toNat else choose m (q - e).toNat mode neg
        let pat := ((ex + f.bias).toNat) * 2 ^ f.fbits + k - 2 ^ f.fbits
        if pat > f.max then overflowPat f mode neg sat else withSign f neg pat

/-- The canonical NaN of a format (R79, R81). -/
def canonNan (f : Fmt) : Nat := f.nan

def FVal.isNan : FVal → Bool
  | .nan => true
  | _ => false

def FVal.isInf : FVal → Bool
  | .inf _ => true
  | _ => false

def FVal.isZero : FVal → Bool
  | .fin _ m _ => m = 0
  | _ => false

/-- The sign of a value; false for NaN. -/
def FVal.sign : FVal → Bool
  | .nan => false
  | .inf n => n
  | .fin n _ _ => n

def FVal.negate : FVal → FVal
  | .nan => .nan
  | .inf n => .inf (!n)
  | .fin n m e => .fin (!n) m e

/-- The product of two finite values, exact; the sign is the exclusive OR (R83). -/
def FVal.mulFin : FVal → FVal → FVal
  | .fin n m e, .fin n' m' e' => .fin (n != n') (m * m') (e + e')
  | _, _ => .nan

/-- A value times a power of two, exact. -/
def FVal.scale : FVal → Int → FVal
  | .fin n m e, k => .fin n m (e + k)
  | x, _ => x

/-- The exact value of an integer. -/
def FVal.ofInt (x : Int) : FVal := .fin (decide (x < 0)) x.natAbs 0

/-- The value 1.0. -/
def FVal.one : FVal := .fin false 1 0

/-- The exact sum of finite terms as an integer times 2^lo, where lo is below every exponent. -/
def sumAt (lo : Int) (ts : List FVal) : Int :=
  ts.foldl (fun acc t => match t with
    | .fin n m e => let y : Int := (m <<< (e - lo).toNat : Nat); if n then acc - y else acc + y
    | _ => acc) 0

/-- The least exponent among finite nonzero terms, at most 0. -/
def minExp (ts : List FVal) : Int :=
  ts.foldl (fun acc t => match t with
    | .fin _ m e => if m = 0 then acc else min acc e
    | _ => acc) 0

/-- The sign of an exact sum that is zero (R83). -/
def zeroSign (ts : List FVal) (mode : Rnd) : Bool := ts.all (fun t => t.sign) || mode = .rd

/-- The exact sum of finite terms as a value, with the sign of R83 where it is zero. -/
def sumFin (ts : List FVal) (mode : Rnd) : FVal :=
  let lo := minExp ts
  let s := sumAt lo (ts.filter (fun t => !t.isZero))
  if s = 0 then .fin (zeroSign ts mode) 0 0 else .fin (decide (s < 0)) s.natAbs lo

/-- The products of factor pairs, with infinite terms: an infinity times a nonzero is an infinity. -/
def product (a b : FVal) : FVal :=
  if a.isNan || b.isNan then .nan
  else if a.isInf || b.isInf then (if a.isZero || b.isZero then .nan else .inf (a.sign != b.sign))
  else a.mulFin b

/-- `dot_round` of R94 into a format: an exact sum of products and an addend, rounded once. -/
def dotRoundTo (f : Fmt) (ps : List (FVal × FVal)) (c : FVal) (mode : Rnd) : Nat :=
  let ts := c :: ps.map (fun (a, b) => product a b)
  if ts.any FVal.isNan then f.nan
  else
    let infs := ts.filter FVal.isInf
    match infs with
    | [] =>
      match sumFin ts mode with
      | .fin n 0 _ => withSign f n 0
      | s => roundF s f mode false
    | t :: _ => if infs.all (fun u => u.sign == t.sign) then roundF t f mode false else f.nan

/-- `dot_round` of R94. -/
def dotRound (ps : List (FVal × FVal)) (c : FVal) (mode : Rnd) : Nat := dotRoundTo .f32 ps c mode

/-- FMUL of R124 into a format. -/
def mulTo (f : Fmt) (x y : FVal) (mode : Rnd) : Nat :=
  match product x y with
  | .nan => f.nan
  | p => roundF p f mode false

/-- The integer that `choose` gives for a finite value with q = 1, with its sign (R85, R130). -/
def roundInt (neg : Bool) (m : Nat) (e : Int) (mode : Rnd) : Nat :=
  if 0 ≤ e then m <<< e.toNat else choose m (-e).toNat mode neg

/-- Whether a type is signed (R84). -/
def tySigned : Ty → Bool
  | .s32 | .s64 | .s16 | .s8 => true
  | _ => false

/-- The width of a type (R58); 32 for slot mode, whose operands are 32-bit registers. -/
def tyWidth : Ty → Nat
  | .b64 | .s64 | .n64 => 64
  | .f16 | .bf16 | .s16 | .n16 => 16
  | .s8 | .n8 | .f8e4 | .f8e5 => 8
  | _ => 32

/-- The range of an integer type (R84). -/
def tyMin (t : Ty) : Int := if tySigned t then -((2 : Int) ^ (tyWidth t - 1)) else 0
def tyMax (t : Ty) : Int := if tySigned t then (2 : Int) ^ (tyWidth t - 1) - 1 else (2 : Int) ^ tyWidth t - 1

/-- `sat_int(x, ty)` (R93). -/
def satInt (x : Int) (t : Ty) : Int := max (tyMin t) (min (tyMax t) x)

/-- A pattern read as a value of an integer type: by sx for S types and by zx for the others (R98). -/
def asInt (t : Ty) (x : Nat) : Int := if tySigned t then sx x (tyWidth t) else ((x % 2 ^ tyWidth t : Nat) : Int)

/-- `to_int(x, ty, mode)` (R85). A magnitude far beyond 64 bits is held at 2^70, which is out of every range. -/
def toInt (x : FVal) (t : Ty) (mode : Rnd) : Int :=
  match x with
  | .nan => 0
  | .inf neg => if neg then tyMin t else tyMax t
  | .fin neg m e =>
    let k : Nat := if m ≠ 0 && (Nat.log2 m : Int) + e > 70 then 2 ^ 70 else roundInt neg m e mode
    satInt (if neg then -(k : Int) else (k : Int)) t

/-- Exact comparison of two numbers; -0 and +0 are equal (R126). -/
def ltFin : FVal → FVal → Bool
  | .fin n m e, .fin n' m' e' =>
    let lo := min e e'
    let x : Int := (m <<< (e - lo).toNat : Nat)
    let y : Int := (m' <<< (e' - lo).toNat : Nat)
    decide ((if n then -x else x) < (if n' then -y else y))
  | .inf n, .inf n' => n && !n'
  | .inf n, _ => n
  | _, .inf n => !n
  | _, _ => false

/-- Whether two numbers are equal as reals. -/
def eqFin (x y : FVal) : Bool := !ltFin x y && !ltFin y x

/-- FMIN and FMAX of R125 on F32 patterns, -0 below +0; `nan` is .NAN. -/
def fminmax (isMax nan : Bool) (a b : Nat) : Nat :=
  let x := dec .f32 a
  let y := dec .f32 b
  if x.isNan && y.isNan then Fmt.f32.nan
  else if x.isNan || y.isNan then (if nan then Fmt.f32.nan else if x.isNan then b else a)
  else
    let less := ltFin x y || (eqFin x y && x.sign && !y.sign)
    if less then (if isMax then b else a)
    else if isMax then a else b

/-- The square root of `n`, rounded down, bit by bit from bit `k`. -/
def isqrtFrom : Nat → Nat → Nat → Nat
  | 0, _, r => r
  | k + 1, n, r =>
    let t := r + 2 ^ k
    isqrtFrom k n (if t * t ≤ n then t else r)

/-- The square root of `n`, rounded down. -/
def isqrt (n : Nat) : Nat := isqrtFrom (Nat.log2 n / 2 + 1) n 0

/-- A truncated magnitude with a sticky bit below it, which rounds as the exact value does. -/
def sticky (neg : Bool) (q : Nat) (exact : Bool) (e : Int) : FVal := .fin neg (2 * q + if exact then 0 else 1) (e - 1)

/-- The quotient of two finite nonzero values, exact or with a sticky bit. -/
def divFin (neg : Bool) (m : Nat) (e : Int) (m' : Nat) (e' : Int) : FVal :=
  let k := 64 + Nat.log2 m'
  let q := (m <<< k) / m'
  sticky neg q (q * m' = m <<< k) (e - e' - k)

/-- FDIV, and FRCP as 1/x (R128). -/
def fdivPat (x y : FVal) (mode : Rnd) : Nat :=
  let neg := x.sign != y.sign
  match x, y with
  | .nan, _ | _, .nan => Fmt.f32.nan
  | .inf _, .inf _ => Fmt.f32.nan
  | .inf _, _ => infPat .f32 neg
  | _, .inf _ => withSign .f32 neg 0
  | .fin _ m e, .fin _ m' e' =>
    if m' = 0 then (if m = 0 then Fmt.f32.nan else infPat .f32 neg)
    else if m = 0 then withSign .f32 neg 0
    else roundF (divFin neg m e m' e') .f32 mode false

/-- FSQRT (R128). -/
def fsqrtPat (a : Nat) (mode : Rnd) : Nat :=
  match dec .f32 a with
  | .nan => Fmt.f32.nan
  | .inf neg => if neg then Fmt.f32.nan else a
  | .fin neg m e =>
    if m = 0 then a
    else if neg then Fmt.f32.nan
    else
      let m' := if e % 2 = 0 then m else 2 * m
      let e' := if e % 2 = 0 then e else e - 1
      let r := isqrt (m' <<< 128)
      roundF (sticky false r (r * r = m' <<< 128) (e' / 2 - 64)) .f32 mode false

/-- FRSQ (R128). -/
def frsqPat (a : Nat) (mode : Rnd) : Nat :=
  match dec .f32 a with
  | .nan => Fmt.f32.nan
  | .inf neg => if neg then Fmt.f32.nan else 0
  | .fin neg m e =>
    if m = 0 then infPat .f32 neg
    else if neg then Fmt.f32.nan
    else
      let m' := if e % 2 = 0 then m else 2 * m
      let e' := if e % 2 = 0 then e else e - 1
      let r := isqrt (2 ^ 256 / m')
      roundF (sticky false r (r * r * m' = 2 ^ 256) (-(e' / 2) - 128)) .f32 mode false

/-- FRND (R130). -/
def frndPat (a : Nat) (mode : Rnd) : Nat :=
  match dec .f32 a with
  | .nan => Fmt.f32.nan
  | .inf _ => a
  | .fin neg m e => roundF (.fin neg (roundInt neg m e mode) 0) .f32 .rz false

/-- FSCALE (R131). -/
def fscalePat (a : Nat) (n : Int) (mode : Rnd) : Nat :=
  match dec .f32 a with
  | .nan => Fmt.f32.nan
  | .inf _ => a
  | .fin neg m e => if m = 0 then a else roundF (.fin neg m (e + n)) .f32 mode false

/-- The class of an F32 pattern, 0 to 8 (R127). -/
def fclass (a : Nat) : Nat :=
  match dec .f32 a with
  | .nan => 8
  | .inf neg => if neg then 0 else 7
  | .fin neg m _ =>
    if m = 0 then (if neg then 3 else 4)
    else if m < 2 ^ 23 then (if neg then 2 else 5)
    else if neg then 1 else 6

/-- The comparison of FSETP by its condition (R126). -/
def fcompare (cc : Nat) (a b : Nat) : Bool :=
  let x := dec .f32 a
  let y := dec .f32 b
  let un := x.isNan || y.isNan
  match cc with
  | 0 => !un && eqFin x y
  | 1 => un || !eqFin x y
  | 2 => !un && ltFin x y
  | 3 => !un && !ltFin y x
  | 4 => !un && ltFin y x
  | 5 => !un && !ltFin x y
  | 6 => !un
  | _ => un

/-- The comparison of ISETP by its condition (R106). -/
def icompare (cc : Nat) (x y : Int) : Bool :=
  match cc with
  | 0 => x = y
  | 1 => x ≠ y
  | 2 => x < y
  | 3 => x ≤ y
  | 4 => y < x
  | _ => y ≤ x

/-! ### F4X blocks and exact-sum cells -/

/-- `e2m1(c)`: the value of an element code, with 0b1000 as -0 (R88, R93). -/
def e2m1 (c : Nat) : FVal := dec .e2m1 c

/-- `f4x_decode(blk, i, slot)` of R88, on the 18 bytes of a block as numbers. -/
def f4xDecode (blk : List Nat) (i : Nat) (extra : Bool) : FVal :=
  let t := blk.getD 16 0
  let x := blk.getD 17 0
  let c := if i % 2 = 0 then blk.getD (i / 2) 0 % 16 else blk.getD (i / 2) 0 / 16 % 16
  if t = 0xFF then .nan
  else if c = 8 then
    if !extra || x = 0 then .fin true 0 0 else (dec .f8e4 x).scale ((t : Int) - 127)
  else (e2m1 c).scale ((t : Int) - 127)

/-- floor(log2 |x|) of a finite nonzero value. -/
def floorLog2 : FVal → Int
  | .fin _ m e => Nat.log2 m + e
  | _ => 0

/-- |x| of a finite value as a value. -/
def FVal.abs : FVal → FVal
  | .fin _ m e => .fin false m e
  | x => x

/-- `qblk(x, ext)` of R89: the 18 bytes of a block, as numbers. -/
def qblk (xs : List FVal) (ext : Bool) : List Nat :=
  let blank := List.replicate 16 0
  if xs.any (fun x => x.isNan || x.isInf) then blank ++ [0xFF, 0]
  else
    let amax := xs.foldl (fun acc x => if ltFin acc x.abs then x.abs else acc) (.fin false 0 0)
    if amax.isZero then blank ++ [0x7F, 0]
    else
      let s := max (floorLog2 amax - 2) (-127)
      let ys := xs.map (fun x => roundF (x.scale (-s)) .e2m1 .rn true)
      let cs := ys.map (fun y => if y = 8 then 0 else y)
      let err := (xs.zip ys).map (fun (x, y) => (sumFin [x, ((e2m1 y).scale s).negate] .rn).abs)
      let top := err.foldl (fun acc x => if ltFin acc x then x else acc) (.fin false 0 0)
      let xb :=
        if !ext || top.isZero then 0
        else
          match (xs.zip err).find? (fun (_, r) => eqFin r top) with
          | some (x, _) => let b := roundF (x.scale (-s)) .f8e4 .rn true; if b = 0x80 then 0 else b
          | none => 0
      let codes := if xb = 0 then cs
        else (xs.zip cs).map (fun (x, c) => if roundF (x.scale (-s)) .f8e4 .rn true = xb then 8 else c)
      (List.range 16).map (fun j => codes.getD (2 * j) 0 + 16 * codes.getD (2 * j + 1) 0) ++ [(s + 127).toNat, xb]

/-- `cell_add(cell, x)` of R96, on the 512-bit cell as a number. -/
def cellAdd (cell : Nat) (x : FVal) : Nat :=
  let acc : Nat := cell % 2 ^ 480
  let rest : Nat := cell / 2 ^ 480
  match x with
  | .nan => cell ||| 2 ^ 482
  | .inf neg => cell ||| (if neg then 2 ^ 481 else 2 ^ 480)
  | .fin neg m e =>
    let y : Int := (m <<< (e + 149).toNat : Nat)
    wrapInt ((acc : Int) + (if neg then -y else y)) 480 + rest * 2 ^ 480

/-- `cell_read(cell, f, mode)` of R96. -/
def cellRead (cell : Nat) (f : Fmt) (mode : Rnd) : Nat :=
  let p := cell.testBit 480
  let n := cell.testBit 481
  if cell.testBit 482 || (p && n) then f.nan
  else if p then infPat f false
  else if n then infPat f true
  else
    let v : Int := sx cell 480
    if v = 0 then 0 else roundF (.fin (decide (v < 0)) v.natAbs (-149)) f mode false

end Sys2Proof.Machine
end

