-- ==== Sys2Proof/Config.lean ====
section
/-! DEFINITION. The free values: what the spec leaves open or names a standard algorithm for. None has a body, so nothing
can be proved about a value of one. Each takes the model's own counter or the operands it depends on. -/

namespace Sys2Proof.Config

/-- A choice the spec leaves open, drawn from the step counter, a tag for the kind of choice and an index: the old or the new
value under R56, R48, R198 and R192. Assumption 2. -/
opaque freeBit : (tick tag index : Nat) → Bool

/-- What a byte of a sector last written under one context's key reads as under another's (R202). Assumption 4. -/
opaque scramble : (writer reader address : Nat) → Byte → Byte

/-- AES-XTS-256 of one 64-byte sector under a 64-byte key pair, with the physical address as tweak, for DRAIN (R444).
Assumption 4. -/
opaque xtsEncrypt : (key : List Byte) → (address : Nat) → (sector : List Byte) → List Byte

/-- Whether a firmware image's signature verifies under a key whose digest is the fused one, and the version it carries (R404).
Assumption 4. -/
opaque imageVerifies : (image : List Byte) → Bool
opaque imageVersion : (image : List Byte) → Nat

/-- The first 64 bits of the AES-GCM-256 tag of a flit's payload and low trailer bits under a port key (R429). Assumption 4. -/
opaque linkTag : (key : Nat) → (bytes : List Byte) → DWord

/-- SHA-512 of a firmware image, and over the partition table with the usable cores and banks of each facet and the
retired link ports (R405). Assumption 4. -/
opaque firmwareHash : (image : List Byte) → List Byte
opaque partitionHash : (parts : List (Nat × Nat)) → (cores : List (BitVec 8)) → (banks : List (List Word)) → (links : List Nat) → List Byte

/-- The package serial number in the fuses (R405). Assumption 4. -/
opaque serial : DWord

/-- The ECDSA signature of an attestation report, r and then s (R405). Assumption 4. -/
opaque signature : (report : List Byte) → List Byte

/-- The result bytes where an instruction's result is stated by no rule; drawn from the step counter and an index.
Assumption 2. -/
opaque freeWord : (tick index : Nat) → DWord

end Sys2Proof.Config
end

