-- ==== Sys2Proof/Machine/State.lean ====
section
/-! DEFINITION. The state of one package as plain data, the reasons a step can stop, and the state after reset. -/

namespace Sys2Proof.Machine

open Sys2Proof

/-- Cells of a store: keys strictly rising, and no cell that holds what an unlisted key reads as. -/
abbrev SMap (α : Type) := List (Nat × α)

/-- Bytes by address; an unlisted address reads as 0x00 (assumption 3). -/
abbrev Memory := List Host.Cell

/-- A trap or fault code (R406). -/
abbrev Code := BitVec 16

/-- What an h register holds (R208, R331). -/
inductive HVal where
  /-- The null handle: complete, with success (R31). -/
  | null
  /-- An own handle: the class and sequence number of a command of this wave. -/
  | own (cls seq : Nat)
  /-- A reference installed by HMOV: a command handle word. -/
  | ref (word : Word)
  /-- An object handle word. -/
  | obj (word : Word)
  deriving DecidableEq, Repr

/-- What a path waits for within its wave (R309, R312, R419). -/
inductive PathWait where
  | ready
  /-- At a CONV; `named` is the lane mask its A gave. -/
  | conv (named : Option Mask)
  /-- At a BAR: barrier, fence kinds, and the count its A gave. -/
  | bar (n kinds : Nat) (count : Option Nat)
  /-- At an RTT: 0 plain, 1 .RPL, 2 .ESC. -/
  | rtt (form : Nat)
  deriving DecidableEq, Repr

/-- A path of a frontier (R293). `fr` is 0 for the main frontier, else the id of a trap frame (R409). -/
structure Path where
  id   : Nat
  fr   : Nat
  pc   : DWord
  prio : BitVec 12
  mask : Mask
  wait : PathWait
  deriving DecidableEq, Repr

/-- A frame of the trap stack (R408), with the trap registers of R416. -/
structure Frame where
  id     : Nat
  code   : Code
  pc     : DWord
  rpc    : DWord
  info   : DWord
  mask   : Mask
  prio   : BitVec 12
  parent : Nat
  /-- The class and sequence number of the reported command, if the frame was made by a report (R210). -/
  cmd    : Option (Nat × Nat)
  status : Byte
  /-- The h register whose read reported the command. -/
  hreg   : Option Nat
  /-- Whether the frame waits for the firmware core (R415). -/
  esc    : Bool
  deriving DecidableEq, Repr

/-- A pinned translation of one 4 KiB page (R180): the virtual page, the key of its first byte in `State.mem`, and the
context whose key serves it. -/
structure Pin where
  vpage : Nat
  base  : Nat
  owner : Nat
  /-- The MODE of the leaf (R196). -/
  mode  : Nat
  /-- The 4 KiB pages that the leaf maps: 1, 16 or 512. -/
  span  : Nat
  deriving DecidableEq, Repr

/-- One lane's part of a per-lane command: main-memory address, value, local address. -/
structure LaneArg where
  lane : Nat
  addr : DWord
  val  : DWord
  loc  : Nat
  deriving DecidableEq, Repr

/-- A bulk descriptor (R225). -/
structure Bulk where
  va   : DWord
  loc  : Word
  len  : Nat
  rows : Nat
  vstr : Int
  lstr : Int
  deriving DecidableEq, Repr

/-- The matrix instructions that are commands (R150). -/
inductive MatKind where
  | mma | mmab | mzero | mlda | msta | memit | mrela | maddt | mscl
  deriving DecidableEq, Repr

/-- A matrix instruction with everything it carries (R143, R165). -/
structure MatCmd where
  kind  : MatKind
  reuse : Bool
  ty    : Ty
  var   : Nat
  d     : Nat
  a     : Nat
  b     : Nat
  /-- The A operand read at issue: register k of the block in lane l at k * 64 + l. -/
  aval  : SMap Word
  /-- The operand map. -/
  map   : DWord
  /-- Row addresses or scales by lane; the tile mask of MRELA at 0. -/
  args  : SMap Word
  /-- The column of MEMIT, or .L of MRELA. -/
  col   : Nat
  deriving DecidableEq, Repr

/-- A message of a port (R345). -/
structure Msg where
  label  : Word
  bytes  : List Byte
  /-- The frames granted: key of the frame, and W of the sender's entry. -/
  grants : List (Nat × Bool)
  sender : Word
  ctx    : Nat
  deriving DecidableEq, Repr

/-- A call of the object engine, with what it read at issue (R336). -/
inductive Call where
  | wspawn (d facet : Nat) (desc : List Word)
  | wkill (obj : Word) (status : Nat)
  | pnew (d depth : Nat)
  /-- `held` is the frames of its grants, once the sender's entries are zero (R346). -/
  | psend (obj : Word) (sp nw : Bool) (loc len : Nat) (label : Word) (grants : List DWord) (held : Option (List (Nat × Bool)))
  | precv (obj : Word) (sp poll : Bool) (loc cap : Nat) (gva : DWord) (d : Nat)
  | snew (d : Nat)
  | sadd (set obj : Word) (tag : Nat)
  | sdel (set obj : Word)
  | tnew (d : Nat)
  | tarm (obj : Word) (abs : Bool) (count : DWord)
  | tdis (obj : Word)
  | olook (d : Nat) (name : DWord)
  | obind (obj : Word) (name : DWord) (pub : Bool)
  | ounb (name : DWord)
  | ofree (obj : Word)
  | oinfo (obj : Word) (field : Nat) (d : Operand)
  deriving DecidableEq, Repr

/-- What a command does when it is performed (R205). -/
inductive Effect where
  | bulkIn (d : Bulk) (sp : Bool)
  | bulkOut (d : Bulk) (sp : Bool)
  | bulkFill (d : Bulk) (pattern : Word)
  /-- BGATH: `dest` is 0 registers, 1 shared, 2 scratchpad. -/
  | gather (ty : Ty) (dest : Nat) (d : Operand) (lanes : List LaneArg)
  /-- BSCAT: `src` as `dest` of a gather. -/
  | scatter (ty : Ty) (src : Nat) (lanes : List LaneArg)
  /-- MATOM and MRED: `d` is none for MRED. -/
  | atomic (op : Nat) (ty : Ty) (d : Operand) (lanes : List LaneArg)
  /-- MCAS: the compared values stand in `loc`. -/
  | cas (ty : Ty) (d : Operand) (lanes : List LaneArg)
  | xsum (ty : Ty) (lanes : List LaneArg)
  | xrd (ty : Ty) (mode : Rnd) (d : Operand) (lanes : List LaneArg)
  | xclr (lanes : List LaneArg)
  | matrix (m : MatCmd)
  | nwant (sp : Bool) (key : TileKey) (loc life : Nat)
  | nhave (sp : Bool) (key : TileKey) (loc shelf : Nat)
  | ndrop (key : TileKey)
  | npeek (key : TileKey) (d : Operand)
  | call (c : Call)
  deriving DecidableEq, Repr

/-- Where a command stands between issue and the signal of its completion (R207). -/
inductive CmdStage where
  /-- Issued; nothing of it has begun. -/
  | queued
  /-- It has reached its router or port and waits there (R334, R376). -/
  | waiting
  /-- Its bytes are on their way into its local storage, and some of them have landed (R212, R255). -/
  | landing
  /-- Its effects are performed. -/
  | performed
  /-- Its completion is signalled. -/
  | signalled
  deriving DecidableEq, Repr

/-- A command of one of the six classes (R205 to R210). `status` is the status it completes with. -/
structure Cmd where
  cls      : Nat
  seq      : Nat
  pc       : DWord
  mask     : Mask
  effect   : Effect
  pins     : List Pin
  status   : Byte
  stage    : CmdStage
  /-- Its unit has begun it while it is queued, and this many of its pieces are performed (R182, R213, R235). -/
  begun    : Bool
  sent     : Nat
  reported : Bool
  /-- A release: it is performed only after every earlier access of the wave (R245). -/
  rel      : Bool
  /-- The wave's issue number of the command, over all classes. -/
  order    : Nat
  /-- The faulting virtual address of a failed translation (R459), else 0. -/
  info     : DWord
  /-- The edge at which it was issued (R399). -/
  since    : Nat
  /-- The words of the chunk in hand, or the elements of an MSTA, that have been moved already (R154, R183, R212). -/
  moved    : List Nat
  /-- The local bytes, by key, or the elements of a matrix instruction's sources, by number, that its unit has read so far, each with one
  added to its value (R154, R212). -/
  sample   : SMap Nat
  /-- An HCANCEL has been sent to the router or home engine that holds it (R235). -/
  asked    : Bool
  /-- Its requests to other packages have been given to their link ports, and for each package the port (R430). -/
  posted   : Bool
  via      : List (Nat × Nat)
  /-- A request of it was discarded with a retired port: it completes with UNREACHABLE or OPEER (R433). -/
  lost     : Bool
  /-- The die whose scratchpad its scratchpad addresses mean: that of its wave at issue (R172, R383). -/
  die      : Nat
  /-- While it lands, the local bytes that have not landed yet, by key, and the s registers that it writes at its completion, from
  2^63 on (R57, R212). -/
  late     : List (Nat × Nat)
  deriving DecidableEq, Repr

/-- What a wave waits for (R55). A retry is an instruction that has not completed its issue and is tried again; `park` tells a
park from a wait that is none, and `port`, where every command that the park waits for is of the PORT class, names their sequence
numbers (R341). -/
inductive Park where
  | no
  | retry (park : Bool) (port : Option (List Nat))
  /-- A sleep until a reference cycle of the facet; in a saved group, the cycles that remain (R318). -/
  | sleep (deadline : DWord)
  | wwait (set : Word) (d : Operand) (mask : Mask)
  /-- Stopped after a YIELD or MPOINT, until the group is saved and restored (R317). -/
  | stopped
  /-- At an SFREE of the region at an offset of a facet's quarter, until no command uses it (R328, R329). -/
  | sfree (facet base : Nat)
  deriving DecidableEq, Repr

/-- A register result of the current unchecked run (R56): the register (`space` is 0 for v, 1 for s, 2 for p), the lanes
written (lane 0 stands for an s register) and what each held before. -/
structure Fresh where
  space : Nat
  index : Nat
  lanes : Mask
  old   : SMap Word
  deriving DecidableEq, Repr

/-- The reuse latch's contents (R144). -/
structure Latch where
  kind : MatKind
  ty   : Ty
  var  : Nat
  aval : SMap Word
  deriving DecidableEq, Repr

/-- A wave and its registers (R28). -/
structure Wave where
  id       : Nat
  core     : Nat
  slot     : Nat
  v        : SMap Word
  s        : SMap Word
  p        : SMap Mask
  h        : SMap HVal
  m        : SMap DWord
  present  : Mask
  exited   : Mask
  paths    : List Path
  frames   : List Frame
  nextId   : Nat
  /-- The path pinned by a park (R294). -/
  held     : Option Nat
  trapVec  : DWord
  /-- The fairness counter, the path it counts, and the run it gave: path and issues left (R296). -/
  fair     : Nat
  last     : Nat
  run      : Option (Nat × Nat)
  fresh    : List Fresh
  park     : Park
  /-- The reference cycle of the facet in which the wave parked, or 0 (R341). -/
  parkedAt : DWord
  /-- While an instruction is tried again: the issue number of the first command after it (R231, R232). -/
  asOf     : Option Nat
  cmds     : List Cmd
  seqs     : SMap Nat
  order    : Nat
  latchTag : Option (MatKind × Ty × Nat)
  latch    : Option Latch
  /-- Reservations in shared memory and in scratchpad: lane and sector (R221). -/
  resvS    : SMap Nat
  resvP    : SMap Nat
  spill    : Memory
  /-- Where its range lies in the scratchpad quarter of its facet (R174). -/
  spillAt  : Nat
  /-- While its group is saved: the uncorrectable 8-byte words of its spill stack (R178, R203). -/
  badSpill : List Nat
  /-- The components this wave has given up by REL since they were granted (R321). -/
  rel      : BitVec 4
  /-- A fault has been raised, and the wave issues nothing more (R412). -/
  dead     : Bool
  deriving DecidableEq, Repr

/-- An allotment: v and s registers per wave, shared memory in bytes, tiles (R29). -/
structure Allot where
  v  : Nat
  s  : Nat
  sh : Nat
  t  : Nat
  deriving DecidableEq, Repr

/-- A task: its box (origin and extent per axis), argument and place in start order (R276, R283, R324). The place is none until
its group is first placed; places compare as words do, and a half's place extends the place of its task. -/
structure Task where
  ox : Nat
  oy : Nat
  oz : Nat
  ex : Nat
  ey : Nat
  ez : Nat
  arg   : Word
  order : List Nat
  /-- Of a child in the task list: the group that spawned it, the step at which the core clock of the spawn began, and the WAVE_ID
  (R323). -/
  born  : Option (Nat × Nat × Nat)
  deriving DecidableEq, Repr

/-- One barrier's phase: the waves that have arrived, in order, and the count they gave (R313). -/
structure Barrier where
  arrived : List Nat
  count   : Option Nat
  deriving DecidableEq, Repr

/-- A held-back effect of a divisible task (R184). -/
inductive Deferred where
  /-- Bytes for main memory, by virtual address, and the bytes of a single-copy-atomic unit of them (R239). -/
  | store (unit : Nat) (cells : List (DWord × List Byte))
  | atomic (op : Nat) (ty : Ty) (lanes : List LaneArg)
  | xsum (ty : Ty) (lanes : List LaneArg)
  /-- `die` is the die whose scratchpad holds the source (R386). -/
  | announce (die : Nat) (sp : Bool) (key : TileKey) (loc shelf : Nat)
  | spawn (t : Task)
  deriving DecidableEq, Repr

/-- Where a group stands (R357, R425). -/
inductive GStat where
  | resident | saved | benched | stoodDown | exited
  deriving DecidableEq, Repr

/-- What a free wave has besides a group's state (R338, R339). -/
structure FreeWave where
  handle : Word
  level  : Nat
  code   : Code
  faultPc : DWord
  deriving DecidableEq, Repr

/-- A pending pre-emption request: deadline in the facet's reference cycles, and whether it has passed (R423, R424). -/
structure Preempt where
  deadline : DWord
  forced   : Bool
  deriving DecidableEq, Repr

/-- An entry of a matrix queue (R150): a command, or the release of an MPOINT with the tiles it keeps (R420). -/
inductive MatEntry where
  | cmd (facet core group wave seq : Nat)
  /-- `point` is the step at which the MPOINT issued. -/
  | mpoint (facet core group : Nat) (keep : Word) (point : Nat)
  deriving DecidableEq, Repr

/-- What a tile, core * 32 + tile, held before the release of an MPOINT, which matrix instructions that are not ordered after it may still
read (R420). -/
structure Faint where
  point : Nat
  tile  : Nat
  old   : SMap Word
  deriving DecidableEq, Repr

/-- A group, or a free wave, which is a group of one wave (R24, R27). -/
structure Group where
  id       : Nat
  ctx      : Nat
  launch   : Option Nat
  free     : Option FreeWave
  task     : Task
  facet    : Nat
  stat     : GStat
  shape    : Nat × Nat × Nat
  waves    : List Wave
  g        : SMap Word
  /-- The waves that have issued in the current core clock of its facet, each with the sequence number that a matrix command of it takes
  then, what the g registers held at its start, and one more than the WAVE_ID of the last writer of each in it (R33, R150, R256). -/
  clock    : List (Nat × Nat)
  /-- The step at which that core clock began. -/
  clockAt  : Nat
  gPrev    : SMap Word
  gBy      : SMap Nat
  /-- Element (i, j) of tile t on core c at ((c * 32 + t) * 64 + i) * 64 + j. -/
  tiles    : SMap Word
  /-- The tiles in use, core * 32 + tile (R141). -/
  inUse    : List Nat
  shared   : Memory
  bars     : SMap Barrier
  cur      : Allot
  pro      : Allot
  full     : Allot
  slots    : List (BitVec 16)
  spillSize : Nat
  ceil     : Nat
  div      : Bool
  /-- The ACQ requests that wait: a number that orders all requests by arrival, and the components (R36, R320). -/
  acq      : List (Nat × BitVec 4)
  /-- The held-back records in issue order, each with the PC of its instruction (R184). -/
  deferred : List (DWord × Deferred)
  deferUsed : Nat
  deferCap  : Nat
  /-- Reference cycles the group has been resident, saves left out (R285, R298). -/
  resident : Nat
  /-- The facet whose HBM quarter holds the save area and the deferred area (R37, R425). -/
  saveAt   : Nat
  preempt  : Option Preempt
  /-- The place of its stop among all stops, once every wave has stopped or exited (R424). -/
  stopAt   : Option Nat
  /-- The facet and core that a move for heat takes the group away from (R298). -/
  hot      : Option (Nat × Nat)
  exitMax  : Nat
  exitOr   : Byte
  /-- The 8-byte words of shared memory and the pairs of tile elements that hold an uncorrectable error (R203). -/
  badShared : List Nat
  badTiles : List Nat
  /-- The MPOINTs, by the steps at which they issued, with the waves that are not ordered after them, and what those may still read
  (R420). -/
  points   : List (Nat × List Nat)
  faint    : List Faint
  /-- The entries of matrix queues saved with the group, in order (R165). -/
  savedMat : List MatEntry
  /-- A number that orders placements, and the edge since which the group is placed, or waits for a place (R298, R423). -/
  placed   : Nat
  since    : Nat
  /-- Escalation answers that arrived while no slot was held, applied at restore: token, and whether to retry (R426). -/
  answers  : List (Nat × Bool)
  deriving DecidableEq, Repr

/-- What a launch record says (R275). -/
structure LaunchRec where
  code    : DWord
  entry   : Nat
  shape   : Nat × Nat × Nat
  pclass  : Nat
  div     : Bool
  level   : Nat
  allow   : Nat
  ext     : Nat × Nat × Nat
  init    : Nat × Nat × Nat
  min     : Nat × Nat × Nat
  defer   : Nat
  spill   : Nat
  sceil   : Nat
  pro     : Allot
  full    : Allot
  slots   : List (BitVec 16)
  compl   : DWord
  cancel  : DWord
  tag     : DWord
  entryPrio : BitVec 12
  deriving DecidableEq, Repr

/-- Where a launch stands until it is complete (R267, R278). -/
inductive LStat where
  | presented | accepted
  deriving DecidableEq, Repr

/-- A launch (R275 to R292). -/
structure Launch where
  id       : Nat
  ctx      : Nat
  queue    : Nat
  facet    : Nat
  level    : Nat
  recd     : LaunchRec
  stat     : LStat
  tasks    : List Task
  /-- Tasks created so far (R275, R323). -/
  total    : Nat
  /-- The cancel word has become nonzero, the edge at which it did, and the facets whose cancel bit is set (R290). -/
  cancel   : Bool
  cancelAt : Nat
  bits     : BitVec 64
  fault    : Option (Code × DWord)
  retired  : Nat
  dropped  : Nat
  aborted  : Nat
  splits   : Nat
  exitMax  : Nat
  exitOr   : Byte
  startRef : DWord
  /-- The edge since which the head of the task list has not been placed (R423). -/
  headFrom : Nat
  /-- Tasks that have taken a place in start order (R283). -/
  started  : Nat
  /-- Keys of the completion record and of the cancel word, if it has one, in `State.mem`. -/
  complKey : Nat
  cancelKey : Option Nat
  /-- The edge of the TAIL write that published its packet, whether a wave of it has issued, and the edge by which R274 promises the
  first issue of its first task, while it is owed. -/
  tailAt   : Nat
  issued   : Bool
  due      : Option Nat
  deriving DecidableEq, Repr

/-- A single-copy-atomic unit written over a packet while the fetcher holds the packet: its offset and length in bytes, and what it then
reads as (R239, R448). -/
structure Rewrite where
  off : Nat
  len : Nat
  val : Nat
  deriving DecidableEq, Repr

/-- What the fetcher does with the packet at READ (R263 to R271). -/
inductive QStage where
  | idle
  /-- A launch awaits admission. -/
  | presented (l : Nat)
  /-- A DEPEND waits for its records. -/
  | depend
  deriving DecidableEq, Repr

/-- The packet at index `rd` as a fetcher holds it, at `key`, and what has been written over it since, oldest first (R448). -/
structure Held where
  rd   : Nat
  key  : Nat
  pkt  : Nat
  upon : List Rewrite
  deriving DecidableEq, Repr

/-- A registered software queue; its control block lies in main memory at `key`, and its context addresses it at `va` (R261,
R270). -/
structure Queue where
  id       : Nat
  ctx      : Nat
  key      : Nat
  va       : DWord
  ring     : DWord
  log2size : Nat
  level    : Nat
  /-- The facet whose slot maps the queue, whether the slot is borrowed, and the edge it was mapped at. -/
  slot     : Option (Nat × Bool × Nat)
  stage    : QStage
  /-- The edge since which READ equals TAIL, or at which the packet at READ became the first. -/
  idleFrom : Nat
  /-- The TAIL values that took effect and whose packets are not all consumed, oldest first, with the edge of each (R274). -/
  tails    : List (Nat × Nat)
  /-- The address whose page the fetcher did not find, while the queue is STALLED (R265). -/
  missing  : Option DWord
  /-- What the fetcher holds of the packet at READ, once it has read it (R263, R268, R448). -/
  held     : Option Held
  deriving DecidableEq, Repr

/-- A scratchpad region (R174): its issuer (the group that carved it) and whether a task owns it. -/
structure Region where
  base   : Nat
  size   : Nat
  ctx    : Nat
  issuer : Nat
  owned  : Bool
  div    : Bool
  deriving DecidableEq, Repr

/-- A sender or receiver that waits at a port: group, wave and sequence number of its PORT-class command, or the message of a sender
on another package (R345, R347, R355). -/
structure Waiter where
  group : Nat
  wave  : Nat
  seq   : Nat
  peer  : Option Msg
  deriving DecidableEq, Repr

/-- What an object is (R330). -/
inductive ObjKind where
  /-- A free wave: its group. -/
  | wave (group : Nat)
  | port (depth : Nat) (queue : List Msg) (senders receivers : List Waiter)
  /-- A wait set: members by index on the same facet, with their tags (R351). -/
  | waitSet (members : SMap Nat)
  /-- A timer: its deadline, whether it is armed, and whether it has expired (R353). -/
  | timer (deadline : DWord) (armed expired : Bool)
  /-- A proxy: the remote package and the identity of the port there, which is its handle word (R355). -/
  | proxy (peer : Nat) (port : Word)
  deriving DecidableEq, Repr

/-- An object descriptor (R333). -/
structure Obj where
  idx  : Nat
  gen  : Nat
  ctx  : Nat
  kind : ObjKind
  deriving DecidableEq, Repr

/-- A capture unit (R399, R400). -/
structure Unit4 where
  code  : Nat
  min   : DWord
  max   : DWord
  count : DWord
  bins  : SMap Word
  deriving DecidableEq, Repr

/-- A facet's counter bank (R397). -/
structure Bank where
  owner    : Option Nat
  counters : SMap DWord
  units    : List Unit4
  deriving DecidableEq, Repr

/-- A facet (R20). -/
structure Facet where
  ref       : DWord
  part      : Option (Nat × Nat)
  /-- The usable user cores, by CORE_ID (R19). -/
  cores     : BitVec 8
  /-- CAP_VBANK of each core (R35). -/
  vbanks    : List Word
  spadUnits : Nat
  shelfUnits : Nat
  /-- Bytes of the HBM quarter that the firmware has set aside for save and deferred areas (R37, R458). -/
  reserve   : Nat
  regions   : List Region
  objs      : List Obj
  gens      : SMap Nat
  /-- The bench, oldest first: level and group (R340). -/
  bench     : List (Nat × Nat)
  bank      : Bank
  mhz       : Nat
  /-- The junction state of each core: 0 normal, 1 hot, 2 throttling, 3 tripped (R446). -/
  therm     : SMap Nat
  /-- The cores that have throttled and are not yet below 100 °C, and the cycle of the last step of the island (R446). -/
  stepping  : List Nat
  steppedAt : DWord
  powered   : Bool
  stopped   : Bool
  /-- The object engine has applied the calls and messages of the current reference cycle, since a timer of the cycle has expired
  (R335). -/
  closed    : Bool
  deriving DecidableEq, Repr

/-- The states of an L2 sector (R186); an absent sector is invalid. -/
inductive Moesi where
  | m | o | e | s
  deriving DecidableEq, Repr

/-- A sector in one facet's L2. -/
structure L2Line where
  facet  : Nat
  sector : Nat
  st     : Moesi
  /-- The bytes as they were read, for a sector of a peer package, which nothing keeps coherent (R196, R260); else none. -/
  data   : List Byte
  /-- Its 8-byte words, 0 to 7, that hold an uncorrectable error (R203). -/
  bad    : List Nat
  deriving DecidableEq, Repr

/-- A cached translation of one 4 KiB page, tagged with context and facet (R198). `entry` is the leaf it came from. `core` is the
core whose first-level TLB holds it, or 9 for the facet's second-level TLB. -/
structure TlbEntry where
  facet : Nat
  core  : Nat
  ctx   : Nat
  vpage : Nat
  entry : DWord
  base  : Nat
  /-- The 4 KiB pages that the leaf maps: 1, 16 or 512. -/
  span  : Nat
  deriving DecidableEq, Repr

/-- What instruction caches may still hold of bytes that have been written (R48): the key of the first, the bytes as they stood
with one more than the context whose key had written each, and the contexts that ran code when they were written. `tick` is the step of
the write, and `cmd` the command that wrote: group, wave, class and sequence number. -/
structure OldCode where
  key   : Nat
  bytes : List (Nat × Byte)
  ctxs  : List Nat
  tick  : Nat
  cmd   : Option (Nat × Nat × Nat × Nat)
  deriving DecidableEq, Repr

/-- A requester of an interest record: a local wave's command, or a face (R367). -/
inductive Requester where
  | localCmd (group wave seq : Nat)
  | face (n : Nat)
  deriving DecidableEq, Repr

/-- An interest record (R367). `loc` is a shared offset, or the key in `State.spad` of the area (R383). -/
structure IntRec where
  who      : Requester
  loc      : Nat
  sp       : Bool
  deadline : DWord
  deriving DecidableEq, Repr

/-- An entry: the records of one key, and the face and deadline last forwarded (R367). -/
structure IntEntry where
  key  : TileKey
  recs : List IntRec
  fwd  : Option (Nat × DWord)
  deriving DecidableEq, Repr

/-- A shelf copy (R373): home copies live until `expires`. Oldest use first. `bad` numbers its uncorrectable 8-byte words (R203). -/
structure Shelf where
  key     : TileKey
  bytes   : List Byte
  home    : Bool
  expires : DWord
  bad     : List Nat
  deriving DecidableEq, Repr

/-- A Finsel router (R364). `hour` is the hour of its counter whose tokens have drained (R432). `closed` says that the arrivals of the
current router cycle are applied, since a withdrawal or an expiry of the cycle has been, and `expired` that its withdrawals are, since an
expiry has been (R369, R378). -/
structure Router where
  ref     : DWord
  hour    : Nat
  routes  : List Route
  entries : List IntEntry
  shelf   : List Shelf
  downs   : List Nat
  closed  : Bool
  expired : Bool
  deriving DecidableEq, Repr

/-- A flit in a replay buffer: its SEQ, how many sends of it have failed, and the router cycle of the last send (R430). `vc` is its
virtual channel (R429), and `tag` names the command whose request it carries: group, wave, class and sequence number, with the package
that it goes to (R433). `data` are the bytes that an answer brings (R349, R355). -/
structure Sent where
  seq   : Nat
  fails : Nat
  at_   : DWord
  vc    : Nat
  tag   : Option (Nat × Nat × Nat × Nat)
  peer  : Nat
  data  : List Byte
  deriving DecidableEq, Repr

/-- A Brodone Link port (R429 to R433, R440). `state`: 0 down, 1 training, 2 up, 3 retired; `speed`: 0 to 3. -/
structure Port where
  state    : Nat
  speed    : Nat
  lanes    : BitVec 4
  bucket   : Nat
  retrains : Nat
  nextSeq  : Nat
  expected : Nat
  /-- The flits that no ACK covers, oldest first; beyond the first 256 they wait (R430). -/
  replay   : List Sent
  /-- The last replay request sent, by the SEQ it names. -/
  asked    : Option Nat
  /-- The router cycle from which a port that is down is trained again (R431). -/
  retryAt  : DWord
  /-- The key that both ends agreed at the last training, as a number that stands for it (R429). -/
  key      : Nat
  /-- Whether this end has sent its final training flit (R432). -/
  final    : Bool
  deriving DecidableEq, Repr

/-- A binding of the name service (R354). -/
structure Binding where
  ctx  : Nat
  name : DWord
  pub  : Bool
  obj  : Word
  deriving DecidableEq, Repr

/-- An entry of a lend table (R348, R349): the frame, the lending context, and the receiver. -/
structure Lend where
  frame : Nat
  owner : Nat
  dest  : Nat
  deriving DecidableEq, Repr

/-- A fault on its way to a firmware core (R413). -/
structure PendingFault where
  launch : Nat
  code   : Code
  pc     : DWord
  ctx    : Nat
  edge   : Nat
  facet  : Nat
  core   : Nat
  slot   : Nat
  deriving DecidableEq, Repr

/-- An escalation message in a die's escalation port (R414). -/
structure Escalation where
  die   : Nat
  token : Nat
  addr  : DWord
  pc    : DWord
  facet : Nat
  kind  : Nat
  ctx   : Nat
  code  : Code
  /-- A message that context 0 has sent to the port itself stands in place of the fields above (R345). -/
  sent  : Option Msg
  deriving DecidableEq, Repr

/-- The host port's registers and what the driver has set (R434 to R444). -/
structure HostRegs where
  uncorr   : Nat
  linksRet : Nat
  coresOut : Nat
  banksOut : Nat
  therm    : Nat
  drained  : Bool
  fwBusy   : Bool
  qerr     : Bool
  lognew   : Bool
  replace  : Bool
  winbase  : DWord
  drvcmd   : BitVec 4
  result   : Byte
  overrun  : Bool
  busy     : Bool
  args     : List DWord
  logTail  : Nat
  logBase  : DWord
  logSize  : Nat
  logVec   : Nat
  prBase   : DWord
  prSize   : Nat
  prVec    : Nat
  prTail   : Nat
  draining : Bool
  /-- The arguments of the last DRAIN, or what is left of a BIAS that runs (R442, R444). -/
  runArgs : List DWord
  /-- The minimum version in the fuses, and the version that runs (R404). -/
  fwMin    : Nat
  fwVersion : Nat
  /-- The version accepted and not yet switched to. -/
  fwNext   : Option Nat
  /-- The image that runs, and the one accepted (R405, R443). -/
  fwImage  : List Byte
  fwNew    : List Byte
  /-- The page requests that have come while the firmware cores change images and that they have not looked at (R443). -/
  fwHeld   : List Escalation
  /-- How far bring-up has come: 0 the firmware has not started, 1 it has, 2 the host port is trained (R447). -/
  boot     : Nat
  rate     : Nat
  width    : Nat
  cxl      : Bool
  deriving DecidableEq, Repr

/-- Which agent moves next: a wave issues, or a device event takes place. -/
inductive Turn where
  | issue (group wave : Nat)
  | event (i : Instr)
  deriving DecidableEq, Repr

/-- The whole package. `mem` holds local HBM at its 40-bit physical addresses, host memory from 2^48 and peer package p's
memory from p * 2^50. `spad` holds byte `o` of facet f's scratchpad quarter at f * 2^26 + o. -/
structure State where
  tick     : Nat
  edges    : Nat
  nextId   : Nat
  agenda   : List Turn
  cur      : Option (Nat × Nat)
  peerId   : Nat
  mem      : Memory
  /-- The context number whose key last wrote each 64-byte sector of local HBM; unlisted: none (R201, R202). -/
  keyed    : SMap Nat
  /-- The 64-byte sectors of local HBM that hold an uncorrectable error (R203). -/
  bad      : List Nat
  spad     : Memory
  /-- The 8-byte words of `spad` that hold an uncorrectable error (R203). -/
  badSpad  : List Nat
  /-- The newest first. -/
  icache   : List OldCode
  tlb      : List TlbEntry
  l2       : List L2Line
  devBias  : List Nat
  /-- The sectors of local HBM that the host may hold in its caches (R259). -/
  hostHeld : List Nat
  migCount : SMap Nat
  /-- One more than the facet whose request took a page's counter past the threshold of a class, by page * 4 + class (R197). -/
  migPass  : SMap Nat
  parts    : List (Nat × Nat)
  /-- The level-4 table of context 0, whose code the firmware cores run, if the firmware has one (assumption 65). -/
  fwRoot   : Option Nat
  ctxs     : List CtxDesc
  keys     : List (Nat × Nat)
  names    : List Binding
  lends    : List Lend
  queues   : List Queue
  launches : List Launch
  groups   : List Group
  matq     : List MatEntry
  facets   : List Facet
  routers  : List Router
  net      : List NetMsg
  ports    : List Port
  fabric   : List (Nat × Nat)
  /-- The messages sent to other packages: the package, the port there, and the message (R355). -/
  outbox   : List (Nat × Word × Msg)
  host     : HostRegs
  irqs     : List Nat
  faults   : List PendingFault
  esc      : List Escalation
  /-- The receivers that wait at the escalation port of a die, longest first (R347, R414). -/
  escWait  : List (Nat × Waiter)
  deriving DecidableEq, Repr

/-- Why a step stops as a fault. Neither is a behaviour of the hardware: a state of the machine never raises one, since
every fault of the manual is a next state. -/
inductive Fault where
  /-- `exec` was asked for an instruction of the word while no wave is set to issue. Raised by every meaning of such an
  instruction; safe, since no hardware step is left out. -/
  | noIssuer
  /-- The agenda names an instruction of the word where only a device event can stand. Raised by `step`; safe. -/
  | notADeviceEvent
  deriving DecidableEq, Repr

/-- Why a step is refused. -/
inductive Refusal where
  /-- The instruction of this mnemonic has no meaning in the model. Raised by `exec` for an arm that is not written; safe. -/
  | notModelled (mnemonic : String)
  deriving DecidableEq, Repr

/-- A capture unit that is stopped and clear (R400). -/
def Unit4.clear : Unit4 := ⟨0, BitVec.allOnes 64, 0, 0, []⟩

/-- A bank that is clear and that no context owns (R397). -/
def Bank.clear : Bank := ⟨none, [], List.replicate 4 Unit4.clear⟩

/-- A facet after cold reset: the reference counter reads 0 (R43). The capabilities are a whole part's (assumption 6), and
the island runs at its nominal clock (assumption 7). -/
def Facet.reset : Facet :=
  { ref := 0, part := none, cores := 255#8, vbanks := List.replicate 8 (BitVec.allOnes 32), spadUnits := 384,
    shelfUnits := 0, reserve := 0, regions := [], objs := [], gens := [], bench := [], bank := Bank.clear, mhz := 700, therm := [],
    stepping := [], steppedAt := 0, powered := true, stopped := false, closed := false }

/-- A router after cold reset: its counter reads 0 (R364). -/
def Router.reset : Router := ⟨0, 0, [], [], [], [], false, false⟩

/-- A link port after cold reset (R440). -/
def Port.reset : Port := ⟨0, 0, 0, 0, 0, 0, 0, [], none, 0, 0, false⟩

/-- BAR0 after cold reset (R436, R438): every field is 0. -/
def HostRegs.reset : HostRegs :=
  { uncorr := 0, linksRet := 0, coresOut := 0, banksOut := 0, therm := 0, drained := false, fwBusy := false, qerr := false,
    lognew := false, replace := false, winbase := 0, drvcmd := 0, result := 0, overrun := false, busy := false,
    args := [0, 0, 0, 0], logTail := 0, logBase := 0, logSize := 0, logVec := 0, prBase := 0, prSize := 0, prVec := 0,
    prTail := 0, draining := false, runArgs := [0, 0, 0, 0], fwMin := 0, fwVersion := 0, fwNext := none,
    fwImage := [], fwNew := [], fwHeld := [], boot := 1, rate := 0, width := 0, cxl := false }

/-- The package right after cold reset: counters at 0 (R43, R364), every register map at its Reset column, no partition, no
context, no queue, no work (R447). Every counter reads 0 here, and a cold reset may leave them apart (assumption 72). The values that no
rule gives are those of assumptions 1, 2, 3, 6, 7 and 9. -/
def State.reset : State :=
  { tick := 0, edges := 0, nextId := 1, agenda := [], cur := none, peerId := 1, mem := [], keyed := [], bad := [], spad := [], badSpad := [],
    icache := [], tlb := [], l2 := [], devBias := [], hostHeld := [], migCount := [], migPass := [], parts := [], fwRoot := none, ctxs := [], keys := [(0, 0)],
    names := [], lends := [], queues := [], launches := [], groups := [], matq := [],
    facets := List.replicate 64 Facet.reset, routers := List.replicate 18 Router.reset, net := [],
    ports := List.replicate 24 Port.reset, fabric := [], outbox := [], host := HostRegs.reset, irqs := [], faults := [],
    esc := [], escWait := [] }

end Sys2Proof.Machine
end

