-- ==== Sys2Proof/Machine/Store.lean ====
section
/-! DEFINITION. Sparse stores in canonical form: registers, tiles and memories. -/

namespace Sys2Proof.Machine

/-- What a store holds at a key; `d` is what an unlisted key reads as. -/
def look {α : Type} (d : α) : SMap α → Nat → α
  | [], _ => d
  | (k', x) :: r, k => if k = k' then x else look d r k

/-- A cell put before the first cell with a higher key. -/
def insertCell {α : Type} (k : Nat) (x : α) : SMap α → SMap α
  | [] => [(k, x)]
  | (k', y) :: r => if k < k' then (k, x) :: (k', y) :: r else (k', y) :: insertCell k x r

/-- A store with a new value at a key. Storing what an unlisted key reads as removes the cell. -/
def put {α : Type} [DecidableEq α] (d : α) (m : SMap α) (k : Nat) (x : α) : SMap α :=
  let rest := m.filter (fun c => c.1 ≠ k)
  if x = d then rest else insertCell k x rest

/-- The canonical form: keys strictly rising, and no cell that holds what an unlisted key reads as. -/
def SMap.wf {α : Type} [DecidableEq α] (d : α) (m : SMap α) : Bool :=
  m.all (fun c => decide (c.2 ≠ d)) && decide (m.Pairwise (fun a b => a.1 < b.1))

/-- What a byte that nothing has written reads as (assumption 3). -/
def unlistedByte : Byte := 0#8

/-- The byte at an address. -/
def Memory.read (m : Memory) (a : Nat) : Byte := look unlistedByte m a

/-- Memory with one byte written. -/
def Memory.write (m : Memory) (a : Nat) (b : Byte) : Memory := put unlistedByte m a b

/-- The canonical form of a memory. -/
def Memory.wf (m : Memory) : Bool := SMap.wf unlistedByte m

/-- `n` bytes from an address upward. -/
def Memory.readBytes (m : Memory) (a n : Nat) : List Byte := (List.range n).map (fun i => m.read (a + i))

/-- `n` bytes from an address upward as a number, the least significant first (R8). -/
def Memory.readNum (m : Memory) (a n : Nat) : Nat := ofBytes (m.readBytes a n)

/-- Memory with a list of bytes written from an address upward. -/
def Memory.writeBytes : Memory → Nat → List Byte → Memory
  | m, _, [] => m
  | m, a, b :: bs => Memory.writeBytes (m.write a b) (a + 1) bs

/-- Memory with `n` bytes from an address upward returned to what nothing has written. -/
def Memory.clear (m : Memory) (a n : Nat) : Memory := m.filter (fun c => !(a ≤ c.1 && c.1 < a + n))

/-- A store without the keys that fail a test. -/
def keepKeys {α : Type} (t : Nat → Bool) (m : SMap α) : SMap α := m.filter (fun c => t c.1)

end Sys2Proof.Machine
end

