-- ==== Sys2Proof/Machine/Mem.lean ====
section
/-! DEFINITION. Main memory at its home: keys, sectors, TAIL and cancel words, the L2 directory, the page walk, TLBs and
instruction fetch. -/

namespace Sys2Proof.Machine

open Sys2Proof

/-! ### Looking up the parts of the state -/

def State.group? (s : State) (g : Nat) : Option Group := s.groups.find? (fun x => x.id = g)
def State.launch? (s : State) (l : Nat) : Option Launch := s.launches.find? (fun x => x.id = l)
def State.queue? (s : State) (q : Nat) : Option Queue := s.queues.find? (fun x => x.id = q)
/-- The descriptor of a context. Context 0 has none; the firmware's own code runs in it over the whole package, with name space 0 (R363,
assumption 65). -/
def State.ctx? (s : State) (n : Nat) : Option CtxDesc :=
  if n = 0 then s.fwRoot.map (fun r => ⟨0, 0, 0, 0, 6, r, false, 2 ^ 40⟩) else s.ctxs.find? (fun x => x.num = n)
/-- The descriptor of a context that has one (R391). -/
def State.descOf (s : State) (n : Nat) : Option CtxDesc := s.ctxs.find? (fun x => x.num = n)
def State.facet (s : State) (f : Nat) : Facet := s.facets.getD f Facet.reset
def State.router (s : State) (r : Nat) : Router := s.routers.getD r Router.reset
def State.port (s : State) (p : Nat) : Port := s.ports.getD p Port.reset
def Group.wave? (g : Group) (w : Nat) : Option Wave := g.waves.find? (fun x => x.id = w)

def State.setGroup (s : State) (g : Group) : State :=
  { s with groups := s.groups.map (fun x => if x.id = g.id then g else x) }
def State.setLaunch (s : State) (l : Launch) : State :=
  { s with launches := s.launches.map (fun x => if x.id = l.id then l else x) }
def State.setQueue (s : State) (q : Queue) : State :=
  { s with queues := s.queues.map (fun x => if x.id = q.id then q else x) }
def State.setFacet (s : State) (f : Nat) (x : Facet) : State := { s with facets := s.facets.set f x }
def State.setRouter (s : State) (r : Nat) (x : Router) : State := { s with routers := s.routers.set r x }
def State.setPort (s : State) (p : Nat) (x : Port) : State := { s with ports := s.ports.set p x }
def Group.setWave (g : Group) (w : Wave) : Group :=
  { g with waves := g.waves.map (fun x => if x.id = w.id then w else x) }

/-- One group changed by a function; nothing happens where it does not exist. -/
def State.updGroup (s : State) (g : Nat) (f : Group → Group) : State :=
  { s with groups := s.groups.map (fun x => if x.id = g then f x else x) }

/-- One wave changed by a function. -/
def State.updWave (s : State) (g w : Nat) (f : Wave → Wave) : State :=
  s.updGroup g (fun x => { x with waves := x.waves.map (fun y => if y.id = w then f y else y) })

def State.updLaunch (s : State) (l : Nat) (f : Launch → Launch) : State :=
  { s with launches := s.launches.map (fun x => if x.id = l then f x else x) }

def State.updFacet (s : State) (f : Nat) (u : Facet → Facet) : State := s.setFacet f (u (s.facet f))
def State.updRouter (s : State) (r : Nat) (u : Router → Router) : State := s.setRouter r (u (s.router r))
def State.updPort (s : State) (p : Nat) (u : Port → Port) : State := s.setPort p (u (s.port p))

/-! ### Counter banks -/

/-- Whether a bank counts a context's work (R397). -/
def Bank.counts (b : Bank) (ctx : Nat) : Bool := b.owner = none || b.owner = some ctx

/-- A counter of R398 increased, modulo 2^64. -/
def State.count (s : State) (facet ctx i n : Nat) : State :=
  s.updFacet facet (fun f =>
    if f.bank.counts ctx then
      { f with bank := { f.bank with
        counters := put 0 f.bank.counters i (look 0 f.bank.counters i + BitVec.ofNat 64 n) } }
    else f)

/-- A capture unit with one more value (R400). -/
def Unit4.take (u : Unit4) (v : Nat) : Unit4 :=
  let b := if v = 0 then 0 else Nat.min (Nat.log2 v + 1) 63
  { u with min := BitVec.ofNat 64 (Nat.min u.min.toNat v), max := BitVec.ofNat 64 (Nat.max u.max.toNat v),
           count := u.count + 1, bins := put 0 u.bins b (BitVec.ofNat 32 (Nat.min ((look 0 u.bins b).toNat + 1) 0xFFFFFFFF)) }

/-- A value taken by every unit of a bank that watches a quantity (R399). -/
def State.capture (s : State) (facet ctx code v : Nat) : State :=
  s.updFacet facet (fun f =>
    if f.bank.counts ctx then
      { f with bank := { f.bank with units := f.bank.units.map (fun u => if u.code = code then u.take v else u) } }
    else f)

/-! ### Keys of main memory -/

/-- The key of a host physical address. -/
def hostKey (pa : Nat) : Nat := 2 ^ 48 + pa % 2 ^ 48
/-- The key of a physical address of peer package `p`. -/
def peerKey (p pa : Nat) : Nat := p * 2 ^ 50 + pa % 2 ^ 48
/-- Whether a key lies in this package's HBM (R193). -/
def isLocal (key : Nat) : Bool := key < 2 ^ 40
/-- The facet whose HBM quarter holds a local key: bits [39:34] (R193). -/
def homeFacet (key : Nat) : Nat := key / 2 ^ 34 % 64

/-- Whether a key slot is bound to a context (R394). -/
def State.keyBound (s : State) (ctx : Nat) : Bool := s.keys.any (fun (_, c) => c = ctx)

/-- A byte of main memory as a context's key decrypts it; `mark` is one more than the context whose key wrote it, 0 for none. -/
def plain (ctx key mark : Nat) (b : Byte) : Byte :=
  match mark with
  | 0 => b
  | w + 1 => if w = ctx then b else Config.scramble w ctx key b

/-- The mark of the sector that holds a key. Memory that is not this package's has none. -/
def State.markOf (s : State) (key : Nat) : Nat := if isLocal key then look 0 s.keyed (key / 64) else 0

/-- The context whose key serves a page: the lender's for a lent frame (R348). -/
def frameOwner (s : State) (ctx base : Nat) : Nat :=
  match s.lends.find? (fun l => l.frame = base && l.dest = ctx) with
  | some l => l.owner
  | none => ctx

/-- The context under whose key the home agent serves a context's access to a key (R201, R348). -/
def State.under (s : State) (ctx key : Nat) : Nat := frameOwner s ctx (key / 4096 * 4096)

/-- A byte of main memory as a context's key decrypts it (R201, R202). A sector that nothing has written, and memory that is
not this package's, is read as it stands. -/
def State.readByte (s : State) (ctx key : Nat) : Byte := plain ctx key (s.markOf key) (s.mem.read key)

/-- `n` bytes of main memory as a context reads them. -/
def State.readBytes (s : State) (ctx key n : Nat) : List Byte := (List.range n).map (fun i => s.readByte ctx (key + i))

/-- `n` bytes of main memory as a number. -/
def State.readNum (s : State) (ctx key n : Nat) : Nat := ofBytes (s.readBytes ctx key n)

/-- A sector brought under a context's key: the bytes another context wrote stay as this one reads them (R202). -/
def State.claimSector (s : State) (ctx key : Nat) : State :=
  let sec := key / 64
  if !isLocal key || look 0 s.keyed sec = ctx + 1 then s
  else
    let bytes := s.readBytes ctx (sec * 64) 64
    { s with mem := if look 0 s.keyed sec = 0 then s.mem else s.mem.writeBytes (sec * 64) bytes,
             keyed := put 0 s.keyed sec (ctx + 1) }

/-- One byte of main memory written under a context's key. -/
def State.writeByte (s : State) (ctx key : Nat) (b : Byte) : State :=
  let s := s.claimSector ctx key
  { s with mem := s.mem.write key b }

/-- Bytes written in place, with no rule but the key's. -/
def State.writeRaw (s : State) (ctx : Nat) : Nat → List Byte → State
  | _, [] => s
  | key, b :: bs => State.writeRaw (s.writeByte ctx key b) ctx (key + 1) bs

/-! ### Queue control blocks, the error log and cancel words -/

/-- A field of a queue's control block, by byte offset and length (R261). -/
def State.cbRead (s : State) (q : Queue) (off n : Nat) : Nat := s.readNum (s.under q.ctx q.key) (q.key + off) n
def State.cbWrite (s : State) (q : Queue) (off n v : Nat) : State := s.writeRaw (s.under q.ctx q.key) (q.key + off) (toBytes n v)

def State.qTail (s : State) (q : Queue) : Nat := s.cbRead q 16 8
def State.qRead (s : State) (q : Queue) : Nat := s.cbRead q 24 8
/-- STATE: 0 IDLE, 1 ACTIVE, 2 STALLED, 3 ERROR (R261). -/
def State.qState (s : State) (q : Queue) : Nat := s.cbRead q 32 1 % 16

/-- An error-log entry (R439): nothing is written while LOGSET has set no log. -/
def State.logEntry (s : State) (kind event ctx facet port : Nat) (addr pc ref : Nat) : State :=
  let h := s.host
  if h.logSize = 0 then s
  else
    let n := h.logTail
    let phase := 1 - n / h.logSize % 2
    let w := phase + kind * 2 ^ 8 + port * 2 ^ 16 + facet * 2 ^ 26 + ctx * 2 ^ 32 + event * 2 ^ 48
      + ref % 2 ^ 64 * 2 ^ 64 + pc * 2 ^ 128 + addr * 2 ^ 192
    let s := s.writeRaw 0 (hostKey (h.logBase.toNat + 32 * (n % h.logSize))) (toBytes 32 w)
    { s with host := { h with logTail := n + 1, lognew := true }, irqs := s.irqs ++ [h.logVec] }

/-- A queue whose packet is left unconsumed: a launch of it that awaits admission is abandoned, and the packet is read anew
(R264, R265, R267, R271). -/
def State.abandon (s : State) (q : Queue) : State :=
  let s := match q.stage with
    | .presented l => { s with launches := s.launches.filter (fun x => x.id ≠ l) }
    | _ => s
  s.setQueue { q with stage := .idle, held := none }

/-- A queue enters ERROR: ERR, ERR_INDEX, and the host is told (R264, R441). -/
def State.queueError (s : State) (q : Queue) (err : Nat) : State :=
  let rd := s.qRead q
  let s := ((s.cbWrite q 32 1 3).cbWrite q 33 1 err).cbWrite q 40 8 rd
  let s := s.abandon q
  let s := { s with host := { s.host with qerr := true } }
  let f := q.slot.elim (homeFacet q.key) (fun x => x.1)
  s.logEntry 2 err q.ctx f 0xFF q.va.toNat 0 (s.facet f).ref.toNat

/-- Whether two ranges of keys meet. -/
def meets (a n b m : Nat) : Bool := a < b + m && b < a + n

/-- The TAIL rule of R262 for one queue and one write that has been held off its TAIL word: the word changes only if all
eight of its bytes are written and the value is larger, and an overrun is found then (R264). -/
def State.tailRule (s : State) (key : Nat) (bytes : List Byte) (q : Queue) : State :=
  let t := q.key + 16
  if !meets key bytes.length t 8 then s
  else if key ≤ t && t + 8 ≤ key + bytes.length then
    let v := ofBytes ((bytes.drop (t - key)).take 8)
    if v ≤ s.qTail q then s
    else
      let s := (s.cbWrite q 16 8 v).setQueue { q with tails := q.tails ++ [(v, s.edges)] }
      if s.qState q ≠ 3 && s.qRead q + 2 ^ q.log2size < v then s.queueError ((s.queue? q.id).getD q) 0x07 else s
  else s

/-- A launch is cancelled when its cancel word becomes nonzero; the cancel bits of the facets follow (R290). -/
def State.cancelRule (s : State) (key n : Nat) : State :=
  { s with launches := s.launches.map (fun l =>
      if l.cancelKey.any (fun k => meets key n k 8 && s.readNum (s.under l.ctx k) k 8 ≠ 0) && !l.cancel
      then { l with cancel := true, cancelAt := s.edges } else l) }

/-- The bytes of a context descriptor with a STATE: 0 free, 1 live, 2 ending (R391). -/
def descRecord (c : CtxDesc) (state : Nat) : List Byte :=
  toBytes 64 (c.nspace.toNat * 2 ^ 224 + c.num * 2 ^ 208 + c.kslot * 2 ^ 198 + c.pbase * 2 ^ 192 + c.plog2 * 2 ^ 189
    + c.root * 2 ^ 144 + state)

/-- A context descriptor as its 64 bytes stand; none where its STATE is free. A STATE of 3 is never written (R391). -/
def State.readDesc (s : State) (c : CtxDesc) : Option CtxDesc :=
  let x := s.readNum 0 c.area 64
  let at_ := fun (lo n : Nat) => x / 2 ^ lo % 2 ^ n
  match at_ 0 2 with
  | 0 => none
  | 3 => some c
  | st => some { num := at_ 208 16, nspace := BitVec.ofNat 32 (at_ 224 32), kslot := at_ 198 10, pbase := at_ 192 6, plog2 := at_ 189 3,
                 root := at_ 144 40, ending := st = 2, area := c.area }

/-- The descriptors that a write has changed, as the device reads them from then on (R391, assumption 82). -/
def State.descRule (s : State) (key n : Nat) : State :=
  { s with ctxs := s.ctxs.filterMap (fun c => if meets key n c.area 64 then s.readDesc c else some c) }

/-- The contexts that run code: those of admitted launches and of groups that have not left. -/
def State.running (s : State) : List Nat :=
  distinct ((s.launches.filter (fun l => l.stat = .accepted)).map Launch.ctx ++ (s.groups.filter (fun g => g.stat ≠ .exited)).map Group.ctx)

/-- What instruction caches may still hold of bytes that are about to be written (R48). -/
def State.keepOld (s : State) (key n : Nat) : State :=
  let ctxs := s.running
  if ctxs.isEmpty || n = 0 then s
  else { s with icache := ⟨key, (List.range n).map (fun i => (s.markOf (key + i), s.mem.read (key + i))), ctxs, s.tick, none⟩ :: s.icache }

/-- A line of an L2 without the errors of the words that a write of `n` bytes replaces whole (R203). -/
def L2Line.cleared (l : L2Line) (key n : Nat) : L2Line :=
  { l with bad := l.bad.filter (fun i => !(key ≤ l.sector * 64 + 8 * i && l.sector * 64 + 8 * i + 8 ≤ key + n)) }

/-- The units of `unit` bytes that a write of `n` bytes consists of: key and length of each. -/
def unitsOf (key n unit : Nat) : List (Nat × Nat) :=
  if unit = 0 || n ≤ unit then [(key, n)]
  else (List.range ((key + n - 1) / unit - key / unit + 1)).map (fun i =>
    let a := max key ((key / unit + i) * unit)
    (a, min (key + n) ((key / unit + i + 1) * unit) - a))

/-- What the fetchers hold of packets that a write has changed: each unit of it is noted (R239, R448). `old` is the state before. -/
def State.noteUnits (s old : State) (key n unit : Nat) : State :=
  { s with queues := s.queues.map (fun q => { q with held := q.held.map (fun h =>
    if !meets key n h.key 64 then h
    else
      let o := s.under q.ctx h.key
      let new := (unitsOf key n unit).filterMap (fun (a, m) =>
        let lo := max a h.key
        let len := min (a + m) (h.key + 64) - lo
        if meets a m h.key 64 && s.readNum o lo len ≠ old.readNum o lo len then some ⟨lo - h.key, len, s.readNum o lo len⟩ else none)
      { h with upon := h.upon ++ new }) }) }

/-- A write to main memory, performed at its home agent: every write, by any agent, takes this path (R41, R262, R290, R391). A write of
a whole sector of HBM, or a whole word of an L2, replaces an uncorrectable error (R203). `unit` is the bytes of a single-copy-atomic unit
of it (R239). -/
def State.applyMain (s : State) (ctx key : Nat) (bytes : List Byte) (unit : Nat := 64) : State :=
  let old := s
  let s := s.keepOld key bytes.length
  let tails := s.queues.filter (fun q => meets key bytes.length (q.key + 16) 8)
  let s := (List.range bytes.length).foldl (fun s i =>
    if tails.any (fun q => q.key + 16 ≤ key + i && key + i < q.key + 24) then s
    else s.writeByte ctx (key + i) (bytes.getD i 0)) s
  let s := tails.foldl (fun s q => s.tailRule key bytes q) s
  let s := { s with
    bad := s.bad.filter (fun sec => !(key ≤ sec * 64 && sec * 64 + 64 ≤ key + bytes.length))
    l2 := s.l2.map (fun (l : L2Line) => l.cleared key bytes.length) }
  ((s.noteUnits old key bytes.length unit).cancelRule key bytes.length).descRule key bytes.length

/-- The L2 copies that a test names given up, the current bytes written back: an error in them goes with them to HBM (R186, R203). -/
def State.dropLines (s : State) (t : L2Line → Bool) : State :=
  { s with
    l2 := s.l2.filter (fun l => !t l)
    bad := s.bad ++ ((s.l2.filter (fun l => t l && (l.st = .m || l.st = .o) && !l.bad.isEmpty)).map L2Line.sector) }

/-- Every L2 copy of the sectors of a range given up (R186, R187). -/
def State.recallRange (s : State) (key n : Nat) : State :=
  s.dropLines (fun l => key / 64 ≤ l.sector && l.sector ≤ (key + n - 1) / 64)

/-- Host copies of the sectors of a range taken back before a device access (R259). -/
def State.backInvalidate (s : State) (key n : Nat) : State :=
  { s with hostHeld := s.hostHeld.filter (fun sec => !(key / 64 ≤ sec && sec ≤ (key + n - 1) / 64)) }

/-- A write by a device that keeps no copy: it is performed at its home agent, and every L2 copy is given up (R186). -/
def State.storeMain (s : State) (ctx key : Nat) (bytes : List Byte) (unit : Nat := 64) : State :=
  ((s.backInvalidate key (max 1 bytes.length)).recallRange key (max 1 bytes.length)).applyMain ctx key bytes unit

/-! ### L2 and home counters -/

/-- The requests that a page of a class counts before it moves (R197). -/
def migThreshold : Nat → Nat
  | 0 => 64
  | 1 => 512
  | 2 => 4096
  | _ => 32768

/-- A request for a migrate-mode page that arrives at its home from another facet: the counter of the page whose first 4 KiB is `page`
counts it, and the facet that takes it past a threshold is kept (R197). -/
def State.countMig (s : State) (facet mode page key : Nat) : State :=
  if mode = 2 && isLocal key && homeFacet key ≠ facet then
    let n := min 0xFFFF (look 0 s.migCount page + 1)
    let s := { s with migCount := put 0 s.migCount page n }
    match [0, 1, 2, 3].find? (fun c => n = migThreshold c + 1) with
    | some c => { s with migPass := if look 0 s.migPass (page * 4 + c) = 0 then put 0 s.migPass (page * 4 + c) (facet + 1) else s.migPass }
    | none => s
  else s

/-- The set of a facet's L2 that holds a sector (R185, assumption 61). -/
def l2Set (sec : Nat) : Nat := sec / 4 % 2048

/-- A way for a sector's line in its set: where sixteen other lines of the facet stand there, one of them is given up; which is free
(R185, assumptions 2 and 61). -/
def State.makeWay (s : State) (facet sec : Nat) : State :=
  let lines := distinct ((s.l2.filter (fun l => l.facet = facet && l2Set l.sector = l2Set sec)).map (fun l => l.sector / 4))
  if lines.contains (sec / 4) || lines.length < 16 then s
  else
    let victim := lines.getD ((Config.freeWord s.tick (0x20000 + facet)).toNat % lines.length) 0
    s.dropLines (fun l => l.facet = facet && l.sector / 4 = victim)

/-- An entry of a directory slice's snoop filter for a sector of its stack: where all 1,048,576 are taken, a sector loses its entry
and its copies; which is free (R187, assumption 2). -/
def State.makeEntry (s : State) (sec : Nat) : State :=
  let die := homeFacet (sec * 64) / 4
  let held := (s.l2.filter (fun l => isLocal (l.sector * 64) && homeFacet (l.sector * 64) / 4 = die)).map L2Line.sector
  if !isLocal (sec * 64) || held.length < 1048576 then s
  else
    let held := distinct held
    if held.contains sec || held.length < 1048576 then s
    else
      let victim := held.getD ((Config.freeWord s.tick (0x30000 + die)).toNat % held.length) 0
      s.dropLines (fun l => l.sector = victim)

/-- One request of a context on a facet for the sector that holds a key, under an access mode; `page` is the first 4 KiB of its page. The home
counter counts it unless the facet's own copy serves it. In direct fabric mode nothing is cached, and a write leaves no copy; in the
others the sector enters the facet's L2 (R186, R196, R197), and an error of the facet's own copy, or of the one with the current bytes,
stays in it (R203). -/
def State.touch (s : State) (facet ctx mode page key : Nat) (write : Bool) : State :=
  let sec := key / 64
  let s := s.backInvalidate key 1
  let mine := s.l2.find? (fun l => l.sector = sec && l.facet = facet)
  if mode = 1 then (if write then s.recallRange key 1 else s)
  else
    let serves : Bool := match mine with
      | some l => !write || l.st = .m || l.st = .e
      | none => false
    let s := if serves then s else s.countMig facet mode page key
    let s := if mine.isNone then ((s.count facet ctx 4 1).makeEntry sec).makeWay facet sec else s
    let others := s.l2.filter (fun l => l.sector = sec && l.facet ≠ facet)
    let rest := s.l2.filter (fun l => l.sector ≠ sec)
    let bad := distinct ((s.l2.filter (fun l => l.sector = sec && (l.facet = facet || l.st = .m || l.st = .o))).flatMap L2Line.bad)
    if write then { s with l2 := ⟨facet, sec, .m, [], bad⟩ :: rest }
    else
      match mine with
      | some _ => s
      | none =>
        if 2 ^ 50 ≤ key then
          { s with l2 := ⟨facet, sec, .s, (List.range 64).map (fun i => s.mem.read (sec * 64 + i)), []⟩ :: s.l2 }
        else
          let shared := others.map (fun l => { l with st := match l.st with
            | .m => .o
            | .o => .o
            | _ => .s })
          { s with l2 := ⟨facet, sec, if others.isEmpty then .e else .s, [], bad⟩ :: (shared ++ rest) }

/-- A byte of main memory as a facet reads it: one of a peer's page that its L2 holds is read as it was cached or as it stands, whole
units of `n` bytes alike (R196, R239, R260, assumption 2). -/
def State.readVia (s : State) (facet mode owner key n : Nat) : Byte :=
  let now := s.readByte owner key
  if key < 2 ^ 50 || mode ≠ 0 then now
  else
    match s.l2.find? (fun l => l.sector = key / 64 && l.facet = facet) with
    | none => now
    | some l =>
      let old := l.data.getD (key % 64) now
      if old = now then now else if Config.freeBit s.tick 3 (key / max 1 n) then old else now

/-! ### Translation -/

/-- Whether a facet belongs to a context's partition (R388, R391). -/
def ctxOwns (c : CtxDesc) (facet : Nat) : Bool := c.pbase ≤ facet && facet < c.pbase + 2 ^ c.plog2

/-- What an access is, for the checks of R195. -/
inductive Access where
  | read | write | fetch
  deriving DecidableEq, Repr

/-- A translation, or the status of R209 it fails with; 0xFC stands for the fetch fault, 0xFD for the key fault and 0xFE
for an uncorrectable data error. -/
abbrev Xlate := Except Byte Pin

/-- The 4 KiB pages that a leaf maps (R192). -/
def leafSpan (e level : Nat) : Nat := if level = 2 then 512 else if e.testBit 7 then 16 else 1

/-- Whether a valid leaf breaks R191. A 64 KiB leaf whose PFN is not aligned to its page does, so that the bits which R192 clears are
zero already (assumption 62). -/
def leafBad (s : State) (c : CtxDesc) (e : Nat) (level : Nat) : Bool :=
  let tgt := e / 2 ^ 60 % 4
  let peer := e / 2 ^ 50 % 1024
  let mode := e / 2 ^ 48 % 4
  let pfn := e / 2 ^ 12 % 2 ^ 36
  e % 128 ≠ 0 || (level = 2 && e.testBit 7) || tgt = 3 || mode = 3
    || (if tgt = 1 then peer = 0 else peer ≠ 0)
    || pfn % leafSpan e level ≠ 0
    || (mode = 2 && tgt ≠ 0)
    || (tgt = 0 && !(pfn < 2 ^ 28 && ctxOwns c (homeFacet (pfn * 4096)))
        && !((List.range (leafSpan e level)).all (fun i => s.lends.any (fun l => l.frame = (pfn + i) * 4096 && l.dest = c.num))))
    || (mode = 0 && tgt = 1 && e.testBit 9)
    || (mode = 0 && tgt = 2 && !s.host.cxl)

/-- Whether a valid entry that points to a table breaks R191. -/
def tableBad (c : CtxDesc) (e level : Nat) : Bool :=
  let pfn := e / 2 ^ 12 % 2 ^ 36
  e % 128 ≠ 0 || e / 2 ^ 7 % 32 ≠ 0 || e / 2 ^ 48 % 2 ^ 14 ≠ 0 || (level = 4 && pfn % 16 ≠ 0)
    || !(pfn < 2 ^ 28 && ctxOwns c (homeFacet (pfn * 4096)))

/-- The first virtual address bit a level indexes, and the number of bits (R189). -/
def levelBits : Nat → Nat × Nat
  | 4 => (43, 13)
  | 3 => (30, 13)
  | 2 => (21, 9)
  | _ => (12, 9)

/-- The page-table walk from a table (R189 to R195): the leaf that maps an address and its level. -/
def walk (s : State) (c : CtxDesc) (va : Nat) : Nat → Nat → Except Byte (Nat × Nat)
  | 0, _ => .error 0x13
  | level + 1, table =>
    let (lo, n) := levelBits (level + 1)
    let e := s.readNum c.num (table + 8 * (va / 2 ^ lo % 2 ^ n)) 8
    if s.bad.contains ((table + 8 * (va / 2 ^ lo % 2 ^ n)) / 64) then .error 0xFE
    else if !e.testBit 63 then .error 0x10
    else if e.testBit 62 then
      if 3 ≤ level + 1 || leafBad s c e (level + 1) then .error 0x13 else .ok (e, level + 1)
    else if level = 0 || tableBad c e (level + 1) then .error 0x13
    else walk s c va level (e / 2 ^ 12 % 2 ^ 36 * 4096)

/-- The key of the 4 KiB that a leaf maps an address to (R192, R193). -/
def leafBase (va e level : Nat) : Nat :=
  let pfn := e / 2 ^ 12 % 2 ^ 36
  let pfn := if level = 2 then pfn + va / 4096 % 512
    else if e.testBit 7 then pfn / 16 * 16 + va / 4096 % 16 else pfn
  match e / 2 ^ 60 % 4 with
  | 1 => peerKey (e / 2 ^ 50 % 1024) (pfn * 4096)
  | 2 => hostKey (pfn * 4096)
  | _ => pfn * 4096

/-- Whether a translation of `span` pages that serves one page serves another. -/
def covers (span page page' : Nat) : Bool := page / span = page' / span

/-- The checks of R195 on a leaf, after its format. -/
def checkLeaf (s : State) (ctx va : Nat) (acc : Access) (e base span : Nat) : Xlate :=
  if acc = .write && !e.testBit 9 then .error 0x11
  else if acc = .fetch && !e.testBit 8 then .error 0xFC
  else if e / 2 ^ 60 % 4 = 1 && !(s.fabric.any (fun (p, _) => p = e / 2 ^ 50 % 1024)) then .error 0x14
  else .ok ⟨va / 4096, base, frameOwner s ctx base, e / 2 ^ 48 % 4, span⟩

/-- A cached leaf as it maps a page that it covers (R192): its entry, the key of the page and the pages it maps. -/
def TlbEntry.leafFor (t : TlbEntry) (page : Nat) : Nat × Nat × Nat :=
  (t.entry.toNat, t.base + 4096 * (page % t.span) - 4096 * (t.vpage % t.span), t.span)

/-- A leaf kept in a TLB, which gives up its oldest entry where it is full (R198). An entry that gives the same already stays. -/
def State.cacheLeaf (s : State) (facet core ctx page : Nat) (x : Nat × Nat × Nat) : State :=
  let mine := fun (t : TlbEntry) => t.facet = facet && t.core = core
  match s.tlb.find? (fun t => mine t && t.ctx = ctx && covers t.span t.vpage page) with
  | some t => if t.leafFor page = x then s else add mine
  | none => add mine
where
  add (mine : TlbEntry → Bool) : State :=
    let rest := s.tlb.filter (fun t => !(mine t && t.ctx = ctx && t.vpage = page))
    let room := if core = 9 then 8192 else 512
    let rest := if (rest.filter mine).length < room then rest
      else match (rest.filter mine).getLast? with
        | some t => rest.erase t
        | none => rest
    { s with tlb := ⟨facet, core, ctx, page, BitVec.ofNat 64 x.1, x.2.1, x.2.2⟩ :: rest }

/-- What a TLB's entry gives for a page in place of what lies behind it: where the two differ, which of them is used is free, since
the entry may have been given up (R198, assumption 2). -/
def throughTlb (tick tag page : Nat) (t : Option TlbEntry) (behind : Except Byte (Nat × Nat × Nat)) : Except Byte (Nat × Nat × Nat) :=
  match t with
  | none => behind
  | some t =>
    let old := t.leafFor page
    match behind with
    | .ok new => if new = old then behind else if Config.freeBit tick tag page then .ok old else behind
    | .error _ => if Config.freeBit tick tag page then .ok old else behind

/-- The translation of one address through the TLBs of a core and its facet, and the state with the TLBs after it (R180, R195, R198);
core 9 stands for a fetcher, which has the second-level TLB only. -/
def State.translate (s : State) (facet core ctx : Nat) (acc : Access) (va : Nat) : Xlate × State :=
  if 2 ^ 56 ≤ va then (.error 0x12, s)
  else if !s.keyBound ctx then (.error 0xFD, s)
  else
    match s.ctx? ctx with
    | none => (.error 0x10, s)
    | some c =>
      let page := va / 4096
      let hit := fun (u : Nat) => s.tlb.find? (fun t => t.facet = facet && t.core = u && t.ctx = ctx && covers t.span t.vpage page)
      let fresh := (walk s c va 4 c.root).map (fun (e, l) => (e, leafBase va e l, leafSpan e l))
      let second := throughTlb s.tick 4 page (hit 9) fresh
      let used := if core = 9 then second else throughTlb s.tick 1 page (hit core) second
      match used with
      | .error e => (.error e, s)
      | .ok (e, base, span) =>
        let x := (e, base, span)
        let first := core ≠ 9 && (hit core).any (fun t => t.leafFor page = x)
        let s := if first then s else s.cacheLeaf facet 9 ctx page x
        let s := if core = 9 then s else s.cacheLeaf facet core ctx page x
        (checkLeaf s ctx va acc e base span, s)

/-- The physical address of the table entry with an uncorrectable error that a walk meets (R203, R439), or the address itself. -/
def badEntry (s : State) (c : CtxDesc) (va : Nat) : Nat → Nat → Nat
  | 0, _ => va
  | level + 1, table =>
    let (lo, n) := levelBits (level + 1)
    let k := table + 8 * (va / 2 ^ lo % 2 ^ n)
    let e := s.readNum c.num k 8
    if s.bad.contains (k / 64) then k else badEntry s c va level (e / 2 ^ 12 % 2 ^ 36 * 4096)

/-- The translations of a list of addresses in order, stopping at the first that fails, with the address that failed
(R459): of an uncorrectable error in a table, the physical address of the entry (R439). -/
def State.translateAll (s : State) (facet core ctx : Nat) (acc : Access) : List Nat → List Pin →
    Except (Byte × Nat) (List Pin) × State
  | [], pins => (.ok pins, s)
  | va :: vas, pins =>
    if va < 2 ^ 56 && pins.any (fun p => p.vpage = va / 4096) then State.translateAll s facet core ctx acc vas pins
    else
      match s.translate facet core ctx acc va with
      | (.error e, s) => (.error (e, if e = 0xFE#8 then (s.ctx? ctx).elim va (fun c => badEntry s c va 4 c.root) else va), s)
      | (.ok p, s) => State.translateAll s facet core ctx acc vas (p :: pins)

/-- The key, owning context and mode of an address under pinned translations (R180). -/
def pinned (pins : List Pin) (va : Nat) : Option (Nat × Nat × Nat) :=
  (pins.find? (fun p => p.vpage = va / 4096)).map (fun p => (p.base + va % 4096, p.owner, p.mode))

/-- One byte read under pinned translations. -/
def State.loadPinned (s : State) (pins : List Pin) (va : Nat) : Byte :=
  match pinned pins va with
  | some (k, o, _) => s.readByte o k
  | none => unlistedByte

/-- `n` bytes read under pinned translations, as a number. -/
def State.loadPinnedNum (s : State) (pins : List Pin) (va n : Nat) : Nat :=
  ofBytes ((List.range n).map (fun i => s.loadPinned pins (va + i)))

/-- Whether a byte that a facet reads of main memory is in error: its sector in HBM, or its word in the facet's own copy or in the copy that
holds the current bytes (R186, R203). -/
def State.badByte (s : State) (facet k : Nat) : Bool :=
  s.bad.contains (k / 64)
    || s.l2.any (fun l => l.sector = k / 64 && l.bad.contains (k % 64 / 8) && (l.facet = facet || l.st = .m || l.st = .o))

/-- The key of the first byte in error among `n` bytes that a facet reads under pinned translations (R203). -/
def State.badPinned (s : State) (facet : Nat) (pins : List Pin) (va n : Nat) : Option Nat :=
  if s.bad.isEmpty && s.l2.all (fun l => l.bad.isEmpty) then none
  else ((List.range n).filterMap (fun i => (pinned pins (va + i)).map (fun x => x.1))).find? (s.badByte facet)

/-- The first 4 KiB of the page that a pinned translation of an address belongs to. -/
def pageOf (pins : List Pin) (va : Nat) : Nat :=
  ((pins.find? (fun p => p.vpage = va / 4096)).map (fun p => p.base / 4096 - p.vpage % p.span)).getD 0

/-- Bytes written under pinned translations, in one page: an access of a command never crosses a page but for bulk rows, which come
here in pieces. -/
def State.storePinned (s : State) (pins : List Pin) (va : Nat) (bytes : List Byte) (unit : Nat := 64) : State :=
  match pinned pins va with
  | some (k, o, _) => s.applyMain o k bytes unit
  | none => s

/-- One sector request of a context on a facet under pinned translations, before a read and after a write. -/
def State.touchPinned (s : State) (facet ctx : Nat) (pins : List Pin) (va : Nat) (write : Bool) : State :=
  match pinned pins va with
  | some (k, _, m) => s.touch facet ctx m (pageOf pins va) k write
  | none => s

/-! ### Instruction fetch -/

/-- What tells writes apart: the steps of one command are one write, and so is everything that another step writes. -/
def OldCode.write (r : OldCode) : Nat × Option (Nat × Nat × Nat × Nat) := (if r.cmd.isSome then 0 else r.tick, r.cmd)

/-- Whether a write is not complete: its command is not performed. -/
def State.writing (s : State) (x : Nat × Option (Nat × Nat × Nat × Nat)) : Bool :=
  x.2.any (fun (g, w, cls, seq) => s.groups.any (fun y => y.id = g && y.waves.any (fun z => z.id = w
    && z.cmds.any (fun c => c.cls = cls && c.seq = seq && (c.stage = .queued || c.stage = .waiting)))))

/-- What a command has written since an earlier state of it, marked as its write (R48). -/
def State.writtenBy (s : State) (before : State) (cmd : Nat × Nat × Nat × Nat) : State :=
  let n := s.icache.length - before.icache.length
  { s with icache := (s.icache.take n).map (fun r => { r with cmd := some cmd }) ++ s.icache.drop n }

/-- The part of a record from `a` on, `n` bytes at most. -/
def OldCode.part (r : OldCode) (a n : Nat) : List OldCode :=
  let lo := max r.key a
  let bs := (r.bytes.drop (lo - r.key)).take (a + n - lo)
  if bs.isEmpty then [] else [{ r with key := lo, bytes := bs }]

/-- A record but for the `n` bytes from `a` on. -/
def OldCode.without (r : OldCode) (a n : Nat) : List OldCode := r.part 0 a ++ r.part (a + n) (r.key + r.bytes.length)

/-- What instruction caches may still hold of a page, as it moves to a free frame: of that frame they hold nothing (R48, R197). -/
def State.moveCode (s : State) (old new size : Nat) : State :=
  { s with icache := (s.icache.flatMap (fun r => r.without new size)).flatMap (fun r =>
      (r.part old size).map (fun x => { x with key := x.key - old + new }) ++ r.without old size) }

/-- The records, newest first, without what a context's caches hold under the complete writes, and without what they hold under an
incomplete write of the bytes that a later complete one, `gone` among them, has changed (R48). -/
def State.dropRecords (s : State) (ctx : Nat) : List (Nat × Nat) → List OldCode → List OldCode
  | _, [] => []
  | gone, r :: rs =>
    let rest := { r with ctxs := r.ctxs.filter (· ≠ ctx) }
    if !r.ctxs.contains ctx then r :: State.dropRecords s ctx gone rs
    else if s.writing r.write then
      rest :: (gone.foldl (fun ps (a, n) => ps.flatMap (fun x => x.without a n)) [{ r with ctxs := [ctx] }]) ++ State.dropRecords s ctx gone rs
    else rest :: State.dropRecords s ctx ((r.key, r.bytes.length) :: gone) rs

/-- The instruction caches without what they hold of a context's code, so that its words are fetched as they stand; a write that is not
complete stays, but for the bytes that a complete one has written over it (R48). -/
def State.dropCode (s : State) (ctx : Nat) : State :=
  { s with icache := (s.dropRecords ctx [] s.icache).filter (fun r => !r.ctxs.isEmpty) }

/-- Whether a record covers a key. -/
def OldCode.covers (r : OldCode) (k : Nat) : Bool := r.key ≤ k && k < r.key + r.bytes.length

/-- The byte of a code word at a key, read by a context, as it stands where `b` does and the writes of the records, newest first, that
`out` names are left out: a write that is not left out hides what older ones did (R48, R348). -/
def State.oldByte (s : State) (ctx : Nat) (out : OldCode → Bool) (k : Nat) : List OldCode → Byte → Byte
  | [], b => b
  | r :: rs, b =>
    if !r.covers k then State.oldByte s ctx out k rs b
    else if out r then
      let x := r.bytes.getD (k - r.key) (0, 0)
      State.oldByte s ctx out k rs (plain (s.under ctx k) k x.1 x.2)
    else b

/-- A word as a context may fetch it: as it stands, or as it stood before some of the last complete writes to it, each write whole, and
without every write that is not complete. How many are left out is free (R48, assumption 2). -/
def State.wordOf (s : State) (ctx : Nat) (now : List (Nat × Byte)) : List (Nat × Byte) :=
  let mine := s.icache.filter (fun r => r.ctxs.contains ctx && now.any (fun x => r.covers x.1))
  let done := (distinct (mine.map OldCode.write)).filter (fun x => !s.writing x)
  let late := done.take ((Config.freeWord s.tick 0x204).toNat % (done.length + 1))
  now.map (fun (k, b) => (k, s.oldByte ctx (fun r => s.writing r.write || late.contains r.write) k mine b))

/-- What a fetch of a sector leaves in the caches and counters: the request to the L2 where the sector is asked of it, and nothing where
it stands in an instruction cache (R186, R197, R398). -/
def State.fetchSector (s : State) (facet ctx : Nat) (pins : List Pin) (va : Nat) (asked : Bool) : State :=
  let t := s.touchPinned facet ctx pins va false
  { s with
    l2 := if asked then t.l2 else s.l2
    hostHeld := if asked then t.hostHeld else s.hostHeld
    migCount := if asked then t.migCount else s.migCount
    migPass := if asked then t.migPass else s.migPass
    facets := List.zipWith (fun (f x : Facet) => { f with
      bank := { f.bank with counters := if asked then x.bank.counters else f.bank.counters } }) s.facets t.facets }

/-- The word at a PC, or the status and address its pages fail with (R47, R48, R459). Whether a sector of it is asked of the L2 or stands in
an instruction cache is free (R398, assumption 2). -/
def State.fetch (s : State) (facet core ctx : Nat) (pc : Nat) : Except (Byte × Nat) (BitVec 96) × State :=
  let second := (pc + 11) / 4096 * 4096
  let pages := if second ≤ pc then [pc] else [pc, second]
  match s.translateAll facet core ctx .fetch pages [] with
  | (.error e, s) => (.error e, s)
  | (.ok pins, s) =>
    match s.badPinned facet pins pc 12 with
    | some k => (.error (0xFE, k), s)
    | none =>
      let now := (List.range 12).map (fun i => ((pinned pins (pc + i)).elim 0 (fun (k, _, _) => k), s.loadPinned pins (pc + i)))
      let w := s.wordOf ctx now
      let fetched := (distinct [pc / 64, (pc + 11) / 64]).foldl (fun (t : State) sec =>
        t.fetchSector facet ctx pins (max pc (sec * 64)) (Config.freeBit s.tick 6 sec)) s
      (.ok (BitVec.ofNat 96 (ofBytes (w.map Prod.snd))), fetched)

end Sys2Proof.Machine
end

