-- ==== Sys2Proof/Machine/Regs.lean ====
section
/-! DEFINITION. The registers of a wave and a group: reads and writes under the rule of unchecked runs, and who issues. -/

namespace Sys2Proof.Machine

open Sys2Proof

/-! ### Unchecked runs (R56) -/

/-- A number for one lane of one register, for the choices of R56. -/
def regKey (space index lane : Nat) : Nat := (space * 1024 + index) * 64 + lane

/-- What a read of a register returns within a run: the value it holds, or one that it held before an earlier write of the same
run (R56). `slot` tells the operands of one instruction apart. -/
def freshRead (tick slot space index lane : Nat) (fresh : List Fresh) (now : Word) : Word :=
  fresh.foldl (fun x r =>
    if r.space = space && r.index = index && r.lanes.getLsbD lane then
      let old := look 0 r.old lane
      if old = x then x
      else if Config.freeBit tick (100 + slot) (regKey space index lane * 2 ^ 32 + old.toNat) then old else x
    else x) now

/-- What a register holds after a write: the value written, or, where an earlier instruction of the run wrote it too, one of the
two values written (R56). -/
def freshWrite (tick space index lane : Nat) (fresh : List Fresh) (now new : Word) : Word :=
  if fresh.any (fun r => r.space = space && r.index = index && r.lanes.getLsbD lane) then
    if now = new then new else if Config.freeBit tick 99 (regKey space index lane) then now else new
  else new

/-- The values that the lanes of a mask had, as a sparse list. -/
def oldValues (m : Mask) (val : Nat → Word) : SMap Word :=
  (lanesOf m).filterMap (fun l => if val l = 0 then none else some (l, val l))

/-! ### Reads -/

def Wave.v? (w : Wave) (reg lane : Nat) : Word := look 0 w.v (reg * 64 + lane)
def Wave.s? (w : Wave) (reg : Nat) : Word := look 0 w.s reg
/-- A predicate register; p7 reads as 1 in every lane (R32). -/
def Wave.p? (w : Wave) (reg : Nat) : Mask := if reg = 7 then BitVec.allOnes 64 else look 0 w.p reg
def Wave.h? (w : Wave) (reg : Nat) : HVal := look .null w.h reg
def Wave.m? (w : Wave) (reg : Nat) : DWord := look 0 w.m reg
def Group.g? (g : Group) (reg : Nat) : Word := look 0 g.g reg
/-- A g register as an instruction reads it: as it stood at the start of the core clock (R33, R256). -/
def Group.gRead (g : Group) (reg : Nat) : Word := look 0 g.gPrev reg

/-- An element of a v register as an instruction of the run reads it. -/
def Wave.readV (w : Wave) (tick slot reg lane : Nat) : Word := freshRead tick slot 0 reg lane w.fresh (w.v? reg lane)
/-- An s register as an instruction of the run reads it. All lanes are supplied with one value, the old or the new (R50, R56,
assumption 64). -/
def Wave.readS (w : Wave) (tick slot reg : Nat) : Word := freshRead tick slot 1 reg 0 w.fresh (w.s? reg)
/-- One lane of a predicate as an instruction of the run reads it. -/
def Wave.readP (w : Wave) (tick slot reg lane : Nat) : Bool :=
  if reg = 7 then true
  else freshRead tick slot 2 reg lane w.fresh (if (w.p? reg).getLsbD lane then 1 else 0) = 1

/-- A predicate over all lanes. -/
def Wave.readMask (w : Wave) (tick slot reg : Nat) : Mask := maskWhere (fun l => w.readP tick slot reg l)

/-! ### Writes -/

/-- A store of v registers with the lanes of a mask written. -/
def putLanes (m : SMap Word) (reg : Nat) (val : Nat → Word) : List Nat → SMap Word
  | [] => m
  | l :: ls => putLanes (put 0 m (reg * 64 + l) (val l)) reg val ls

/-- A v register written in the lanes of a mask. -/
def Wave.writeV (w : Wave) (tick reg : Nat) (m : Mask) (val : Nat → Word) : Wave :=
  let new := fun l => freshWrite tick 0 reg l w.fresh (w.v? reg l) (val l)
  { w with v := putLanes w.v reg new (lanesOf m), fresh := ⟨0, reg, m, oldValues m (w.v? reg)⟩ :: w.fresh }

/-- An s register written. -/
def Wave.writeS (w : Wave) (tick reg : Nat) (x : Word) : Wave :=
  { w with s := put 0 w.s reg (freshWrite tick 1 reg 0 w.fresh (w.s? reg) x),
           fresh := ⟨1, reg, 1, oldValues 1 (fun _ => w.s? reg)⟩ :: w.fresh }

/-- A predicate written in the lanes of a mask; writes to p7 are discarded (R32). -/
def Wave.writeP (w : Wave) (tick reg : Nat) (m : Mask) (val : Nat → Bool) : Wave :=
  if reg = 7 then w
  else
    let old := w.p? reg
    let asWord := fun (b : Bool) => if b then (1 : Word) else 0
    let new := maskWhere (fun l =>
      if m.getLsbD l then freshWrite tick 2 reg l w.fresh (asWord (old.getLsbD l)) (asWord (val l)) = 1
      else old.getLsbD l)
    { w with p := put 0 w.p reg new, fresh := ⟨2, reg, m, oldValues m (fun l => asWord (old.getLsbD l))⟩ :: w.fresh }

/-- A v register written with no rule of unchecked runs: a command's result, written when it completes (R57). -/
def Wave.setV (w : Wave) (reg : Nat) (m : Mask) (val : Nat → Word) : Wave :=
  { w with v := putLanes w.v reg val (lanesOf m) }
def Wave.setS (w : Wave) (reg : Nat) (x : Word) : Wave := { w with s := put 0 w.s reg x }
def Wave.setP (w : Wave) (reg : Nat) (m : Mask) (val : Nat → Bool) : Wave :=
  if reg = 7 then w
  else { w with p := put 0 w.p reg (maskWhere (fun l => if m.getLsbD l then val l else (w.p? reg).getLsbD l)) }
def Wave.setH (w : Wave) (reg : Nat) (x : HVal) : Wave := { w with h := put .null w.h reg x }
def Wave.setM (w : Wave) (reg : Nat) (x : DWord) : Wave := { w with m := put 0 w.m reg x }
def Group.setG (g : Group) (reg : Nat) (x : Word) : Group := { g with g := put 0 g.g reg x }
/-- Whether a wave's write of a g register takes effect: no wave with a higher WAVE_ID has written it in the same core clock (R33). -/
def Group.mayG (g : Group) (wid reg : Nat) : Bool := look 0 g.gBy reg ≤ wid + 1
/-- A g register written by a wave (R33, R256). -/
def Group.writeG (g : Group) (wid reg : Nat) (x : Word) : Group :=
  if g.mayG wid reg then { g.setG reg x with gBy := put 0 g.gBy reg (wid + 1) } else g

/-- The group in a new core clock, which begins at a step and in which no wave has issued yet. -/
def Group.newClock (g : Group) (tick : Nat) : Group := { g with clock := [], clockAt := tick, gPrev := g.g, gBy := [] }


/-! ### Lanes -/

/-- The lanes that are present and have not exited. -/
def Wave.live (w : Wave) : Mask := w.present &&& ~~~w.exited

/-- Whether some lane of the wave has not exited. -/
def Wave.alive (w : Wave) : Bool := w.live ≠ 0

/-- The number of the group's threads (R25). -/
def Group.threads (g : Group) : Nat := g.shape.1 * g.shape.2.1 * g.shape.2.2

/-- The present lanes of wave `w` of a group of `n` threads (R25). -/
def presentLanes (n w : Nat) : Mask := lowMask (n - 64 * w)

/-! ### Which path issues (R293, R294, R296, R409) -/

/-- Whether `p` comes before `q` in its frontier: higher priority, then lower PC (R293). -/
def Path.before (p q : Path) : Bool := q.prio.toNat < p.prio.toNat || (p.prio = q.prio && p.pc.toNat < q.pc.toNat)

/-- The best of a list of paths. -/
def bestPath : List Path → Option Path
  | [] => none
  | p :: ps =>
    match bestPath ps with
    | none => some p
    | some q => some (if q.before p then q else p)

/-- The ready paths of one frontier: none while its frame waits for the firmware core (R409). -/
def Wave.readyIn (w : Wave) (fr : Nat) : List Path :=
  if w.frames.any (fun f => f.id = fr && f.esc) then []
  else w.paths.filter (fun p => p.fr = fr && p.wait = .ready)

/-- The frontiers of a wave, the youngest first and the main frontier last (R409). -/
def Wave.frontiers (w : Wave) : List Nat := w.frames.map Frame.id ++ [0]

/-- Every ready path. -/
def Wave.readyPaths (w : Wave) : List Path := w.frontiers.flatMap (fun fr => w.readyIn fr)

/-- The choice of R409 and R293. -/
def Wave.natural (w : Wave) : Option Path := w.frontiers.findSome? (fun fr => bestPath (w.readyIn fr))

/-- The path that issues next: the one a park pins, the one a fairness run gives, else the choice of R409. -/
def Wave.choose (w : Wave) : Option Path :=
  let pinned := fun id => w.paths.find? (fun p => p.id = id)
  match w.held.bind pinned with
  | some p => some p
  | none =>
    match w.run.bind (fun (id, _) => w.readyPaths.find? (fun p => p.id = id)) with
    | some p => some p
    | none => w.natural

/-! ### The issuer -/

/-- What an instruction is issued with: its group, wave and path as they stand, its active lanes, and the state. -/
structure Ctx where
  st   : State
  grp  : Group
  wave : Wave
  path : Path
  act  : Mask
  form : Form

/-- The active lanes of a path under a guard (R15, R53). -/
def activeLanes (tick : Nat) (w : Wave) (p : Path) (g : Guard) : Mask :=
  p.mask &&& (if g.pred = 7#3 then (if g.neg then 0 else BitVec.allOnes 64)
    else
      let m := w.readMask tick 0 g.pred.toNat
      if g.neg then ~~~m else m)

/-- The group, wave and path set to issue, if they exist. -/
def State.issuer? (s : State) : Option (Group × Wave × Path) := do
  let (gi, wi) ← s.cur
  let g ← s.group? gi
  let w ← g.wave? wi
  let p ← w.choose
  pure (g, w, p)

/-- Whether the wave runs privileged code: it stands on the firmware core of a die, which quarter 0 of the die serves (R18, R414, R421). -/
def Ctx.firmware (c : Ctx) : Bool := c.wave.core = 8 && c.grp.facet % 4 = 0

/-- The launch of the issuing group. -/
def Ctx.launch? (c : Ctx) : Option Launch := c.grp.launch.bind c.st.launch?

/-- Whether the issuing group runs a task of a divisible launch. -/
def Ctx.divisible (c : Ctx) : Bool := c.grp.div

/-- The issuing wave changed in a state. -/
def Ctx.updWave (c : Ctx) (s : State) (f : Wave → Wave) : State := s.updWave c.grp.id c.wave.id f
def Ctx.updGroup (c : Ctx) (s : State) (f : Group → Group) : State := s.updGroup c.grp.id f

end Sys2Proof.Machine
end

