-- ==== Sys2Proof/Machine/Operands.lean ====
section
/-! DEFINITION. Every operand form: which operands are legal, what they read as, and how a result is written (R49 to R52, R97 to
R99, R118, R457), with the system registers (R38, R39, R416). -/

namespace Sys2Proof.Machine

open Sys2Proof

/-! ### System registers -/

/-- The width of a system register; none for an index in neither table (R38, R416). -/
def sysWidth (i : Nat) : Option Nat :=
  match i with
  | 0x000 | 0x001 | 0x002 | 0x003 | 0x004 | 0x005 | 0x006 | 0x007 | 0x008 => some 32
  | 0x010 | 0x011 | 0x012 | 0x013 => some 32
  | 0x018 => some 64
  | 0x020 | 0x021 | 0x022 | 0x023 | 0x028 | 0x029 => some 32
  | 0x030 | 0x033 | 0x034 | 0x035 | 0x036 => some 64
  | 0x031 | 0x032 | 0x037 => some 32
  | 0x100 | 0x101 => some 64
  | 0x102 => some 32
  | _ => none

/-- Whether a system register has one value per lane (R38). -/
def sysPerLane (i : Nat) : Bool := i = 0 || (3 ≤ i && i ≤ 6)

/-- Whether a read of a system register is legal for an operand width (R39). -/
def sysReadable (firmware : Bool) (i width : Nat) : Bool :=
  match sysWidth i with
  | none => false
  | some w => (width ≤ w || width < 64) && (i < 0x100 || firmware)

/-- The frame of a sub-wave. -/
def Wave.frame? (w : Wave) (fr : Nat) : Option Frame := w.frames.find? (fun f => f.id = fr)

/-- The depth of a sub-wave's frame: the number of frames from it down its parents to the main frontier, not its place in the stack that
all paths of the wave share (R416, assumption 93). -/
def Wave.depthFrom (w : Wave) : Nat → Nat → Nat
  | 0, _ => 0
  | k + 1, fr =>
    match w.frame? fr with
    | none => 0
    | some f => 1 + Wave.depthFrom w k f.parent

/-- ALLOT (R38). -/
def Group.allotWord (g : Group) : Nat :=
  g.cur.v + g.cur.s * 2 ^ 9 + g.cur.t * 2 ^ 18 + (if g.cur = g.full then 2 ^ 24 else 0)

/-- TRAP_CAUSE of a frame (R416). -/
def Frame.cause (f : Frame) : Nat :=
  f.code.toNat + f.status.toNat * 2 ^ 16 +
    (match f.cmd with
     | none => 0
     | some (cls, _) => cls * 2 ^ 26 + 2 ^ 29)

/-- The number of usable banks of a core (R35). -/
def Facet.banks (f : Facet) (core : Nat) : Nat := popCount 32 (f.vbanks.getD core (BitVec.allOnes 32)).toNat

/-- The handle word of an object (R330): facet, type, index and generation. -/
def objWord (facet type idx gen : Nat) : Word :=
  BitVec.ofNat 32 (facet % 64 * 2 ^ 26 + type % 8 * 2 ^ 23 + idx % 2 ^ 20 * 8 + gen % 8)

/-- The index of a die's escalation port in the object table of its quarter 0 (R414, assumption 8). -/
def escIndex : Nat := 0xFFF00

/-- The value of a system register for a lane of the issuing path (R38, R416). RESUME and PREEMPT are written only; no rule gives
what they read as (assumption 5). On a firmware core, CORE_ID reads 8 and the banks read as a whole core's (assumption 65). -/
def Ctx.sysValue (c : Ctx) (i lane : Nat) : Nat :=
  let g := c.grp
  let w := c.wave
  let t := 64 * w.id + lane
  let (x, y, z) := g.shape
  let fac := c.st.facet g.facet
  let fr := w.frame? c.path.fr
  match i with
  | 0x000 => lane
  | 0x001 => w.id
  | 0x002 => g.waves.length
  | 0x003 => t
  | 0x004 => t % x
  | 0x005 => t / x % y
  | 0x006 => t / (x * y)
  | 0x007 => (y - 1) + (x - 1) * 2 ^ 13
  | 0x008 => z - 1
  | 0x010 => w.core
  | 0x011 => g.facet
  | 0x012 => g.facet / 4
  | 0x013 => c.st.peerId
  | 0x018 => fac.ref.toNat
  | 0x020 => fac.banks w.core * 64 + fac.banks w.core * 2 ^ 16
  | 0x021 => (fac.vbanks.getD w.core (BitVec.allOnes 32)).toNat
  | 0x022 => popCount 8 fac.cores.toNat
  | 0x023 => fac.spadUnits
  | 0x028 => g.allotWord
  | 0x029 => g.cur.sh / 256
  | 0x030 => w.trapVec.toNat
  | 0x031 => w.depthFrom 4 c.path.fr
  | 0x032 => fr.elim 0 Frame.cause
  | 0x033 => fr.elim 0 (fun f => f.pc.toNat)
  | 0x034 => fr.elim 0 (fun f => f.rpc.toNat)
  | 0x035 => fr.elim 0 (fun f => f.info.toNat)
  | 0x036 => fr.elim 0 (fun f => f.mask.toNat)
  | 0x037 => fr.elim 0 (fun f => f.prio.toNat)
  | 0x102 => (objWord (g.facet / 4 * 4) 2 escIndex 0).toNat
  | _ => (Config.freeWord c.st.tick i).toNat

/-! ### Which operands are legal -/

/-- What an operand may be: the spaces, whether it holds 64 bits, and the length and alignment of a block. `sys` is 0 for no
system register, 1 for one that is read as one value per wave or wider, 2 for any that is read, 3 for any that is named to be written. -/
structure Allow where
  v    : Bool := false
  s    : Bool := false
  g    : Bool := false
  p    : Bool := false
  h    : Bool := false
  m    : Bool := false
  a    : Bool := false
  imm  : Bool := false
  long : Bool := false
  sys  : Nat := 0
  none : Bool := false
  wide : Bool := false
  size : Nat := 1
  even : Bool := false

/-- The destination of R97. -/
def Allow.dst (wide : Bool) : Allow := { v := true, s := true, g := true, none := true, wide := wide }
/-- A destination that may not be none. -/
def Allow.reg (wide : Bool) : Allow := { v := true, s := true, g := true, wide := wide }
/-- A value source of R97. -/
def Allow.src (wide : Bool) : Allow :=
  { v := true, s := true, g := true, imm := true, long := true, sys := 2, wide := wide }
/-- A uniform operand of R118. -/
def Allow.uni (wide : Bool) : Allow := { s := true, g := true, imm := true, long := true, sys := 1, wide := wide }
/-- A uniform pair: an s pair or a g pair (R299). -/
def Allow.pair : Allow := { s := true, g := true, wide := true }
def Allow.pred : Allow := { p := true }
def Allow.vreg (wide : Bool) : Allow := { v := true, wide := wide }
def Allow.vblock (n : Nat) (even : Bool) : Allow := { v := true, size := n, even := even }
def Allow.sblock (n : Nat) (even : Bool) : Allow := { s := true, size := n, even := even }
def Allow.handle : Allow := { h := true }
def Allow.tile : Allow := { a := true }
/-- A field that the instruction's form does not use. -/
def Allow.unused : Allow := { none := true }
def Allow.orNone (a : Allow) : Allow := { a with none := true }

/-- Whether an operand is one that an instruction allows, within the allotments (R30, R39, R49). `long` says whether IMM can
hold a long immediate here (R51). -/
def legalOperand (firmware : Bool) (cur : Allot) (long : Bool) (a : Allow) (o : Operand) : Bool :=
  let n := if a.wide then 2 else a.size
  let ok := fun (i limit : Nat) => (!(a.wide || a.even) || i % 2 = 0) && i + n ≤ limit
  match o with
  | .v i => a.v && ok i (min cur.v 256)
  | .s i => a.s && ok i (min cur.s 384)
  | .g i => a.g && ok i 16
  | .p i => a.p && i < 8
  | .h i => a.h && i < 16
  | .m i => a.m && i < 8
  | .a i => a.a && i < min cur.t 32
  | .imm _ => a.imm
  | .long => a.long && long
  | .none => a.none
  | .sys i => a.sys = 3 || a.sys ≠ 0 && sysReadable firmware i.toNat (if a.wide then 64 else 32) && (a.sys = 2 || !sysPerLane i.toNat)
  | .bad _ => false

/-! ### What an operand reads as -/

/-- A short immediate under a type (R51). -/
def shortImm (t : Ty) (k : BitVec 9) : Nat :=
  let x := sx k.toNat 9
  match t with
  | .f32 | .f16 | .bf16 | .f8e5 => roundF (FVal.ofInt x |> fun y => if x = 0 then .fin false 0 0 else y) (fmtOf t) .rn false
  | .f8e4 => roundF (if x = 0 then .fin false 0 0 else FVal.ofInt x) .f8e4 .rn true
  | _ => wrapInt x (tyWidth t)

/-- A long immediate under a type (R51). -/
def longImm (t : Ty) (imm : BitVec 32) : Nat :=
  match t with
  | .b64 | .s64 => wrapInt (sx imm.toNat 32) 64
  | .n64 | .b32 | .s32 | .n32 | .f32 | .slot => imm.toNat
  | _ => imm.toNat % 2 ^ tyWidth t

/-- Two 32-bit halves as one 64-bit value. -/
def pairOf (lo hi : Word) : Nat := lo.toNat + hi.toNat * 2 ^ 32

/-- The value of a source for a lane, as a bit pattern of the type's width; `slot` tells the operands of one instruction apart
(R50, R51, R56). A none operand reads zero (R49). -/
def Ctx.read (c : Ctx) (slot : Nat) (t : Ty) (o : Operand) (lane : Nat) : Nat :=
  let tick := c.st.tick
  let wide := tyWidth t = 64
  match o with
  | .v i =>
    let lo := c.wave.readV tick slot i lane
    if wide then pairOf lo (c.wave.readV tick slot (i + 1) lane) else lo.toNat % 2 ^ tyWidth t
  | .s i =>
    let lo := c.wave.readS tick slot i
    if wide then pairOf lo (c.wave.readS tick slot (i + 1)) else lo.toNat % 2 ^ tyWidth t
  | .g i =>
    let lo := c.grp.gRead i
    if wide then pairOf lo (c.grp.gRead (i + 1)) else lo.toNat % 2 ^ tyWidth t
  | .p i => if c.wave.readP tick slot i lane then 1 else 0
  | .imm k => shortImm t k
  | .long => longImm t c.form.imm
  | .sys i => c.sysValue i.toNat lane % 2 ^ tyWidth t
  | _ => 0

/-- A source read by sx or zx of its type (R98). -/
def Ctx.readInt (c : Ctx) (slot : Nat) (t : Ty) (o : Operand) (lane : Nat) : Int := asInt t (c.read slot t o lane)

/-- A uniform operand: the value every lane is supplied with. -/
def Ctx.uniform (c : Ctx) (slot : Nat) (t : Ty) (o : Operand) : Nat := c.read slot t o 0

/-- The element of a v register of a lane that need not be active (R119). -/
def Ctx.lane (c : Ctx) (slot : Nat) (wide : Bool) (reg lane : Nat) : Nat :=
  let lo := c.wave.readV c.st.tick slot reg lane
  if wide then pairOf lo (c.wave.readV c.st.tick slot (reg + 1) lane) else lo.toNat

/-- The number of a v register; 0 for another operand. -/
def vIndex : Operand → Nat
  | .v n => n
  | _ => 0

/-- The number of an s register; 0 for another operand. -/
def sIndex : Operand → Nat
  | .s n => n
  | _ => 0

/-- The number of an h register, an m register or a tile; 0 for another operand. -/
def hIndex : Operand → Nat
  | .h n => n
  | _ => 0
def mIndex : Operand → Nat
  | .m n => n
  | _ => 0
def aIndex : Operand → Nat
  | .a n => n
  | _ => 0

/-! ### Writing a result -/

def word (x : Nat) : Word := BitVec.ofNat 32 x

/-- `d[l] := x` for each active lane (R99). An s or g register takes the value of the highest-numbered active lane (R32), and a
none operand discards the write. -/
def Ctx.write (c : Ctx) (s : State) (o : Operand) (wide : Bool) (val : Nat → Nat) : State :=
  let tick := c.st.tick
  let hi := fun l => word (val l / 2 ^ 32)
  match o with
  | .v i =>
    c.updWave s (fun w =>
      let w := w.writeV tick i c.act (fun l => word (val l))
      if wide then w.writeV tick (i + 1) c.act hi else w)
  | .s i =>
    match topLane c.act with
    | none => s
    | some l => c.updWave s (fun w =>
        let w := w.writeS tick i (word (val l))
        if wide then w.writeS tick (i + 1) (hi l) else w)
  | .g i =>
    match topLane c.act with
    | none => s
    | some l => c.updGroup s (fun g =>
        let g := g.writeG c.wave.id i (word (val l))
        if wide then g.writeG c.wave.id (i + 1) (hi l) else g)
  | .p i => c.updWave s (fun w => w.writeP tick i c.act (fun l => val l % 2 = 1))
  | _ => s

/-- A narrow integer result extended to 32 bits (R98). -/
def extend (t : Ty) (x : Nat) : Nat :=
  if tyWidth t = 64 then x % 2 ^ 64 else wrapInt (asInt t x) 32

/-- A result of an instruction's type written to D. -/
def Ctx.writeTy (c : Ctx) (s : State) (val : Nat → Nat) : State :=
  c.write s c.form.d (tyWidth c.form.ty = 64) val

/-- The results of a command written to a register at its completion, for the lanes it names (R57). A destination other than v
takes the value of its highest-numbered lane. -/
def Wave.deliver (w : Wave) (o : Operand) (wide : Bool) (m : Mask) (val : Nat → Nat) : Wave :=
  let hi := fun l => word (val l / 2 ^ 32)
  match o with
  | .v i =>
    let w := w.setV i m (fun l => word (val l))
    if wide then w.setV (i + 1) m hi else w
  | .s i =>
    match topLane m with
    | none => w
    | some l =>
      let w := w.setS i (word (val l))
      if wide then w.setS (i + 1) (hi l) else w
  | .p i => w.setP i m (fun l => val l % 2 = 1)
  | _ => w

end Sys2Proof.Machine
end

