-- ==== Sys2Proof/Machine/Group.lean ====
section
/-! DEFINITION. How a task, a free wave and a launch end: abort, split, faults and the return of what a group held; writes to local
storage, whole or landing; the core clock of a facet and what enters in one. -/

namespace Sys2Proof.Machine

open Sys2Proof

/-! ### Codes of R406 -/

def codeTrap : Code := 0x0001#16
def codePage : Code := 0x0002#16
def codeExpired : Code := 0x0003#16
def codeCancel : Code := 0x0004#16
def codeInstr : Code := 0x0010#16
def codeOperand : Code := 0x0011#16
def codeFetch : Code := 0x0012#16
def codeAlign : Code := 0x0013#16
def codeSpad : Code := 0x0014#16
def codeSpill : Code := 0x0015#16
def codeProtect : Code := 0x0016#16
def codeRange : Code := 0x0017#16
def codeFormat : Code := 0x0018#16
def codeReach : Code := 0x0019#16
def codePriv : Code := 0x001A#16
def codeDiv : Code := 0x001B#16
def codeGrain : Code := 0x001C#16
def codeConv : Code := 0x001D#16
def codeBar : Code := 0x001E#16
def codeSpawn : Code := 0x001F#16
def codeObject : Code := 0x0020#16
def codeGrant : Code := 0x0021#16
def codeKey : Code := 0x0022#16
def codeOverflow : Code := 0x0023#16
def codeUse : Code := 0x0024#16
def codeData : Code := 0x0030#16

/-- The trap or fault that a command status raises when an own handle is reported; none where it raises nothing (R209, R336). -/
def statusCode (st : Byte) : Option Code :=
  match st.toNat with
  | 0x08 => some codeExpired
  | 0x10 => some codePage
  | 0x11 => some codeProtect
  | 0x12 => some codeRange
  | 0x13 => some codeFormat
  | 0x14 => some codeReach
  | 0x21 => some codeObject
  | 0x27 => some codeGrant
  | _ => none

/-- Whether a code is a recoverable trap (R406). -/
def recoverable (c : Code) : Bool := c.toNat ≤ 4

/-! ### Local storage -/

/-- The key in `State.spad` of a scratchpad address on a die (R172). -/
def spadKey (die a : Nat) : Nat := die * 2 ^ 28 + a % 2 ^ 28

/-- The die of a group. -/
def Group.die (g : Group) : Nat := g.facet / 4

/-- The sectors that `n` bytes from `a` touch, as a test. -/
def touchesSector (a n sec : Nat) : Bool := a / 64 ≤ sec && sec ≤ (a + n - 1) / 64

/-- Reservations of a store's sectors lost, whoever holds them (R221, R222). -/
def dropSectors (a n : Nat) (r : SMap Nat) : SMap Nat :=
  keepKeys (fun l => !(0 < n && 0 < look 0 r l && touchesSector a n (look 0 r l - 1))) r

/-- Uncorrectable 8-byte words without those that a write of `n` bytes replaces whole (R203). -/
def cleared (a n : Nat) (l : List Nat) : List Nat := l.filter (fun x => !(a ≤ x * 8 && x * 8 + 8 ≤ a + n))

/-- Whether ranges together hold every byte of `n` from `a`. -/
def rangesHold (rs : List (Nat × Nat)) (a n : Nat) : Bool :=
  (List.range n).all (fun i => rs.any (fun (b, m) => b ≤ a + i && a + i < b + m))

/-- A group whose shared memory one store has written in several ranges: a word that they replace together is no longer uncorrectable
(R203). -/
def Group.replaced (g : Group) (rs : List (Nat × Nat)) : Group :=
  { g with badShared := g.badShared.filter (fun x => !rangesHold rs (x * 8) 8) }

/-- Bytes written to a group's shared memory. A write ends every reservation on the sectors it touches. -/
def Group.storeShared (g : Group) (a : Nat) (bytes : List Byte) : Group :=
  { g with shared := g.shared.writeBytes a bytes,
           badShared := cleared a bytes.length g.badShared,
           waves := g.waves.map (fun w => { w with resvS := dropSectors a bytes.length w.resvS }) }

/-- Bytes written to the scratchpad at a key. -/
def State.storeSpad (s : State) (key : Nat) (bytes : List Byte) : State :=
  { s with spad := s.spad.writeBytes key bytes,
           badSpad := cleared key bytes.length s.badSpad,
           groups := s.groups.map (fun g => { g with
             waves := g.waves.map (fun w => { w with resvP := dropSectors key bytes.length w.resvP }) }) }

/-! ### Deliveries that land (R212, R255) -/

/-- Local bytes by key written one by one: scratchpad, or shared memory of a group. A word that they replace together is no longer
uncorrectable (R203). -/
def State.landBytes (s : State) (gid : Nat) (late : List (Nat × Nat)) : State :=
  let t := late.foldl (fun (s : State) (k, x) =>
    if 2 ^ 63 ≤ k then s
    else if 2 ^ 62 ≤ k then s.updGroup gid (fun g => g.storeShared (k - 2 ^ 62) [BitVec.ofNat 8 x])
    else s.storeSpad (k - 2 ^ 61) [BitVec.ofNat 8 x]) s
  let rs := late.map (fun x => (x.1, 1))
  { t with badSpad := t.badSpad.filter (fun x => !rangesHold rs (2 ^ 61 + x * 8) 8) }.updGroup gid (fun g => { g with
    badShared := g.badShared.filter (fun x => !rangesHold rs (2 ^ 62 + x * 8) 8) })

/-- Whether the local byte with a key lands later, which is free; the bytes of an uncorrectable word land together, which no read can
tell (R203, R212, R255, assumption 2). -/
def State.landsLater (s : State) (g : Group) (k : Nat) : Bool :=
  let off := if 2 ^ 62 ≤ k then 2 ^ 62 else 2 ^ 61
  let bad := if 2 ^ 62 ≤ k then g.badShared else s.badSpad
  Config.freeBit s.tick 0x323 (if bad.contains ((k - off) / 8) then k / 8 * 8 else k)

/-- A wave with the s registers that a landing command writes at its completion, within its allotment (R31, R57). -/
def Wave.landRegs (w : Wave) (a : Allot) (late : List (Nat × Nat)) : Wave :=
  late.foldl (fun (w : Wave) (k, x) => if 2 ^ 63 ≤ k && k - 2 ^ 63 < a.s then w.setS (k - 2 ^ 63) (word x) else w) w

/-- A command that lands completed: the rest of its bytes and its registers are written, and it is performed (R57, R207). -/
def State.land (s : State) (gid wid cls seq : Nat) : State :=
  match ((s.group? gid).bind (fun g => g.wave? wid)).bind (fun w => w.cmds.find? (fun c => c.cls = cls && c.seq = seq)) with
  | none => s
  | some c =>
    if c.stage ≠ .landing then s
    else
      (s.landBytes gid c.late).updGroup gid (fun g => { g with waves := g.waves.map (fun (w : Wave) =>
        if w.id ≠ wid then w
        else { w.landRegs g.cur c.late with cmds := w.cmds.map (fun x =>
          if x.cls = cls && x.seq = seq then { x with stage := .performed, late := [] } else x) }) })

/-- Every delivery to a group that is landing completed. -/
def State.landAll (s : State) (gid : Nat) : State :=
  match s.group? gid with
  | none => s
  | some g => g.waves.foldl (fun s w => (w.cmds.filter (fun c => c.stage = .landing)).foldl (fun s c => s.land gid w.id c.cls c.seq) s) s

/-! ### What a group gives back -/

/-- Interest records withdrawn, as NDROP withdraws them (R378, R384). A router that withdraws one has applied the tiles of its cycle
(R369). -/
def State.withdraw (s : State) (t : IntRec → Bool) : State :=
  { s with routers := s.routers.map (fun r => { r with
      closed := r.closed || r.entries.any (fun e => e.recs.any t)
      entries := (r.entries.map (fun e => { e with recs := e.recs.filter (fun x => !t x) })).filter
        (fun e => !e.recs.isEmpty) }) }

/-- Whether an interest record is one of a group's. -/
def recOfGroup (g : Nat) (x : IntRec) : Bool :=
  match x.who with
  | .localCmd g' _ _ => g' = g
  | .face _ => false

/-- Objects changed on every facet. -/
def State.mapObjs (s : State) (f : Obj → Obj) : State :=
  { s with facets := s.facets.map (fun x => { x with objs := x.objs.map f }) }

/-- The sends and receives that satisfy a test withdrawn from the ports where they wait, those of the escalation ports among them. -/
def State.dropWaits (s : State) (t : Waiter → Bool) : State :=
  { s.mapObjs (fun o => match o.kind with
      | .port d q ss rs => { o with kind := .port d q (ss.filter (fun x => !t x)) (rs.filter (fun x => !t x)) }
      | _ => o) with
    escWait := s.escWait.filter (fun x => !t x.2) }

/-- The SALLOC regions that a task owns, returned (R175, R288). -/
def State.returnRegions (s : State) (g : Nat) : State :=
  { s with facets := s.facets.map (fun x => { x with regions := x.regions.filter (fun r => !(r.owned && r.issuer = g)) }) }

/-! ### Core clocks (R22, R33, R256) -/

/-- A facet in a new core clock. -/
def State.newClock (s : State) (facet : Nat) : State :=
  { s with groups := s.groups.map (fun g => if g.facet = facet then g.newClock s.tick else g) }

/-- A facet whose current core clock is over: what issues next issues in another. -/
def State.endClock (s : State) (facet : Nat) : State :=
  { s with groups := s.groups.map (fun g => if g.facet = facet then { g with clock := [] } else g) }

/-! ### Matrix queues -/

/-- An entry put into a matrix queue: at its tail, but before those that a test accepts. -/
def insertMat (later : MatEntry → Bool) (e : MatEntry) : List MatEntry → List MatEntry
  | [] => [e]
  | x :: xs => if later x then e :: x :: xs else x :: insertMat later e xs

/-- Whether an entry of the queue of a wave's core has entered in the core clock in which the wave issues, and comes after what the wave
issues: it is of a wave of its group with a higher WAVE_ID, or of another group in a higher slot, and not begun (R150). -/
def State.laterEntry (s : State) (g : Group) (w : Wave) : MatEntry → Bool
  | .cmd f core gid wid seq => f = g.facet && core = w.core && g.clock.any (fun z => z.1 = w.id)
      && (s.group? gid).any (fun x => x.clock.any (fun z => z.1 = wid && z.2 = seq)
        && (x.wave? wid).any (fun y => y.cmds.any (fun c => c.cls = 4 && c.seq = seq && !c.begun)
          && (if gid = g.id then w.id < wid else w.slot < y.slot)))
  | .mpoint _ _ _ _ _ => false

/-- A tile released (R141). -/
def Group.release (g : Group) (core t : Nat) : Group :=
  { g with tiles := keepKeys (fun k => k / 4096 ≠ core * 32 + t) g.tiles, inUse := g.inUse.filter (· ≠ core * 32 + t),
           badTiles := g.badTiles.filter (fun x => x / 2048 ≠ core * 32 + t) }

/-- The tiles of a mask released. -/
def Group.releaseMask (g : Group) (core : Nat) (mask : Word) : Group :=
  ((List.range 32).filter (fun t => bit mask t)).foldl (fun g t => g.release core t) g

/-- The head of the matrix queue of a core, and the queue without it. -/
def matHead (facet core : Nat) : List MatEntry → Option (MatEntry × List MatEntry)
  | [] => none
  | e :: es =>
    let mine := match e with
      | .cmd f c _ _ _ => f = facet && c = core
      | .mpoint f c _ _ _ => f = facet && c = core
    if mine then some (e, es) else (matHead facet core es).map (fun (x, r) => (x, e :: r))

/-- The release of an MPOINT: what the tiles held stays to be read by the waves that are not ordered after it (R420). -/
def Group.releasePoint (g : Group) (core : Nat) (mask : Word) (point : Nat) : Group :=
  let old := fun (t : Nat) => g.tiles.filter (fun x => x.1 / 4096 = core * 32 + t)
  let left := if g.points.any (fun p => p.1 = point) then
      ((List.range 32).filter (fun t => bit mask t && !(old t).isEmpty)).map (fun t => (⟨point, core * 32 + t, old t⟩ : Faint))
    else []
  { g.releaseMask core mask with faint := g.faint ++ left }

/-- The MPOINT releases that have come to the head of a core's queue take effect (R420). -/
def State.drainPoints : Nat → State → Nat → Nat → State
  | 0, s, _, _ => s
  | k + 1, s, facet, core =>
    match matHead facet core s.matq with
    | some (.mpoint _ _ g keep point, rest) =>
      State.drainPoints k ({ s with matq := rest }.updGroup g (fun x => x.releasePoint core (~~~keep) point)) facet core
    | _ => s

/-- All of them that stand at the head of a core's queue, one behind another. -/
def State.drain (s : State) (facet core : Nat) : State := State.drainPoints s.matq.length s facet core

/-- The core of an entry of a matrix queue. -/
def MatEntry.at_ : MatEntry → Nat × Nat
  | .cmd f c _ _ _ => (f, c)
  | .mpoint f c _ _ _ => (f, c)

/-- Whether an entry belongs to a group. -/
def MatEntry.ofGroup (g : Nat) : MatEntry → Bool
  | .cmd _ _ g' _ _ => g' = g
  | .mpoint _ _ g' _ _ => g' = g

/-- A group's entries taken out of the matrix queues; a release of another group that comes to a head thereby takes effect (R165,
R166, R420). -/
def State.takeMatrix (s : State) (g : Nat) : State :=
  let mine := s.matq.filter (MatEntry.ofGroup g)
  (distinct (mine.map MatEntry.at_)).foldl (fun s (f, c) => s.drain f c)
    { s with matq := s.matq.filter (fun e => !e.ofGroup g) }

/-- The frames of a command's grants, once the sender's entries are zero and until its message is enqueued (R346). -/
def Cmd.holds (c : Cmd) : List (Nat × Bool) :=
  match c.effect with
  | .call (.psend _ _ _ _ _ _ _ (some fs)) => if c.stage = .queued || c.stage = .waiting then fs else []
  | _ => []

/-- Whether a send with grants has been begun by its home engine, which performs no other call on the port until it is done (R334,
R346). -/
def Cmd.sending (c : Cmd) : Bool :=
  match c.effect with
  | .call (.psend _ _ _ _ _ _ _ (some _)) => c.stage = .queued || c.stage = .waiting
  | _ => false

/-- Whether a call has been begun and is not complete: a send that waits for its grants, or a call that has left for another package
(R346, R355, R359). -/
def Cmd.calling (c : Cmd) : Bool := c.sending || (c.cls = 6 && c.posted && c.stage = .queued)

/-- Lent frames that return to the lender (R348 to R350). -/
def State.returnLent (s : State) (fs : List (Nat × Bool)) : State :=
  { s with lends := s.lends.filter (fun l => !fs.any (fun x => x.1 = l.frame)) }

/-- Every request that the units hold for a group withdrawn: interests, waits at ports, frames of messages not yet sent, and matrix
work. A delivery that has begun to land is completed, since none is partial (R370). -/
def State.recall (s : State) (g : Nat) : State :=
  let s := s.landAll g
  let held := (s.group? g).elim [] (fun x => x.waves.flatMap (fun w => w.cmds.flatMap Cmd.holds))
  (((s.withdraw (recOfGroup g)).dropWaits (fun w => w.peer.isNone && w.group = g)).returnLent held).takeMatrix g

/-- A group and all that it held leave the machine (R286, R288). -/
def State.dropGroup (s : State) (g : Nat) : State :=
  let s := (s.recall g).returnRegions g
  { s with groups := s.groups.filter (fun x => x.id ≠ g) }

/-! ### Faults -/

/-- A free wave ends, as WKILL ends it (R343): its lanes leave with a status, and what it had not sent is discarded; the copy-engine
commands whose requests have left are performed yet (R213, assumption 79). -/
def State.endFree (s : State) (g : Nat) (status : Byte) (code : Code) (pc : DWord) : State :=
  let gone := (s.group? g).any (fun x => x.stat = .exited)
  let s := (if gone then s else s.recall g).updGroup g (fun x =>
    if x.stat = .exited then
      { x with free := x.free.map (fun fw => if fw.code = 0 then { fw with code := code, faultPc := pc } else fw) }
    else
      { x with
        stat := .exited,
        exitMax := if x.waves.any Wave.alive then max x.exitMax status.toNat else x.exitMax,
        exitOr := if x.waves.any Wave.alive then x.exitOr ||| status else x.exitOr,
        free := x.free.map (fun fw => if code = 0 then fw else { fw with code := code, faultPc := pc }),
        preempt := none,
        waves := x.waves.map (fun w => { w with
          exited := w.present, paths := [], frames := [], held := none, park := .no, resvS := [], resvP := [], dead := false,
          cmds := w.cmds.filter (fun c => c.stage = .performed || c.stage = .signalled || (c.begun && c.cls ≤ 3)) }) })
  { s with facets := s.facets.map (fun f => { f with bench := f.bench.filter (fun (_, x) => x ≠ g) }) }

/-- Whether a fault of a group's launch has reached a firmware core at an earlier edge, or has ended the launch (R413). -/
def State.ending (s : State) (g : Group) : Bool :=
  s.faults.any (fun f => g.launch = some f.launch && f.edge < s.edges)
    || (g.launch.bind s.launch?).any (fun l => l.fault.isSome)

/-- An unrecoverable fault of a wave (R407, R412, R343). In a launch, the fault sets out for a firmware core and the wave stops;
LAUNCH_END ends the launch with the first to arrive; what arises in the launch at a later edge is discarded (R413). In a free wave,
that wave ends. Either is also a message in the die's escalation port, with the faulting address (R414). -/
def State.raiseFault (s : State) (gid wid : Nat) (code : Code) (pc : DWord) (addr : DWord := 0) : State :=
  match s.group? gid with
  | none => s
  | some g =>
    let kind := if code = codeOverflow then 2 else if g.launch.isSome then 1 else 3
    let late := s.ending g
    let s := if g.stat = .exited || late then s
      else { s with esc := s.esc ++ [⟨g.facet / 4, 0, addr, pc, g.facet, kind, g.ctx, code, none⟩] }
    match g.launch, g.wave? wid with
    | some l, some w =>
      let s := if late && !w.alive then s
        else s.updWave gid wid (fun w => { w with dead := true, park := .no, held := none, fresh := [] })
      if late then s else { s with faults := s.faults ++ [⟨l, code, pc, g.ctx, s.edges, g.facet, w.core, w.slot⟩] }
    | _, _ => s.endFree gid 0xFF code pc

/-! ### A group at its first issue -/

/-- The scratchpad words of a range by number, as words of the range (R203). -/
def badWithin (key n : Nat) (bad : List Nat) : List Nat :=
  (bad.filter (fun x => key ≤ x * 8 && x * 8 < key + n)).map (fun x => x - key / 8)

/-- The key in the scratchpad of a facet's die at which a spill range begins (R174). -/
def spillKey (facet spillAt : Nat) : Nat := spadKey (facet / 4) (facet % 4 * 2 ^ 26 + spillAt)

/-- The scratchpad with spill ranges of `n` bytes on a facet as a write leaves them: each has the errors that stand with its place, and no
other (R178, R203). -/
def State.setSpills (s : State) (facet n : Nat) (rs : List (Nat × List Nat)) : State :=
  let within := fun (x : Nat) => rs.any (fun r => spillKey facet r.1 ≤ x * 8 && x * 8 < spillKey facet r.1 + n)
  { s with badSpad := s.badSpad.filter (fun x => !within x) ++ rs.flatMap (fun r => r.2.map (· + spillKey facet r.1 / 8)) }

/-- A wave as R31 and R293 give it: every register 0, every handle null, and one path at the entry. -/
def newWave (id core slot : Nat) (present : Mask) (pc : DWord) (prio : BitVec 12) (spillAt : Nat) : Wave :=
  { id := id, core := core, slot := slot, v := [], s := [], p := [], h := [], m := [], present := present, exited := 0,
    paths := if present = 0 then [] else [⟨1, 0, pc, prio, present, .ready⟩], frames := [], nextId := 2, held := none,
    trapVec := 0, fair := 0, last := 1, run := none, fresh := [], park := .no, parkedAt := 0, asOf := none, cmds := [], seqs := [],
    order := 0, latchTag := none, latch := none, resvS := [], resvP := [], spill := [], spillAt := spillAt, badSpill := [], rel := 0,
    dead := false }

/-- A group as R31 gives it, with its waves. -/
def newGroup (id ctx facet : Nat) (launch : Option Nat) (task : Task) (shape : Nat × Nat × Nat) (waves : List Wave)
    (pro full : Allot) (slots : List (BitVec 16)) (spill ceil : Nat) (div : Bool) (defer : Nat) : Group :=
  { id := id, ctx := ctx, launch := launch, free := none, task := task, facet := facet, stat := .resident, shape := shape,
    waves := waves, g := [], clock := [], clockAt := 0, gPrev := [], gBy := [], tiles := [], inUse := [], shared := [], bars := [], cur := pro, pro := pro, full := full,
    slots := slots, spillSize := spill, ceil := ceil, div := div, acq := [], deferred := [], deferUsed := 0,
    deferCap := defer, resident := 0, saveAt := facet, preempt := none, stopAt := none, hot := none, exitMax := 0,
    exitOr := 0, badShared := [], badTiles := [], points := [], faint := [],
    savedMat := [], placed := 0, since := 0, answers := [] }

/-! ### Abort and split (R285 to R287) -/

/-- The extent and smallest grain of a task on each axis, in the order x, y, z. -/
def Task.axes (t : Task) (r : LaunchRec) : List (Nat × Nat) := [(t.ex, r.min.1), (t.ey, r.min.2.1), (t.ez, r.min.2.2)]

/-- Whether a task is the first of its launch in start order, or a part of it (R3, R283). -/
def Launch.isFirst (l : Launch) (t : Task) : Bool := t.order.headD l.started = 0

/-- A child put into the task list: at its tail, but before the children that waves of a higher WAVE_ID have spawned in the same core
clock (R323, assumption 90). -/
def insertChild (t : Task) : List Task → List Task
  | [] => [t]
  | x :: xs =>
    match x.born, t.born with
    | some (_, n, w), some (_, n', w') => if n = n' && w' < w then t :: x :: xs else x :: insertChild t xs
    | _, _ => x :: insertChild t xs

/-- The axis that `split` cuts: the longest that can still be split, ties to the first (R287). -/
def Task.splitAxis (t : Task) (r : LaunchRec) : Option Nat :=
  let ok := ((t.axes r).zip [0, 1, 2]).filter (fun ((e, m), _) => m ≤ e / 2)
  let best := ok.foldl (fun acc ((e, _), _) => max acc e) 0
  (ok.find? (fun ((e, _), _) => e = best)).map (fun (_, a) => a)

/-- The two halves of a box, the lower first (R287). Each takes the place of its task in start order (R283). -/
def Task.halves (t : Task) (axis : Nat) : List Task :=
  let place := fun (k : Nat) => if t.order.isEmpty then [] else t.order ++ [k]
  let lo := { t with order := place 0 }
  let hi := { t with order := place 1 }
  match axis with
  | 0 => [{ lo with ex := t.ex - t.ex / 2 }, { hi with ox := t.ox + (t.ex - t.ex / 2), ex := t.ex / 2 }]
  | 1 => [{ lo with ey := t.ey - t.ey / 2 }, { hi with oy := t.oy + (t.ey - t.ey / 2), ey := t.ey / 2 }]
  | _ => [{ lo with ez := t.ez - t.ez / 2 }, { hi with oz := t.oz + (t.ez - t.ez / 2), ez := t.ez / 2 }]

/-- A task's group aborts and counts in ABORTED: a cancel at a check point, or the end of its launch (R286, R291, R292). -/
def State.abortTask (s : State) (g : Nat) : State :=
  match s.group? g with
  | none => s
  | some x =>
    let s := s.dropGroup g
    match x.launch with
    | none => s
    | some l => s.updLaunch l (fun l => { l with aborted := l.aborted + 1 })

/-- A task exhausts a resource: its group aborts, which SPLITS counts, and its box is halved at the head of the task list (R285 to
R287). Under the set cancel bit of its facet there are no halves and the task counts in ABORTED too (assumption 23). A box that cannot
be halved raises the smallest-grain fault at `pc`. -/
def State.exhaust (s : State) (g w : Nat) (pc : DWord) : State :=
  match s.group? g with
  | none => s
  | some x =>
    match x.launch.bind s.launch? with
    | none => s
    | some l =>
      let s := s.count x.facet x.ctx 7 1
      if l.bits.getLsbD x.facet then (s.abortTask g).updLaunch l.id (fun l => { l with splits := l.splits + 1 })
      else
        match x.task.splitAxis l.recd with
        | some a =>
          (s.dropGroup g).updLaunch l.id (fun l => { l with
            splits := l.splits + 1
            tasks := x.task.halves a ++ l.tasks
            headFrom := s.edges })
        | none =>
          let s := s.raiseFault g w codeGrain pc
          (s.dropGroup g).updLaunch l.id (fun l => { l with splits := l.splits + 1 })

end Sys2Proof.Machine
end

