-- ==== Sys2Proof/Machine/Paths.lean ====
section
/-! DEFINITION. The frontier of a wave: moving and merging paths, what an issue leaves behind, and lanes that leave. -/

namespace Sys2Proof.Machine

open Sys2Proof

/-- Two paths at one PC of one frontier as one: the union of their lanes and the higher priority. What waits at the PC goes on
waiting, and the older identity stays (R293, R309). -/
def Path.join (p q : Path) : Path :=
  { id := min p.id q.id, fr := p.fr, pc := p.pc, prio := if p.prio.toNat < q.prio.toNat then q.prio else p.prio,
    mask := p.mask ||| q.mask, wait := if p.wait = .ready then q.wait else p.wait }

/-- A path added to a list of paths, joined with one that stands at its PC. -/
def addPath (q : Path) : List Path → List Path
  | [] => [q]
  | p :: ps => if p.fr = q.fr && p.pc = q.pc then p.join q :: ps else p :: addPath q ps

/-- Every two paths of a frontier that stand at one PC merged (R293). -/
def mergePaths : List Path → List Path
  | [] => []
  | p :: ps => addPath p (mergePaths ps)

/-- Whether a path stands at the PC of another of its frontier. -/
def crowded (ps : List Path) (id : Nat) : Bool :=
  match ps.find? (fun p => p.id = id) with
  | none => true
  | some p => ps.any (fun q => q.id ≠ id && q.fr = p.fr && q.pc = p.pc)

/-- The paths of a wave merged. A fairness run ends when its path merges or has left, and a merge ends the unchecked run (R296,
R329). -/
def Wave.merge (w : Wave) : Wave :=
  let ps := mergePaths w.paths
  let w' := { w with paths := ps, fresh := if ps.length < w.paths.length then [] else w.fresh }
  match w.run with
  | some (id, _) => if crowded w.paths id then { w' with run := none, fair := 0 } else w'
  | none => w'

/-- Lanes taken out of every path; a path left with no lanes ceases to exist (R301). -/
def dropLanes (ps : List Path) (m : Mask) : List Path :=
  (ps.map (fun p => { p with mask := p.mask &&& ~~~m })).filter (fun p => p.mask ≠ 0)

/-- A path whose lanes of a mask go to a PC with a priority; `new` is the identity of the path that splits off. -/
def Path.split (q : Path) (new : Nat) (m : Mask) (pc : DWord) (prio : BitVec 12) : List Path :=
  let m := m &&& q.mask
  if m = 0 then [q]
  else if m = q.mask then [{ q with pc := pc, prio := prio, wait := .ready }]
  else [{ q with mask := q.mask &&& ~~~m }, ⟨new, q.fr, pc, prio, m, .ready⟩]

/-- `move_lanes` of R301 without its merge: the lanes of a path go to a PC with a priority. A path that moves whole keeps its
identity, and the lanes that split off are a new path. -/
def Wave.moveLanes (w : Wave) (id : Nat) (m : Mask) (pc : DWord) (prio : BitVec 12) : Wave :=
  { w with paths := w.paths.flatMap (fun q => if q.id = id then q.split w.nextId m pc prio else [q]), nextId := w.nextId + 1 }

/-- A path moved on to the next word (R47). -/
def Wave.advance (w : Wave) (id : Nat) : Wave :=
  { w with paths := w.paths.map (fun q => if q.id = id then { q with pc := q.pc + 12, wait := .ready } else q) }

/-- The state of a path changed. -/
def Wave.setWait (w : Wave) (id : Nat) (x : PathWait) : Wave :=
  { w with paths := w.paths.map (fun q => if q.id = id then { q with wait := x } else q) }

/-- Reservations of lanes lost, in both spaces (R221). -/
def Wave.loseResv (w : Wave) (m : Mask) : Wave :=
  { w with resvS := keepKeys (fun l => !m.getLsbD l) w.resvS, resvP := keepKeys (fun l => !m.getLsbD l) w.resvP }

/-! ### What an issue leaves behind -/

/-- The fairness counter and run after an issue of a path; `waits` says whether another ready path waited (R296). An issue of the run's
own path is one of its 64, and any other is counted, so that a run whose path is not ready holds up no later one. -/
def Wave.countIssue (w : Wave) (id : Nat) (waits : Bool) : Wave :=
  match w.run.filter (fun r => r.1 = id) with
  | some (r, n) => if n ≤ 1 then { w with run := none, fair := 0, last := id } else { w with run := some (r, n - 1), last := id }
  | none => { w with fair := if waits then (if w.last = id then w.fair + 1 else 1) else 0, last := id }

/-- The start of a fairness run: the counter has reached 4,096, and the best other ready path gets 64 issues. Ties go to the
youngest frontier, then to the lowest PC (R296). -/
def Wave.startRun (w : Wave) : Wave :=
  if w.fair < 4096 then w
  else
    let others := w.frontiers.filterMap (fun fr => bestPath ((w.readyIn fr).filter (fun p => p.id ≠ w.last)))
    let top := others.foldl (fun acc p => max acc p.prio.toNat) 0
    match others.find? (fun p => p.prio.toNat = top) with
    | some p => { w with run := some (p.id, 64), fair := 0 }
    | none => { w with fair := 0 }

/-- A wave whose path parks: its fairness run ends and the counter is 0 (R296). -/
def Wave.endFair (w : Wave) (id : Nat) : Wave :=
  if w.run.any (fun r => r.1 = id) then { w with run := none, fair := 0 } else w

/-- The wave after an instruction of a path has issued: the counters, the end of an unchecked run, the next PC and the merges. A
path that has parked, `parked` for an instant, ends its fairness run (R296). -/
def Wave.afterIssue (w : Wave) (id : Nat) (waits endRun advance parked : Bool) : Wave :=
  let w := if (parked || w.park ≠ .no) && w.run.any (fun r => r.1 = id) then { w.endFair id with last := id } else w.countIssue id waits
  let w := if advance then w.advance id else w
  let w := if endRun then { w with fresh := [] } else w
  { w.merge with parkedAt := if w.park = .no then 0 else w.parkedAt, asOf := none }

/-- The instructions that end an unchecked run by R55: those that can park or hold their path, and those that read a handle as a
source. -/
def endsRun (op var : Nat) : Bool :=
  match op with
  | 0x06 | 0x0A | 0x0C | 0x0D | 0x0E | 0x0F | 0x14 | 0x15 | 0xA1 | 0xA2 | 0xD0 | 0xD1 | 0xD2 => true
  | 0xB1 | 0xB3 | 0xB4 | 0xB6 | 0xB7 | 0xB8 | 0xBA | 0xBB | 0xBE | 0xBF => true
  | 0xBD => var ≠ 2
  | _ => false

/-- The state after an instruction has issued; counter 0 of the facet's bank counts it (R398). A YIELD, a SLEEP or an SALLOC parks at
least for an instant (R317, R318, R327). -/
def Ctx.finish (c : Ctx) (op : Nat) (advance : Bool) (s : State) : State :=
  let waits := c.wave.readyPaths.any (fun p => p.id ≠ c.path.id)
  c.updWave (s.count c.grp.facet c.grp.ctx 0 1) (fun w =>
    w.afterIssue c.path.id waits (c.form.hints.sw || endsRun op c.form.var.toNat) advance ((op = 0x0C || op = 0x0D || op = 0x14) && c.act ≠ 0))

/-- A wave without a park. -/
def Wave.unpark (w : Wave) : Wave := { w with park := .no, held := none }

/-- A wave as a path of it issues: without a park. A switch of path ends the unchecked run (R55), and only the path that waited tries its
instruction again. -/
def Wave.takeUp (w : Wave) (id : Nat) : Wave :=
  { w.unpark with asOf := if w.held = some id then w.asOf else none, fresh := if w.last = id then w.fresh else [] }

/-- An instruction that waits and is tried again: no other path of its wave issues meanwhile, whether the wait is a park or not, and a park
ends a fairness run (R231, R294, R296). -/
def Ctx.waits (c : Ctx) (park : Bool) (port : Option (List Nat)) (s : State) : State :=
  let now := (s.facet c.grp.facet).ref
  c.updWave s (fun w =>
    let w := { w with park := .retry park port, held := some c.path.id,
                      parkedAt := if !park then 0 else if w.parkedAt = 0 then now else w.parkedAt,
                      asOf := some (w.asOf.getD w.order) }
    if park then w.endFair c.path.id else w)

/-- A wave parked after its instruction has issued. -/
def Ctx.parks (c : Ctx) (s : State) (p : Park) : State :=
  let now := (s.facet c.grp.facet).ref
  c.updWave s (fun w => { w with park := p, parkedAt := now })

/-! ### Lanes that leave (R315) -/

/-- Frames whose lanes have all exited are popped (R410). -/
def Wave.popExited (w : Wave) : Wave :=
  { w with frames := w.frames.filter (fun f => f.mask &&& ~~~w.exited ≠ 0) }

/-- Lanes that exit leave their paths, reservations and frames. -/
def Wave.exitLanes (w : Wave) (m : Mask) : Wave :=
  let w := w.loseResv m
  Wave.popExited { w with exited := w.exited ||| m, paths := dropLanes w.paths m }

/-- The statuses of lanes folded into their group (R279). -/
def Group.foldStatus (g : Group) (m : Mask) (status : Nat → Byte) : Group :=
  { g with exitMax := (lanesOf m).foldl (fun acc l => max acc (status l).toNat) g.exitMax,
           exitOr := (lanesOf m).foldl (fun acc l => acc ||| status l) g.exitOr }

end Sys2Proof.Machine
end

