-- ==== Sys2Proof/Machine/Cmd.lean ====
section
/-! DEFINITION. Local storage, and commands: their pieces and ranges, acceptance with its translations and limits, what a divisible task
holds back, handles and their statuses (R146, R151, R170 to R184, R205 to R212). -/

namespace Sys2Proof.Machine

open Sys2Proof

/-! ### Shared memory and scratchpad -/

/-- The bytes of an element. -/
def tySize (t : Ty) : Nat := tyWidth t / 8

/-- `n` local bytes of a group: shared memory, or scratchpad of its die, or of the die that is named. -/
def State.readLocal (s : State) (gid : Nat) (sp : Bool) (a n : Nat) (die : Option Nat := none) : List Byte :=
  match s.group? gid with
  | none => List.replicate n 0
  | some g => if sp then s.spad.readBytes (spadKey (die.getD g.die) a) n else g.shared.readBytes a n

/-- Local bytes of a group written. -/
def State.storeLocal (s : State) (gid : Nat) (sp : Bool) (a : Nat) (bytes : List Byte) (die : Option Nat := none) : State :=
  match s.group? gid with
  | none => s
  | some g => if sp then s.storeSpad (spadKey (die.getD g.die) a) bytes else s.updGroup gid (fun g => g.storeShared a bytes)

/-- The first uncorrectable word among `n` local bytes (R203). -/
def State.badLocal (s : State) (g : Group) (sp : Bool) (a n : Nat) (die : Option Nat := none) : Option Nat :=
  let a := if sp then spadKey (die.getD g.die) a else a
  ((if sp then s.badSpad else g.badShared).find? (fun x => meets (x * 8) 8 a n)).map (· * 8)

/-- Local storage after one store has written several ranges: a word that they replace together is no longer uncorrectable (R203). -/
def State.replacedLocal (s : State) (g : Group) (sp : Bool) (rs : List (Nat × Nat)) : State :=
  if sp then { s with badSpad := s.badSpad.filter (fun x => !rangesHold (rs.map (fun (a, n) => (spadKey g.die a, n))) (x * 8) 8) }
  else s.updGroup g.id (fun x => x.replaced rs)

/-- An uncorrectable data error consumed by a wave: the error log takes it, and it ends the launch or the free wave (R203, R407,
R412, R439). `addr` is the key of the word in main memory, or where it lies in local storage (assumption 98). -/
def State.uncorrectable (s : State) (gid wid : Nat) (pc : DWord) (addr : Nat) : State :=
  match s.group? gid with
  | none => s
  | some g =>
    let s := { s with host := { s.host with uncorr := min 0xFFFF (s.host.uncorr + 1) } }
    let pa := addr % 2 ^ 48
    (s.logEntry 1 codeData.toNat g.ctx g.facet 0xFF pa pc.toNat (s.facet g.facet).ref.toNat).raiseFault gid wid codeData pc (BitVec.ofNat 64 pa)

/-- The region of a facet's quarter that holds `n` bytes at an offset. -/
def Facet.regionAt (f : Facet) (off n : Nat) : Option Region :=
  f.regions.find? (fun r => r.base ≤ off && off + n ≤ r.base + r.size)

/-- The checks of R215 on `n` local bytes, after alignment: none where the access is allowed. -/
def checkLocal (s : State) (g : Group) (sp write : Bool) (a n : Nat) : Option Code :=
  if !sp then (if a + n ≤ g.cur.sh then none else some codeOperand)
  else
    let f := g.die * 4 + a / 2 ^ 26 % 4
    let off := a % 2 ^ 26
    let own := match s.ctx? g.ctx with
      | some c => ctxOwns c f
      | none => false
    let fac := s.facet f
    if 2 ^ 28 ≤ a || !own || fac.spadUnits * 65536 < off + n then some codeSpad
    else
      match fac.regionAt off n with
      | none => some codeSpad
      | some r =>
        if r.ctx ≠ g.ctx || (r.div && r.issuer ≠ g.id) then some codeSpad
        else if write && g.div && !(r.owned && r.issuer = g.id) then some codeDiv
        else none

/-- The first failure among the lanes of a local access: alignment, range, then the divisible rule, each over all lanes before the next
(R215, whose order can also be read lane by lane: assumption 67). -/
def checkLanes (s : State) (g : Group) (sp write : Bool) (size : Nat) (addrs : List Nat) : Option Code :=
  if addrs.any (fun a => a % size ≠ 0) then some codeAlign
  else
    let rs := addrs.filterMap (fun a => checkLocal s g sp write a size)
    match rs.find? (fun c => c ≠ codeDiv) with
    | some c => some c
    | none => rs.head?

/-! ### Operand maps (R146, R147) -/

def mapBase (m : DWord) : Nat := bits m 0 19
def mapStride (m : DWord) : Nat := bits m 19 19
def mapFmt (m : DWord) : Nat := bits m 46 4
def mapSlot (m : DWord) : Nat := bits m 50 3
def mapKmaj (m : DWord) : Bool := bit m 53

/-- The K of a format by its element size in bytes; 0 stands for F4X (R142). -/
def depthOf : Nat → Nat
  | 4 => 8
  | 2 => 32
  | 1 => 64
  | _ => 128

/-- The element size of a map's format in bytes, 0 for F4X (R147). -/
def mapSize (slots : List (BitVec 16)) (m : DWord) : Nat :=
  if mapFmt m = 15 then
    (match bits (slots.getD (mapSlot m) 0) 12 4 with
     | 1 => 4
     | 2 | 3 => 2
     | 4 | 5 => 1
     | _ => 0)
  else tyWidth (Ty.ofCode (BitVec.ofNat 4 (mapFmt m))) / 8

/-- The footprint of a map: the number of bytes from BASE up (R147). -/
def mapSpan (slots : List (BitVec 16)) (m : DWord) : Nat :=
  let e := mapSize slots m
  if e = 0 then 63 * mapStride m + 72
  else if mapKmaj m then 63 * mapStride m + depthOf e * e
  else (depthOf e - 1) * mapStride m + 64 * e

/-! ### Main-memory addresses of a command -/

/-- The rows of a bulk command: main-memory and local address of each (R226). -/
def Bulk.rowList (d : Bulk) : List (Int × Int) :=
  (List.range d.rows).map (fun (r : Nat) => ((d.va.toNat : Int) + r * d.vstr, (d.loc.toNat : Int) + r * d.lstr))

/-- The first byte of a range in each of its pages, in ascending order. -/
def pagesOf (a n : Nat) : List Nat :=
  (List.range ((a + n - 1) / 4096 - a / 4096 + 1)).map (fun i => max a ((a / 4096 + i) * 4096))

/-- The addresses a bulk command is translated by, in the order of R459; a row below 0 is out of range at its own address, which
reads as a 64-bit number (R225). -/
def Bulk.pages (d : Bulk) : List Nat :=
  d.rowList.flatMap (fun (a, _) => if a < 0 then [(2 ^ 64 + a).toNat] else pagesOf a.toNat d.len)

def lanePages (ls : List LaneArg) : List Nat := ls.map (fun x => x.addr.toNat)

/-- The main-memory addresses that an effect touches and how it touches them (R195, R459). -/
def Effect.access : Effect → List Nat × Access
  | .bulkIn d _ => (d.pages, .read)
  | .bulkOut d _ => (d.pages, .write)
  | .bulkFill d _ => (d.pages, .write)
  | .gather _ _ _ ls => (lanePages ls, .read)
  | .scatter _ _ ls => (lanePages ls, .write)
  | .atomic _ _ _ ls => (lanePages ls, .write)
  | .cas _ _ ls => (lanePages ls, .write)
  | .xsum _ ls => (lanePages ls, .write)
  | .xrd _ _ _ ls => (lanePages ls, .read)
  | .xclr ls => (lanePages ls, .write)
  | _ => ([], .read)

/-- The scratchpad bytes that a command's operands name, as ranges of addresses (R328). -/
def Effect.spadRanges : Effect → List (Nat × Nat)
  | .bulkIn d true | .bulkOut d true => d.rowList.map (fun (_, l) => (wrapInt l 32, d.len))
  | .gather ty 2 _ ls | .scatter ty 2 ls => ls.map (fun x => (x.loc, tyWidth ty / 8))
  | .nwant true key loc _ | .nhave true key loc _ => [(loc, key.len)]
  | .call (.psend _ true _ loc len _ _ _) => [(loc, len)]
  | .call (.precv _ true _ loc cap _ _) => [(loc, cap)]
  | _ => []

/-- The shared bytes that a command's operands name, as ranges (R321). -/
def Effect.sharedRanges (slots : List (BitVec 16)) (mask : Mask) : Effect → List (Nat × Nat)
  | .bulkIn d false | .bulkOut d false => d.rowList.map (fun (_, l) => (wrapInt l 32, d.len))
  | .gather ty 1 _ ls | .scatter ty 1 ls => ls.map (fun x => (x.loc, tyWidth ty / 8))
  | .nwant false key loc _ | .nhave false key loc _ => [(loc, key.len)]
  | .call (.psend _ false _ loc len _ _ _) => [(loc, len)]
  | .call (.precv _ false _ loc cap _ _) => [(loc, cap)]
  | .matrix m =>
    match m.kind with
    | .mma | .mmab => [(mapBase m.map, mapSpan slots m.map)]
    | .mlda | .msta => (lanesOf mask).map (fun l => ((look 0 m.args l).toNat, 64 * (tyWidth m.ty / 8)))
    | _ => []
  | _ => []

/-- `n` bytes from an address, cut at multiples of 4 KiB: how far in, and how many. -/
def chunks (a n : Nat) : List (Nat × Nat) :=
  (pagesOf a n).map (fun lo => (lo - a, min (a + n) ((lo / 4096 + 1) * 4096) - lo))

/-- A row of a bulk command as chunks of 4 KiB that are aligned in the destination, whose first byte is `dest` (R182). -/
def rowChunks (a l dest : Int) (n : Nat) : List Bulk :=
  (chunks dest.toNat n).map (fun (off, m) =>
    ⟨BitVec.ofNat 64 (a.toNat + off), BitVec.ofNat 32 (l.toNat + off), m, 1, 0, 0⟩)

/-- A copy-engine command as the pieces that are performed one by one: the chunks of a bulk command, and the lanes of another
(R182, R213). Every other command is one piece. -/
def Effect.pieces : Effect → List Effect
  | .bulkIn d sp => d.rowList.flatMap (fun (a, l) => (rowChunks a l l d.len).map (fun b => .bulkIn b sp))
  | .bulkOut d sp => d.rowList.flatMap (fun (a, l) => (rowChunks a l a d.len).map (fun b => .bulkOut b sp))
  | .bulkFill d x => d.rowList.flatMap (fun (a, l) => (rowChunks a l a d.len).map (fun b => .bulkFill b x))
  | .gather ty dest d ls => ls.map (fun x => .gather ty dest d [x])
  | .scatter ty src ls => ls.map (fun x => .scatter ty src [x])
  | .atomic op ty d ls => ls.map (fun x => .atomic op ty d [x])
  | .cas ty d ls => ls.map (fun x => .cas ty d [x])
  | .xsum ty ls => ls.map (fun x => .xsum ty [x])
  | .xrd ty mode d ls => ls.map (fun x => .xrd ty mode d [x])
  | .xclr ls => ls.map (fun x => .xclr [x])
  | e => [e]

/-- The words of a chunk of a bulk command, which are moved whole (R239). -/
def Effect.words : Effect → List Effect
  | .bulkIn d sp => (at_ d).map (fun b => .bulkIn b sp)
  | .bulkOut d sp => (at_ d).map (fun b => .bulkOut b sp)
  | .bulkFill d x => (at_ d).map (fun b => .bulkFill b x)
  | e => [e]
where
  at_ (d : Bulk) : List Bulk :=
    (List.range (d.len / 4)).map (fun i => ⟨d.va + BitVec.ofNat 64 (4 * i), d.loc + BitVec.ofNat 32 (4 * i), 4, 1, 0, 0⟩)

/-- The words of a chunk that have not been moved yet. -/
def Cmd.unmoved (c : Cmd) (e : Effect) : List Effect :=
  if c.moved.isEmpty then [e] else ((e.words.mapIdx (fun i x => (i, x))).filter (fun x => !c.moved.contains x.1)).map Prod.snd

/-- What is left of a command: all of it, or what is not moved yet of the piece in hand and the pieces behind it. -/
def Cmd.left (c : Cmd) : List Cmd :=
  if c.sent = 0 && c.moved.isEmpty then [c]
  else
    (match c.effect.pieces.drop c.sent with
     | e :: es => c.unmoved e ++ es
     | [] => []).map (fun e => { c with effect := e })

/-- The main-memory addresses that a command touches once `sent` of its pieces are performed (R182, R209). -/
def Effect.accessFrom (e : Effect) (sent : Nat) : List Nat × Access :=
  if sent = 0 then e.access else ((e.pieces.drop sent).flatMap (fun x => x.access.1), e.access.2)

/-- The boundary of R182 and R213 that a piece of a copy-engine command lies within: its 4 KiB of the destination, or the 256-byte line
of its lane. -/
def Effect.unit : Effect → Nat
  | .bulkIn d _ => d.loc.toNat / 4096
  | .bulkOut d _ | .bulkFill d _ => d.va.toNat / 4096
  | .gather _ _ _ ls | .scatter _ _ ls | .atomic _ _ _ ls | .cas _ _ ls | .xsum _ ls | .xrd _ _ _ ls | .xclr ls =>
    (ls.head?.map (fun x => x.addr.toNat / 256)).getD 0
  | _ => 0

/-! ### Commands and handles -/

def Wave.cmd? (w : Wave) (cls seq : Nat) : Option Cmd := w.cmds.find? (fun c => c.cls = cls && c.seq = seq)

/-- The next sequence number of a class (R206); a handle word holds it modulo 2^20 (R208). -/
def Wave.nextSeq (w : Wave) (cls : Nat) : Nat := look 0 w.seqs cls

/-- How many commands of the class were issued after one of this wave. -/
def Wave.ageOf (w : Wave) (cls seq : Nat) : Nat := w.nextSeq cls - 1 - seq

/-- The latest command of a class whose sequence number has the low 20 bits that a handle word gives (R208). -/
def Wave.seqOf (w : Wave) (cls low : Nat) : Option Nat :=
  let n := w.nextSeq cls
  let age := (n + 2 ^ 20 - 1 - low) % 2 ^ 20
  if n ≤ age then none else some (n - 1 - age)

/-- The commands of a class whose completion is not signalled (R206). -/
def Wave.outstanding (w : Wave) (cls : Nat) : List Cmd := w.cmds.filter (fun c => c.cls = cls && c.stage ≠ .signalled)

/-- Whether the effects of a command are performed. -/
def Cmd.done (c : Cmd) : Bool := c.stage = .performed || c.stage = .signalled

/-- Whether a command waits at a port. -/
def Cmd.atPort (c : Cmd) : Bool :=
  c.stage = .waiting && (match c.effect with
    | .call (.psend ..) => true
    | .call (.precv ..) => true
    | _ => false)

/-- Whether a wave has issued a command release that still waits for an access before it: its later local accesses come after that access
(R245, R249, assumption 86). -/
def Wave.releaseOwed (w : Wave) : Bool :=
  w.cmds.any (fun r => r.rel && !r.done && w.cmds.any (fun k => k.order < r.order && !k.done && !(r.cls = 6 && k.atPort)))

/-- Whether a command was issued before the instruction that the wave issues, or tries again (R231, R232). -/
def Wave.before (w : Wave) (c : Cmd) : Bool := c.order < w.asOf.getD w.order

/-- Whether every command issued before `order` in the classes of a test is performed (R231, R245). -/
def Wave.allDone (w : Wave) (t : Cmd → Bool) : Bool := w.cmds.all (fun c => !t c || c.done)

/-- Whether a command must be remembered: it is not signalled, is among the latest 256 of its class, is named by an h register
or a frame, or raises something that has not been reported. -/
def Wave.keeps (w : Wave) (c : Cmd) : Bool :=
  c.stage ≠ .signalled || w.ageOf c.cls c.seq < 256
    || w.h.any (fun (_, x) => x = .own c.cls c.seq)
    || w.frames.any (fun f => f.cmd = some (c.cls, c.seq))
    || (!c.reported && (statusCode c.status).isSome)

/-- The status an own handle reads (R209, R210). -/
def Wave.ownStatus (w : Wave) (cls seq : Nat) : Byte :=
  match w.cmd? cls seq with
  | none => 0x04#8
  | some c => if c.stage ≠ .signalled then 0x01#8 else if c.reported then 0x03#8 else c.status

/-- The fields of a command handle word: CLASS, WAVE and SEQ (R208). -/
def handleWord (cls wave seq : Nat) : Word := BitVec.ofNat 32 (cls * 2 ^ 29 + wave % 128 * 2 ^ 22 + seq % 2 ^ 20)

/-- The status that a reference reads (R236). -/
def Group.refStatus (g : Group) (x : Word) : Byte :=
  if x = 0 then 0x00#8
  else
    match g.wave? (bits x 22 7) with
    | none => 0x04#8
    | some w =>
      let cls := bits x 29 3
      match w.seqOf cls (bits x 0 20) with
      | none => 0x04#8
      | some seq =>
        if 256 ≤ w.ageOf cls seq then 0x04#8
        else
          match w.cmd? cls seq with
          | none => 0x04#8
          | some c => if c.stage ≠ .signalled then 0x01#8 else c.status

/-- The status of what an h register holds (R209, R331). -/
def Group.handleStatus (g : Group) (w : Wave) (x : HVal) : Byte :=
  match x with
  | .null | .obj _ => 0x00#8
  | .own cls seq => w.ownStatus cls seq
  | .ref r => g.refStatus r

/-- The word that HMOV moves out of an h register (R208, R236, R331). -/
def Wave.handleOut (w : Wave) (x : HVal) : Word :=
  match x with
  | .null => 0
  | .obj r | .ref r => r
  | .own cls seq => handleWord cls w.id seq

/-- A wave with a new command of a class: its sequence number, and its handle in the h register it names (R206). -/
def Wave.addCmd (w : Wave) (c : Cmd) (h : Option Nat) : Wave :=
  let seq := w.nextSeq c.cls
  let w := { w with cmds := w.cmds ++ [{ c with seq := seq, order := w.order }], order := w.order + 1,
                    seqs := put 0 w.seqs c.cls (seq + 1) }
  let w := match h with
    | some r => w.setH r (.own c.cls seq)
    | none => w
  { w with cmds := w.cmds.filter w.keeps }

/-- The key of a local byte in `Cmd.sample` and `Cmd.late`, scratchpad being that of a die; local bytes stand above every key of main
memory. -/
def localKey (die : Nat) (sp : Bool) (a : Nat) : Nat := if sp then 2 ^ 61 + spadKey die a else 2 ^ 62 + a

/-- Local bytes from a key on as a command reads them: those that its unit has read already stand as they were then (R154, R212). -/
def Cmd.mixed (c : Cmd) (key : Nat) (bytes : List Byte) : List Byte :=
  if c.sample.isEmpty then bytes
  else bytes.mapIdx (fun i b => match look 0 c.sample (key + i) with
    | 0 => b
    | x + 1 => BitVec.ofNat 8 x)

/-- A delivery to a command's local storage begun: while its group is resident the bytes land one by one, which of them now being free,
and the command is performed when all of them have (R212, R255, assumption 2); `regs` are the s registers it then writes. The units
write whole into a group that is not resident (R383). -/
def State.beginLanding (s : State) (gid wid cls seq : Nat) (status : Byte) (key : Nat) (bytes : List Byte) (regs : List (Nat × Nat)) :
    State :=
  match s.group? gid with
  | none => s
  | some g =>
    let cells := bytes.mapIdx (fun i b => (key + i, b.toNat))
    let (late, now) := if g.stat = .resident then cells.partition (fun x => s.landsLater g x.1) else ([], cells)
    let t := (s.landBytes gid now).updWave gid wid (fun w => { w with cmds := w.cmds.map (fun c =>
      if c.cls = cls && c.seq = seq && !c.done then { c with status := status, stage := .landing, late := late ++ regs } else c) })
    if g.stat = .resident then t else t.land gid wid cls seq

/-- What a command is submitted with. -/
structure Order where
  cls    : Nat
  effect : Effect
  pc     : DWord
  mask   : Mask
  h      : Option Nat
  rel    : Bool
  /-- A status found at acceptance besides the translations, such as OGRANT; 0 for none. -/
  status : Byte := 0
  /-- The pieces performed already, of a command submitted again (R419). -/
  sent   : Nat := 0
  /-- Where it stands once it is accepted: a held-back command is performed by the writing of its record (R184). -/
  stage  : CmdStage := .queued
  /-- The die of its scratchpad addresses, where it is not that of its wave (R383, R419). -/
  die    : Option Nat := none

/-- Acceptance of a command (R179, R180, R206): its pages are translated and pinned, a failure becomes its status, and it waits to
be performed. A context with no bound key is the key fault, and a page-table word in error the uncorrectable data error, which no
status carries (R203, R394). Matrix commands enter the queue of their core (R150). -/
def State.submit (s : State) (gid wid : Nat) (o : Order) : State :=
  match s.group? gid with
  | none => s
  | some g =>
    let (vas, acc) := o.effect.accessFrom o.sent
    let core := (g.wave? wid).elim 9 Wave.core
    let (r, s) := s.translateAll g.facet core g.ctx acc vas []
    let (pins, st, info) : List Pin × Byte × DWord := match r with
      | .ok pins => (pins, 0x00#8, 0)
      | .error (e, va) => ([], e, BitVec.ofNat 64 va)
    let cmd : Cmd := { cls := o.cls, seq := 0, pc := o.pc, mask := o.mask, effect := o.effect, pins := pins,
                       status := if st = 0 then o.status else st, stage := o.stage, begun := false, sent := o.sent, reported := false, rel := o.rel,
                       order := 0, info := info, since := s.edges, moved := [], sample := [], asked := false, posted := false, via := [],
                       lost := false, die := o.die.getD g.die, late := [] }
    if st = 0xFE#8 then s.uncorrectable gid wid o.pc info.toNat
    else if st = 0xFD#8 then s.raiseFault gid wid codeKey o.pc
    else match g.wave? wid with
    | none => s
    | some w =>
      let s := s.updWave gid wid (fun w => w.addCmd cmd o.h)
      if o.cls = 4 then { s with matq := insertMat (s.laterEntry g w) (.cmd g.facet w.core gid wid (w.nextSeq 4)) s.matq } else s

/-- The h register that a handle operand names (R153). -/
def handleReg : Operand → Option Nat
  | .h n => some n
  | _ => none

/-! ### Effects that a divisible task holds back (R184, R238) -/

/-- The pattern of BFILL from byte 0 of a row on (R226). -/
def patternBytes (x : Word) (n : Nat) : List Byte := (List.range n).map (fun j => BitVec.ofNat 8 (bits x (8 * (j % 4)) 8))

/-- The local byte rows of a bulk command, by main-memory address. -/
def Bulk.rowBytes (d : Bulk) (s : State) (gid : Nat) (sp : Bool) (die : Nat) : List (DWord × List Byte) :=
  d.rowList.map (fun (a, l) => (BitVec.ofNat 64 a.toNat, s.readLocal gid sp l.toNat d.len (some die)))

/-- The bytes a held-back store of `n` bytes takes (R184). -/
def storeSize (n : Nat) : Nat := 64 + roundUp n 64

/-- The bytes a scatter stores, by main-memory address. -/
def scatterBytes (s : State) (gid : Nat) (t : Ty) (src : Nat) (ls : List LaneArg) (die : Option Nat := none) : List (DWord × List Byte) :=
  ls.map (fun x => (x.addr, if src = 0 then toBytes (tySize t) x.val.toNat else s.readLocal gid (src = 2) x.loc (tySize t) die))

/-- The record that holds back an effect of a divisible task, with the bytes it takes; none where the effect is not held back (R184, R238,
R386). Scratchpad is that of a die. -/
def Effect.record (s : State) (gid die : Nat) : Effect → Option (Deferred × Nat)
  | .bulkOut d sp => some (.store 4 (d.rowBytes s gid sp die), storeSize (d.len * d.rows))
  | .bulkFill d x => some (.store 4 (d.rowList.map (fun (a, _) => (BitVec.ofNat 64 a.toNat, patternBytes x d.len))), storeSize (d.len * d.rows))
  | .scatter ty src ls => some (.store (tySize ty) (scatterBytes s gid ty src ls (some die)), storeSize (ls.length * tySize ty))
  | .atomic op ty .none ls => some (.atomic op ty ls, 64)
  | .xsum ty ls => some (.xsum ty ls, 64)
  | .xclr ls => some (.store 64 (ls.map (fun x => (x.addr, List.replicate 64 0#8))), 128)
  | .nhave sp key loc shelf => some (.announce die sp key loc shelf, 64)
  | _ => none

/-- Whether the pages that an effect touches, those of performed pieces apart, are translated without a failure (R179, R180). -/
def State.translates (s : State) (g : Group) (core : Nat) (e : Effect) (sent : Nat) : Bool :=
  let (vas, acc) := e.accessFrom sent
  match (s.translateAll g.facet core g.ctx acc vas []).1 with
  | .ok _ => true
  | .error _ => false

/-- Acceptance of a command in a group, where a divisible task may hold its effect back (R184, R238): it is accepted as any other, and is
performed by the writing of its record. A failed translation writes no record, a record with no room exhausts the task, and an uncorrectable
word among the local bytes that the record copies is consumed (R203). The second part tells whether its path goes on. -/
def State.accept (s : State) (gid wid : Nat) (o : Order) : State × Bool :=
  match (s.group? gid).bind (fun g => (g.wave? wid).map (fun w => (g, w))) with
  | none => (s, true)
  | some (g, w) =>
    let die := o.die.getD g.die
    match if g.div then o.effect.record s gid die else none with
    | none => (s.submit gid wid o, true)
    | some (d, size) =>
      let bad := ((o.effect.sharedRanges g.slots o.mask).findSome? (fun (a, n) => s.badLocal g false a n)).or
        (o.effect.spadRanges.findSome? (fun (a, n) => s.badLocal g true a n (some die)))
      if !s.translates g w.core o.effect o.sent then (s.submit gid wid o, true)
      else if let (some a, .store _ _) := (bad, d) then (s.uncorrectable gid wid o.pc a, false)
      else if g.deferCap < g.deferUsed + size then (s.exhaust gid wid o.pc, false)
      else ((s.submit gid wid { o with stage := .performed }).updGroup gid (fun g => { g with
        deferred := g.deferred ++ [(o.pc, d)]
        deferUsed := g.deferUsed + size }), true)

/-! ### Limits of queues and classes -/

/-- Whether a group holds wave slots: it is resident, or its waves have left and some command has not completed (R316). -/
def Group.holdsSlots (g : Group) : Bool :=
  g.stat = .resident || (g.stat = .exited && g.waves.any (fun w => w.cmds.any (fun c => c.stage ≠ .signalled)))

/-- The groups that hold slots of a facet. -/
def State.onFacet (s : State) (facet : Nat) : List Group := s.groups.filter (fun g => g.facet = facet && g.holdsSlots)

/-- The commands that the copy engine of a core holds (R179). -/
def State.copyQueue (s : State) (facet core : Nat) : Nat :=
  (s.onFacet facet).foldl (fun acc g =>
    (g.waves.filter (fun w => w.core = core)).foldl (fun acc w =>
      acc + (w.cmds.filter (fun c => c.cls ≤ 3 && !c.done)).length) acc) 0

/-- The matrix commands that wait on a core (R150). -/
def State.matrixQueue (s : State) (facet core : Nat) : Nat :=
  (s.matq.filter (fun e => match e with
    | .cmd f c _ _ _ => f = facet && c = core
    | .mpoint _ _ _ _ _ => false)).length

/-- Whether a command of a class must wait: 256 of its class are outstanding in its wave, or the queue of its engine is full (R151, R179,
R206). -/
def State.classFull (s : State) (g : Group) (w : Wave) (cls : Nat) : Bool :=
  256 ≤ (w.outstanding cls).length
    || (cls ≤ 3 && 64 ≤ s.copyQueue g.facet w.core)
    || (cls = 4 && 32 ≤ s.matrixQueue g.facet w.core)

end Sys2Proof.Machine
end

