-- ==== Sys2Proof/Machine/Ops.lean ====
section
/-! DEFINITION. Taking a trap and returning from one, reporting a command, convergence and barriers, and the issue of one
instruction. -/

namespace Sys2Proof.Machine

open Sys2Proof

/-! ### Taking a trap (R408 to R411) -/

/-- What a trap is taken with: its lanes, code, recorded PC, return PC and information, and the command it reports. -/
structure TrapInfo where
  lanes  : Mask
  code   : Code
  pc     : DWord
  rpc    : DWord
  info   : DWord
  cmd    : Option (Nat × Nat) := none
  status : Byte := 0
  hreg   : Option Nat := none

/-- The token of a waiting frame (R414). -/
def escToken (g w frame : Nat) : Nat := (g * 128 + w) * 2 ^ 24 + frame % 2 ^ 24

/-- An escalation message as bytes (R414). -/
def Escalation.bytes (e : Escalation) : List Byte :=
  toBytes 32 (e.code.toNat + e.ctx * 2 ^ 32 + e.kind * 2 ^ 48 + e.facet * 2 ^ 50 + e.pc.toNat * 2 ^ 64 + e.addr.toNat * 2 ^ 128
    + e.token * 2 ^ 194)

/-- A page request posted to the ring of PRSET, and its vector signalled (R442). -/
def State.postRequest (s : State) (e : Escalation) : State :=
  let h := s.host
  if h.prSize = 0 then s
  else
    let s := s.writeRaw 0 (hostKey (h.prBase.toNat + 32 * (h.prTail % h.prSize))) e.bytes
    { s with host := { h with prTail := h.prTail + 1 }, irqs := s.irqs ++ [h.prVec] }

/-- A page request that a firmware core looks at: whether it can meet it from the partition's free frames is free, and where it cannot, it
is posted to the host (R442, assumption 2). While the firmware cores change images, it waits (R443). -/
def State.servePage (s : State) (e : Escalation) (kind index : Nat) : State :=
  if s.host.fwNext.isSome then { s with host := { s.host with fwHeld := s.host.fwHeld ++ [e] } }
  else if Config.freeBit s.tick kind index then s.postRequest e
  else s

/-- A page request of a frame goes to its die's escalation port (R414, R415). -/
def State.pageRequest (s : State) (g : Group) (w frame : Nat) (addr pc : DWord) : State :=
  let e : Escalation := ⟨g.die, escToken g.id w frame, addr, pc, g.facet, 0, g.ctx, codePage, none⟩
  { s with esc := s.esc ++ [e] }.servePage e 0x301 frame

/-- The wave after trap entry: the frame is pushed, the lanes leave their path and lose their reservations, and they form a
sub-wave with one path (R408, R410). `pc` is where that path stands. -/
def Wave.pushFrame (w : Wave) (p : Path) (t : TrapInfo) (pc : DWord) (esc : Bool) : Wave :=
  let f : Frame := { id := w.nextId, code := t.code, pc := t.pc, rpc := t.rpc, info := t.info, mask := t.lanes, prio := p.prio,
                     parent := p.fr, cmd := t.cmd, status := t.status, hreg := t.hreg, esc := esc }
  let w := w.loseResv t.lanes
  { w with frames := f :: w.frames, nextId := w.nextId + 2, fresh := [],
           paths := dropLanes w.paths t.lanes ++ [⟨w.nextId + 1, w.nextId, pc, p.prio, t.lanes, .ready⟩] }

/-- `trap_entry` of R408 for lanes of a path. A fifth frame is the trap overflow. With no handler: TRAP and name-expired end the
launch or the free wave, a cancel aborts the task, and page-not-present waits for the firmware core (R411). A trap that arises in a
launch once a fault of it has arrived is discarded, and its wave issues nothing more (R413). -/
def State.trapEntry (s : State) (gid wid : Nat) (p : Path) (t : TrapInfo) : State :=
  match s.group? gid with
  | none => s
  | some g =>
    match g.wave? wid with
    | none => s
    | some w =>
      if s.ending g then s.updWave gid wid (fun w => { w with dead := true, park := .no, held := none, fresh := [] })
      else if 4 ≤ w.frames.length then s.raiseFault gid wid codeOverflow t.pc
      else if w.trapVec ≠ 0 then s.updWave gid wid (fun w => w.pushFrame p t w.trapVec false)
      else if t.code = codePage then
        (s.updWave gid wid (fun w => w.pushFrame p t t.rpc true)).pageRequest g wid w.nextId t.info t.pc
      else if t.code = codeCancel then s.abortTask gid
      else s.raiseFault gid wid t.code t.pc

/-! ### Returning from a trap (R419) -/

/-- A frame popped: its lanes that have not exited go to its return PC and priority, in the frontier it was pushed from. Where they join a
path whose instruction waits, the joined path issues it anew (R293, assumption 20). -/
def Wave.popFrame (w : Wave) (f : Frame) : Wave :=
  let lanes := f.mask &&& ~~~w.exited
  let rest := w.paths.filter (fun p => p.fr ≠ f.id)
  let paths := if lanes = 0 then rest else rest ++ [⟨w.nextId, f.parent, f.rpc, f.prio, lanes, .ready⟩]
  Wave.merge { w with frames := w.frames.filter (fun x => x.id ≠ f.id), fresh := [], nextId := w.nextId + 1, paths := paths,
                      asOf := if w.held.any (crowded paths) then none else w.asOf }

/-- The command of a frame submitted again, without the pieces that are performed: a new command, whose handle replaces that of the
reported one where the reporting h register still names it, and which a divisible task holds back as it did the first (R184, R419). -/
def State.resubmit (s : State) (gid wid : Nat) (f : Frame) : State :=
  match f.cmd with
  | none => s
  | some (cls, seq) =>
    match (s.group? gid).bind (fun g => g.wave? wid) with
    | none => s
    | some w =>
      match w.cmd? cls seq with
      | none => s
      | some c =>
        let h := match f.hreg with
          | some r => if w.h? r = .own cls seq then some r else none
          | none => none
        (s.accept gid wid { cls := cls, effect := c.effect, pc := c.pc, mask := c.mask, h := h, rel := c.rel, sent := c.sent, die := some c.die }).1

/-- Whether every lane of a frame that has not exited stands at an RTT. -/
def Wave.frameReturns (w : Wave) (f : Frame) : Bool :=
  let ps := w.paths.filter (fun p => p.fr = f.id)
  let stands := ps.filter (fun p => match p.wait with
    | .rtt _ => true
    | _ => false)
  let lanes := stands.foldl (fun acc p => acc ||| p.mask) (0 : Mask)
  !f.esc && f.mask &&& ~~~w.exited ≠ 0 && lanes = f.mask &&& ~~~w.exited

/-- Whether the command of a frame can be submitted again now: there is room for one more of its class (R206, assumption 96). -/
def State.mayResubmit (s : State) (g : Group) (w : Wave) (f : Frame) : Bool :=
  f.cmd.all (fun x => !s.classFull g w x.1)

/-- Whether a frame whose lanes all stand at an RTT returns now: an RTT.RPL waits for room for its command (R206, assumption 96). -/
def State.mayReturn (s : State) (g : Group) (w : Wave) (f : Frame) : Bool :=
  let at_ := fun (n : Nat) => w.paths.any (fun p => p.fr = f.id && p.wait = .rtt n)
  w.frameReturns f && (at_ 2 || !at_ 1 || s.mayResubmit g w f)

/-- The return from a frame whose lanes all stand at an RTT (R419). -/
def State.returnFrame (s : State) (gid wid : Nat) (f : Frame) : State :=
  match (s.group? gid).bind (fun g => (g.wave? wid).map (fun w => (g, w))) with
  | none => s
  | some (g, w) =>
    let ps := w.paths.filter (fun p => p.fr = f.id)
    let at_ := fun (n : Nat) => ps.find? (fun p => p.wait = .rtt n)
    match at_ 2 with
    | some p =>
      if f.code ≠ codePage then s.raiseFault gid wid codeOperand p.pc
      else
        (s.updWave gid wid (fun w => { w with
          frames := w.frames.map (fun x => if x.id = f.id then { x with esc := true } else x) })).pageRequest g wid f.id f.info f.pc
    | none =>
      match at_ 1 with
      | some p =>
        if f.cmd = none then s.raiseFault gid wid codeOperand p.pc
        else (s.resubmit gid wid f).updWave gid wid (fun w => w.popFrame f)
      | none => s.updWave gid wid (fun w => w.popFrame f)

/-! ### Convergence and barriers (R309 to R314) -/

/-- The lanes that a CONV of a path needs: its own, and every present lane or the named ones, without those that have exited. In
a handler, only lanes of its sub-wave (R309). -/
def Wave.needed (w : Wave) (p : Path) (named : Option Mask) : Mask :=
  let all := (p.mask ||| (match named with
    | none => w.present
    | some m => m &&& w.present)) &&& ~~~w.exited
  match w.frame? p.fr with
  | none => all
  | some f => all &&& f.mask

/-- Whether a path waits at a CONV that every needed lane has reached. -/
def Wave.convMet (w : Wave) (p : Path) : Bool :=
  match p.wait with
  | .conv named => w.needed p named &&& ~~~p.mask = 0
  | _ => false

/-- The kinds, and the bit of each class of command, that a fence of R231 waits for. Local accesses are performed at issue. -/
def fenceCovers (kinds cls : Nat) : Bool :=
  match cls with
  | 1 | 2 | 3 => kinds.testBit 1
  | 4 => kinds.testBit 2
  | 5 => kinds.testBit 3
  | _ => kinds.testBit 4

/-- Whether an effect writes a g register when it is performed (R231, R247). -/
def Effect.writesG : Effect → Bool
  | .npeek _ (.g _) | .call (.oinfo _ _ (.g _)) => true
  | _ => false

/-- Whether every access of the named kinds that the wave has issued is performed. -/
def Wave.fenced (w : Wave) (kinds : Nat) : Bool :=
  w.allDone (fun c => w.before c && (fenceCovers kinds c.cls || (kinds.testBit 5 && c.effect.writesG)))

/-- The barrier that every lane of the wave stands at, with the fence kinds and counts of its paths (R312). Lanes in a handler have
not returned. Where BARs of several kinds are stood at, the arrival fences all of their kinds (assumption 101). -/
def Wave.standsAt (w : Wave) : Option (Nat × Nat × List (Option Nat)) :=
  let bars := w.paths.map (fun p => match p.wait with
    | .bar n k c => if p.fr = 0 then some (n, k, c) else none
    | _ => none)
  match bars.head? with
  | some (some (n, _, _)) =>
    if bars.all (fun b => match b with
      | some (m, _, _) => m = n
      | none => false)
    then some (n, bars.foldl (fun acc b => acc ||| b.elim 0 (fun x => x.2.1)) 0, bars.filterMap (fun b => b.map (fun x => x.2.2)))
    else none
  | _ => none

/-- Whether a path waits for lanes of its own wave (R310). -/
def Wave.blocked (w : Wave) (p : Path) : Bool :=
  match p.wait with
  | .conv _ => !w.convMet p
  | .bar _ _ _ => w.standsAt.isNone
  | _ => false

/-- The path at which the convergence fault is raised: every path is blocked within the wave, and no sub-wave is parked (R310). -/
def Wave.stuck (w : Wave) : Option Path :=
  if w.frames.isEmpty && !w.paths.isEmpty && w.paths.all w.blocked then bestPath w.paths else none

/-- Waves of the group with a lane that has not exited. -/
def Group.liveWaves (g : Group) : List Wave := g.waves.filter Wave.alive

/-- One wave's arrival at the barrier it stands at, once its fence is passed: the barrier fault where its form or count differs
from that of the phase (R312, R313). -/
def State.arrive (s : State) (gid wid : Nat) : State :=
  match (s.group? gid).bind (fun g => (g.wave? wid).map (fun w => (g, w))) with
  | none => s
  | some (g, w) =>
    match w.standsAt with
    | none => s
    | some (n, kinds, counts) =>
      let b := look ⟨[], none⟩ g.bars n
      if w.dead || b.arrived.contains wid || !w.fenced kinds then s
      else
        let count := counts.headD none
        if counts.any (fun x => x ≠ count) || (!b.arrived.isEmpty && b.count ≠ count) then
          s.raiseFault gid wid codeBar ((bestPath w.paths).elim 0 Path.pc)
        else s.updGroup gid (fun g => { g with bars := put ⟨[], none⟩ g.bars n ⟨b.arrived ++ [wid], count⟩ })

/-- A wave released from a barrier: its waiting paths continue at the next word. -/
def Wave.releaseBar (w : Wave) (n : Nat) : Wave :=
  Wave.merge { w with paths := w.paths.map (fun p => match p.wait with
    | .bar m _ _ => if m = n then { p with pc := p.pc + 12, wait := .ready } else p
    | _ => p) }

/-- A phase of a barrier completes: the first arrivals up to the expected number are released, and later ones stay for the next
phase (R313). With a wave that is ordered after an MPOINT, or has issued it, all that are released are ordered after it (R420). -/
def Group.releasePhase (g : Group) (n : Nat) : Group :=
  let b := look ⟨[], none⟩ g.bars n
  let expected := b.count.getD g.liveWaves.length
  if b.arrived.isEmpty || b.arrived.length < expected then g
  else
    let out := b.arrived.take expected
    let points := (g.points.map (fun (p, ws) => if out.all ws.contains then (p, ws) else (p, ws.filter (fun x => !out.contains x)))).filter
      (fun x => !x.2.isEmpty)
    { g with bars := put ⟨[], none⟩ g.bars n ⟨b.arrived.drop expected, if b.arrived.length = expected then none else b.count⟩,
             points := points, faint := g.faint.filter (fun f => points.any (fun p => p.1 = f.point)),
             waves := g.waves.map (fun w => if out.contains w.id then w.releaseBar n else w) }

/-- Barriers 0 to 15 of a group. -/
def Group.releaseAll (g : Group) : Group := (List.range 16).foldl (fun g n => g.releasePhase n) g

/-- One round of what a wave's lanes can complete among themselves: a return from a trap, or every CONV that is met; none where
nothing completes. -/
def State.settleOnce (s : State) (gid wid : Nat) : Option State :=
  match (s.group? gid).bind (fun g => (g.wave? wid).map (fun w => (g, w))) with
  | none => none
  | some (g, w) =>
    if w.dead then none
    else
      match w.frames.find? (s.mayReturn g w) with
      | some f => some (s.returnFrame gid wid f)
      | none =>
        if w.paths.any w.convMet then
          some (s.updWave gid wid (fun w =>
            Wave.merge { w with paths := w.paths.map (fun p =>
              if w.convMet p then { p with pc := p.pc + 12, wait := .ready } else p) }))
        else none

/-- Rounds until nothing more completes; a wave has at most 64 paths and 4 frames. -/
def State.settleWave : Nat → State → Nat → Nat → State
  | 0, s, _, _ => s
  | k + 1, s, gid, wid =>
    match s.settleOnce gid wid with
    | none => s
    | some t => State.settleWave k t gid wid

/-- The convergence fault of a wave that can no longer move (R310). -/
def State.checkStuck (s : State) (gid wid : Nat) : State :=
  match (s.group? gid).bind (fun g => g.wave? wid) with
  | none => s
  | some w =>
    if w.dead then s
    else
      match w.stuck with
      | some p => s.raiseFault gid wid codeConv p.pc
      | none => s

/-! ### Regions that wait to be freed (R328, R329) -/

/-- Whether a command that is not complete uses bytes of a region of a context on a die. -/
def State.regionUsed (s : State) (ctx die a n : Nat) : Bool :=
  s.groups.any (fun g => g.ctx = ctx && g.waves.any (fun w => w.cmds.any (fun k =>
    k.stage ≠ .signalled && k.die = die && k.effect.spadRanges.any (fun (b, m) => meets b m a n))))

/-- A region that no command uses any more is returned, and the wave that freed it goes on. -/
def State.freeRegion (s : State) (g : Group) (w : Wave) : State :=
  match w.park with
  | .sfree facet base =>
    match (s.facet facet).regions.find? (fun r => r.base = base) with
    | some r =>
      if s.regionUsed r.ctx (facet / 4) (facet % 4 * 2 ^ 26 + base) r.size then s
      else (s.updFacet facet (fun x => { x with regions := x.regions.filter (fun y => y.base ≠ base) })).updWave g.id w.id Wave.unpark
    | none => s.updWave g.id w.id Wave.unpark
  | _ => s

/-- Every SFREE that waits, looked at again. -/
def State.freeRegions (s : State) : State :=
  s.groups.foldl (fun s g => g.waves.foldl (fun s w => s.freeRegion g w) s) s

/-- Whether every wave of a group has stopped for a save: at a yield point, by leaving, or at the deadline (R424). -/
def Group.allStopped (g : Group) : Bool :=
  g.preempt.any (fun p => p.forced || g.liveWaves.all (fun w => w.park = .stopped))

/-- The place of a group's stop kept once its waves have all stopped (R424). -/
def Group.noteStop (g : Group) (now : Nat) : Group :=
  { g with stopAt := if !g.allStopped then none else match g.stopAt with
    | some n => some n
    | none => some now }

/-- The group, wave and frame that a token names, if the frame still waits (R414, R415). -/
def State.waitingFrame (s : State) (token : Nat) : Option (Nat × Nat × Frame) :=
  s.groups.findSome? (fun g => g.waves.findSome? (fun w =>
    (w.frames.find? (fun f => f.esc && escToken g.id w.id f.id = token)).map (fun f => (g.id, w.id, f))))

/-- An answer applied: retry pops the frame as RTT.RPL does, with its command submitted again; end ends the launch with the
page-not-present code, or the free wave (R415). In a launch that a fault has ended, an answer does nothing (R413). -/
def State.applyAnswer (s : State) (token : Nat) (retry : Bool) : State :=
  match s.waitingFrame token with
  | none => s
  | some (g, w, f) =>
    if (s.group? g).any s.ending then s
    else if retry then (s.resubmit g w f).updWave g w (fun x => x.popFrame f)
    else s.raiseFault g w codePage f.pc

/-- Whether an answer can be applied now: its group holds slots (R426), and a retry has room for its command (R206, assumption 96). -/
def State.mayAnswer (s : State) (token : Nat) (retry : Bool) : Bool :=
  match s.waitingFrame token with
  | none => true
  | some (gid, wid, f) => (s.group? gid).all (fun g => g.holdsSlots
      && (!retry || s.ending g || (g.wave? wid).all (fun w => s.mayResubmit g w f)))

/-- The answers that a group keeps applied, those that still have to wait apart (R415, R426). -/
def State.takeAnswers (s : State) (gid : Nat) : State :=
  ((s.group? gid).elim [] Group.answers).foldl (fun s x =>
    if s.mayAnswer x.1 x.2 then
      (s.updGroup gid (fun g => { g with answers := g.answers.erase x })).applyAnswer x.1 x.2
    else s) s

/-- Everything that the waves of a group complete among themselves: answers that have waited, returns, convergence, arrivals, phases and the
convergence fault; and whether they have stopped. -/
def State.settle (s : State) (gid : Nat) : State :=
  match s.group? gid with
  | none => s
  | some g =>
    let ids := g.waves.map Wave.id
    let s := ids.foldl (fun s w => State.settleWave 72 s gid w) (s.takeAnswers gid)
    let s := ids.foldl (fun s w => s.arrive gid w) s
    let s := s.updGroup gid Group.releaseAll
    let s := ids.foldl (fun s w => State.settleWave 72 s gid w) s
    (ids.foldl (fun s w => s.checkStuck gid w) s).updGroup gid (fun g => g.noteStop s.tick)

/-- What the waves of every resident group complete among themselves after a device event: a barrier's fence may have been passed, and a
region may be free. -/
def State.settleAll (s : State) : State :=
  let s := s.freeRegions
  (s.groups.filter (fun g => g.stat = .resident)).foldl (fun s g => s.settle g.id) s

/-- The issuing path gone on to the next word, before some of its lanes take a trap there. -/
def Ctx.goOn (c : Ctx) (s : State) : State := c.updWave s (fun w => w.advance c.path.id)

/-! ### Reporting (R210) -/

/-- The first command of a list that an own handle would report: it is signalled, has not been reported and raises something. -/
def toReport (cs : List Cmd) : Option Cmd :=
  cs.find? (fun c => c.stage = .signalled && !c.reported && (statusCode c.status).isSome)

/-- A command reported at an instruction: it becomes reported, and its trap is taken or its fault raised (R209, R210). `hreg` is
the h register whose read reports it. -/
def Ctx.report (c : Ctx) (s : State) (k : Cmd) (hreg : Option Nat) : State :=
  let s := c.updWave s (fun w => { w with
    cmds := w.cmds.map (fun x => if x.cls = k.cls && x.seq = k.seq then { x with reported := true } else x) })
  match statusCode k.status with
  | none => s
  | some code =>
    if recoverable code then
      s.trapEntry c.grp.id c.wave.id c.path
        { lanes := c.act, code := code, pc := k.pc, rpc := c.path.pc,
          info := if code = codePage then k.info else 0, cmd := some (k.cls, k.seq), status := k.status, hreg := hreg }
    else s.raiseFault c.grp.id c.wave.id code k.pc k.info

/-! ### The issue of one instruction -/

/-- What an instruction does once its operands are legal and a lane is active. -/
inductive Res where
  /-- Its effect is made, and its path goes on at the next word. -/
  | done (s : State)
  /-- Its effect is made, and it has placed its paths itself. -/
  | moved (s : State)
  /-- It does not issue yet and is tried again; `park` tells a park from another wait (R55). -/
  | wait (park : Bool) (s : State)
  /-- It parks until commands of the PORT class are signalled, and is tried again then. -/
  | waitPort (seqs : List Nat) (s : State)
  /-- It raises an unrecoverable fault and has no effect. -/
  | fault (code : Code)

/-- The sequence numbers of the PORT-class commands that handles name; none where one names a command of another class (R341). -/
def waitedPort : List HVal → Option (List Nat)
  | [] => some []
  | x :: xs =>
    match x, waitedPort xs with
    | .null, some l | .obj _, some l => some l
    | .own cls seq, some l => if cls = 6 then some (seq :: l) else none
    | .ref r, some l => if bits r 29 3 = 6 then some (bits r 0 20 :: l) else none
    | _, none => none

/-- Handle registers read as sources: the wave parks until all are complete, and then the lowest-numbered own handle that raises
something is reported (R210, R211). None where the instruction goes on. -/
def Ctx.readHandles (c : Ctx) (regs : List Nat) : Option Res :=
  let xs := regs.map (fun r => (r, c.wave.h? r))
  let left := (xs.map (fun y => y.2)).filter (fun x => c.grp.handleStatus c.wave x = 0x01#8)
  if !left.isEmpty then some (match waitedPort (xs.map (fun y => y.2)) with
    | some _ => .waitPort ((waitedPort left).getD []) c.st
    | none => .wait true c.st)
  else
    let raising := xs.findSome? (fun (r, x) => match x with
      | .own cls seq => (toReport ((c.wave.cmd? cls seq).toList)).map (fun k => (r, k))
      | _ => none)
    raising.map (fun (r, k) => .moved (c.report (c.goOn c.st) k (some r)))

/-- Whether a source in A or B can be the long immediate: IMM holds it alone, or beside a table, a type, a position or an element
number, but not beside an offset or a third source (R51, assumption 13). -/
def longAllowed (op : Nat) : Bool :=
  match encRow op with
  | some r => [ImmUse.value, .compare, .zero, .lut, .cvt, .pos, .elem].contains r.imm
  | none => false

/-- Whether the third source in IMM[11:0] can be the long immediate: for the control word of PRMT (R122, assumption 13). -/
def longThird (op : Nat) : Bool := op = 0x44

/-- The legality of the operands D, A, B and the one in IMM[11:0] (R61 step 3). At most one source is a long immediate (R51). -/
def Ctx.operandsOk (c : Ctx) (op : Nat) (d a b : Allow) (x : Option Allow) : Bool :=
  let ok := legalOperand c.firmware c.grp.cur (longAllowed op)
  ok d c.form.d && ok a c.form.a && ok b c.form.b
    && (match x with
        | some k => legalOperand c.firmware c.grp.cur (longThird op) k c.form.c
        | none => true)
    && !(c.form.a = .long && c.form.b = .long)

/-- The context of an issue: the wave set to issue, unparked, with its path and active lanes. -/
def State.context (s : State) (f : Form) : Option Ctx :=
  match s.issuer? with
  | none => none
  | some (g, w, p) =>
    let w' := w.takeUp p.id
    let s' := s.updWave g.id w.id (fun _ => w')
    some { st := s', grp := g.setWave w', wave := w', path := p, act := activeLanes s.tick w' p f.guard, form := f }

/-- One instruction issued by the wave set to issue (R61): the legality of its operands, whatever the guard; then, if a lane is
active, `body`. `extra` holds checks of step 3 that are not of one operand alone. -/
def issueInstr (op : Nat) (f : Form) (s : State) (d a b : Allow) (x : Option Allow) (extra : Ctx → Bool) (body : Ctx → Res) :
    Host.Outcome State Fault Refusal :=
  match s.context f with
  | none => .fault .noIssuer
  | some c =>
    if !(c.operandsOk op d a b x && extra c) then .next (c.st.raiseFault c.grp.id c.wave.id codeOperand c.path.pc)
    else if c.act = 0 then .next (c.finish op true c.st)
    else
      match body c with
      | .done t => .next (c.finish op true t)
      | .moved t => .next (c.finish op false t)
      | .wait park t => .next (c.waits park none t)
      | .waitPort seqs t => .next (c.waits true (some seqs) t)
      | .fault code => .next (c.st.raiseFault c.grp.id c.wave.id code c.path.pc)

end Sys2Proof.Machine
end

