-- ==== Sys2Proof/Machine/Fetch.lean ====
section
/-! DEFINITION. What a turn of a wave does before its instruction: whether it may issue, and the faults of fetch and decode; and a
machine with one wave set to issue a given word. -/

namespace Sys2Proof.Machine

open Sys2Proof

/-- Whether a wave may be asked to issue: its group is resident, it has not stopped, and what it waits for is an instruction that
is tried again. -/
def Group.issuable (g : Group) (w : Wave) : Bool :=
  g.stat = .resident && !w.dead && w.choose.isSome && !g.preempt.any Preempt.forced &&
    (match w.park with
     | .no | .retry _ _ => true
     | _ => false)

/-- Whether the waves of a group's launch have stopped: a fault of it has been pending for 2,000 reference cycles (R412). -/
def State.mustStop (s : State) (g : Group) : Bool := s.faults.any (fun f => g.launch = some f.launch && f.edge + 2000 ≤ s.edges)

/-- Whether the deadline of a group's pre-emption request has passed: its waves stop at their next instruction boundary, and in the
cycle of the deadline they still issue (R317, R424). -/
def State.pastDeadline (s : State) (g : Group) : Bool := g.preempt.any (fun p => p.deadline.toNat < (s.facet g.facet).ref.toNat)

/-- The fault or trap of a fetch that failed: R195 and R394 for the status, R459 for the address. It takes every lane of the
path (R61, R407), and a fairness run of the path is over (R296). -/
def State.fetchFault (s : State) (g : Group) (w : Wave) (p : Path) (st : Byte) (va : Nat) : State :=
  match st.toNat with
  | 0x10 => (s.trapEntry g.id w.id p { lanes := p.mask, code := codePage, pc := p.pc, rpc := p.pc, info := BitVec.ofNat 64 va }).updWave
      g.id w.id (fun w => { w.unpark.merge with asOf := none })
  | 0xFC => s.raiseFault g.id w.id codeFetch p.pc (BitVec.ofNat 64 va)
  | 0xFD => s.raiseFault g.id w.id codeKey p.pc
  | 0xFE => s.uncorrectable g.id w.id p.pc va
  | _ => s.raiseFault g.id w.id ((statusCode st).getD codeFetch) p.pc (BitVec.ofNat 64 va)

/-- An instruction of a group issued: with the first issue of its launch its facet's bank takes the reference cycles since the TAIL write
that published it (R399), and with the first issue of the launch's first task the promise of R274 is kept (R3). -/
def State.firstIssue (s : State) (g : Group) : State :=
  match g.launch.bind s.launch? with
  | some l =>
    let s := if l.issued then s else s.capture g.facet g.ctx 5 (s.edges - l.tailAt)
    s.updLaunch l.id (fun l => { l with issued := true, due := if l.isFirst g.task then none else l.due })
  | none => s

/-- The state `t` after a turn of a wave that `s` set to issue: the issue counts as one of its launch, unless the instruction waits
without issuing (R55, R206, R231). -/
def State.noteIssue (s : State) (gid wid : Nat) (t : State) : State :=
  match s.group? gid with
  | none => t
  | some g =>
    if ((t.group? gid).bind (fun x => x.wave? wid)).any (fun w => match w.park with
        | .retry false _ => true
        | _ => false) then t
    else t.firstIssue g

/-- The state in the core clock of its facet in which a wave of a group issues: a new one where the wave, or four waves of its core, have
issued in the current one, or an MPOINT of the group, and else the current or a new one as a free choice (R22, R33, R420,
assumption 2). -/
def State.startClock (s : State) (g : Group) (w : Wave) : State :=
  let on := s.groups.filter (fun x => x.facet = g.facet)
  let here := on.flatMap (fun x => x.clock.filter (fun z => x.waves.any (fun y => y.id = z.1 && y.core = w.core)))
  let s := if on.all (fun x => x.clock.isEmpty) || g.clock.any (fun z => z.1 = w.id) || 4 ≤ here.length
      || g.points.any (fun p => g.clockAt ≤ p.1) || Config.freeBit s.tick 0x310 w.id then s.newClock g.facet else s
  s.updGroup g.id (fun x => { x with clock := (w.id, w.nextSeq 4) :: x.clock })

/-- A turn of a wave up to its instruction: the group and wave set to issue with its path and word, or the state where no
instruction issues. -/
def State.fetchTurn (s : State) (gid wid : Nat) : Except State (State × BitVec 96) :=
  match (s.group? gid).bind (fun g => (g.wave? wid).map (fun w => (g, w))) with
  | none => .error s
  | some (g, w) =>
    if !g.issuable w || s.mustStop g || s.pastDeadline g then .error s
    else
      let w := w.startRun
      let s := { (s.updWave gid wid (fun _ => w)).startClock g w with cur := some (gid, wid) }
      match w.choose with
      | none => .error s
      | some p =>
        match s.fetch g.facet w.core g.ctx p.pc.toNat with
        | (.error (st, va), s) => .error (s.fetchFault g w p st va)
        | (.ok x, s) => .ok (s, x)

/-- A word that is no instruction raises the illegal-instruction fault at its PC (R61). -/
def State.illegalWord (s : State) : State :=
  match s.issuer? with
  | none => s
  | some (g, w, p) => s.raiseFault g.id w.id codeInstr p.pc

/-! ### A machine set to issue one word -/

/-- Where the tables, the code frame and the code of `State.withWord` stand. -/
def bootRoot : Nat := 0x100000
def bootFrame : Nat := 0x200000
def bootPc : Nat := 0x4000

/-- The context whose code `State.withWord` places: number 1, over the whole package (assumption 1). -/
def bootCtx : CtxDesc :=
  { num := 1, nspace := 0x400020#32, kslot := 1, pbase := 0, plog2 := 6, root := bootRoot, ending := false, area := 0x300000 }

/-- A launch record of one wave with the largest allotments (assumption 1). -/
def bootRec : LaunchRec :=
  let a : Allot := ⟨256, 384, 384 * 1024, 32⟩
  { code := BitVec.ofNat 64 bootPc, entry := 0, shape := (64, 1, 1), pclass := 1, div := false, level := 2, allow := 0,
    ext := (1, 1, 1), init := (1, 1, 1), min := (1, 1, 1), defer := 0, spill := 4096, sceil := 4095, pro := a, full := a,
    slots := List.replicate 8 0#16, compl := 0, cancel := 0, tag := 0, entryPrio := 0 }

/-- A launch of one task that runs (assumption 1). -/
def bootLaunch (id : Nat) : Launch :=
  { id := id, ctx := 1, queue := 0, facet := 0, level := 2, recd := bootRec, stat := .accepted, tasks := [], total := 1,
    cancel := false, cancelAt := 0, bits := 0, fault := none, retired := 0, dropped := 0, aborted := 0, splits := 0, exitMax := 0, exitOr := 0,
    startRef := 0, headFrom := 0, started := 1, complKey := 0, cancelKey := none, tailAt := 0, issued := true, due := none }

/-- A machine whose next turn issues the word `w`: a live context with its key, tables and an executable page, and a resident wave
whose one path stands at the word (assumption 1). -/
def State.withWord (s : State) (w : Nat) : State :=
  let s := { s with
    ctxs := bootCtx :: s.ctxs.filter (fun c => c.num ≠ 1), keys := (1, 1) :: s.keys.filter (fun (k, c) => k ≠ 1 && c ≠ 1),
    tlb := s.tlb.filter (fun t => t.ctx ≠ 1), icache := [] }
  let entry := fun (s : State) (at_ x : Nat) => s.writeRaw 1 at_ (toBytes 8 x)
  let s := entry s bootRoot (2 ^ 63 + (bootRoot + 0x10000))
  let s := entry s (bootRoot + 0x10000) (2 ^ 63 + (bootRoot + 0x20000))
  let s := entry s (bootRoot + 0x20000) (2 ^ 63 + (bootRoot + 0x21000))
  let s := entry s (bootRoot + 0x21000 + 8 * (bootPc / 4096)) (2 ^ 63 + 2 ^ 62 + bootFrame + 2 ^ 8 + 2 ^ 9)
  let s := (s.writeRaw 1 bootFrame (toBytes 12 w)).writeRaw 0 bootCtx.area (descRecord bootCtx 1)
  let l := s.nextId
  let g := s.nextId + 1
  let wave := newWave 0 0 0 (BitVec.allOnes 64) (BitVec.ofNat 64 bootPc) 0 0
  let grp := newGroup g 1 0 (some l) ⟨0, 0, 0, 1, 1, 1, 0, [0], none⟩ (64, 1, 1) [wave] bootRec.pro bootRec.full bootRec.slots 4096 4095
    false 0
  { s with nextId := s.nextId + 2, launches := bootLaunch l :: s.launches, groups := grp :: s.groups,
           agenda := [.issue g 0] }

end Sys2Proof.Machine
end

