-- ==== Sys2Proof/Machine/Leave.lean ====
section
/-! DEFINITION. A wave whose last lane has left, commands that complete without being performed, and the signals of commands
(R207, R235, R316, R343). -/

namespace Sys2Proof.Machine

open Sys2Proof

/-- A command that completes with CANCELLED and has no effect (R235). It is signalled in its class order. -/
def State.cancelCmd (s : State) (gid wid cls seq : Nat) : State :=
  s.updWave gid wid (fun w => { w with cmds := w.cmds.map (fun c =>
    if c.cls = cls && c.seq = seq && !c.done then { c with status := 0x02#8, stage := .performed } else c) })

/-- The PSEND and PRECV of a wave that wait at their ports are withdrawn, as HCANCEL withdraws them: a send that its home engine has begun
runs on (R343, R358). -/
def State.withdrawWaits (s : State) (gid wid : Nat) : State :=
  match (s.group? gid).bind (fun g => g.wave? wid) with
  | none => s
  | some w =>
    let cs := w.cmds.filter (fun c => c.atPort && !c.sending)
    let s := s.dropWaits (fun x => x.peer.isNone && x.group = gid && x.wave = wid && cs.any (fun c => c.seq = x.seq))
    cs.foldl (fun s c => s.cancelCmd gid wid c.cls c.seq) s

/-- The oldest command that raises an unrecoverable fault, is signalled and has not been reported (R316). -/
def Wave.unreported (w : Wave) : Option Cmd :=
  w.cmds.find? (fun c => c.stage = .signalled && !c.reported &&
    (match statusCode c.status with
     | some k => !recoverable k
     | none => false))

/-- What follows when a wave has no lane left: a free wave is exited and what it has waiting at ports is withdrawn, and an
unreported unrecoverable status ends the launch or is recorded in the free wave (R316, R343). -/
def State.waveLeft (s : State) (gid wid : Nat) : State :=
  match (s.group? gid).bind (fun g => (g.wave? wid).map (fun w => (g, w))) with
  | none => s
  | some (g, w) =>
    if w.alive || w.dead then s
    else
      let s := if g.free.isSome then
          (s.withdrawWaits gid wid).updGroup gid (fun g => { g with stat := .exited, preempt := none })
        else s
      match w.unreported with
      | none => s
      | some k =>
        let s := s.updWave gid wid (fun w => { w with
          cmds := w.cmds.map (fun x => if x.cls = k.cls && x.seq = k.seq then { x with reported := true } else x) })
        s.raiseFault gid wid ((statusCode k.status).getD codeInstr) k.pc k.info

/-! ### Signals (R207) -/

/-- The commands of a class signalled: the performed ones that no older unperformed one of the class holds back. -/
def signalPrefix (cls : Nat) : List Cmd → Bool → List Cmd
  | [], _ => []
  | c :: cs, open_ =>
    if c.cls ≠ cls then c :: signalPrefix cls cs open_
    else if open_ && c.done then { c with stage := .signalled } :: signalPrefix cls cs true
    else c :: signalPrefix cls cs false

/-- The h register that a creating call names (R331). -/
def Call.creates : Call → Option Nat
  | .wspawn d _ _ | .pnew d _ | .snew d | .tnew d | .olook d _ => some d
  | _ => none

/-- The object handles of creating calls that have just been signalled, in the registers that still name them (R331). -/
def Wave.installHandles (w : Wave) (cs : List Cmd) : Wave :=
  cs.foldl (fun w c => match c.effect with
    | .call k =>
      (match k.creates with
       | some d => if c.status = 0 && w.h? d = .own 6 c.seq then w.setH d (.obj (BitVec.ofNat 32 c.info.toNat)) else w
       | none => w)
    | _ => w) w

/-- The quantity of R399 that a completed command gives, with its value: a count of reference cycles for named tiles and object
calls, and a free number of core clocks for the other classes (assumption 2). -/
def Cmd.captured (c : Cmd) (tick edges : Nat) : Option (Nat × Nat) :=
  match c.effect with
  | .nwant _ _ _ _ => some (3, edges - c.since)
  | .call _ => some (4, edges - c.since)
  | .matrix _ => some (2, (Config.freeWord tick 0x202).toNat)
  | _ => if c.cls ≤ 3 then some (1, (Config.freeWord tick 0x201).toNat) else none

/-- The signals of one class of a wave, and what follows when it has no lane left (R207, R316). -/
def State.signal (s : State) (g : Group) (wid cls : Nat) : State :=
  match (s.group? g.id).bind (fun g => g.wave? wid) with
  | none => s
  | some w =>
    let cmds := signalPrefix cls w.cmds true
    let fresh := cmds.filter (fun c => c.stage = .signalled && w.cmds.any (fun k => k.cls = c.cls && k.seq = c.seq && k.stage ≠ .signalled))
    let s := s.updWave g.id wid (fun w =>
      let w := ({ w with cmds := cmds } : Wave).installHandles fresh
      { w with cmds := w.cmds.filter w.keeps })
    let s := fresh.foldl (fun s c => match c.captured s.tick s.edges with
      | some (q, v) => s.capture g.facet g.ctx q v
      | none => s) s
    if w.alive then s else s.waveLeft g.id wid

/-- A command cancelled, and the signals of its class that this allows (R207, R235). -/
def State.cancelNow (s : State) (gid wid cls seq : Nat) : State :=
  let s := s.cancelCmd gid wid cls seq
  match s.group? gid with
  | none => s
  | some g => s.signal g wid cls

end Sys2Proof.Machine
end

