-- ==== Sys2Proof/Machine/Finsel.lean ====
section
/-! DEFINITION. The Finsel routers: faces, routes, interests, shelves and deliveries, and the sending side of a link port (R362 to
R373, R385, R430). -/

namespace Sys2Proof.Machine

open Sys2Proof

/-! ### Faces (R365) -/

/-- The neighbour behind a face: its router, and the face of it that leads back. Compute die r stands at row r / 4 and column
r % 4. -/
def faceLink (r face : Nat) : Option (Nat × Nat) :=
  let row := r / 4
  let col := r % 4
  if r < 16 then
    match face with
    | 4 => if 0 < row then some (r - 4, 6) else none
    | 5 => if col < 3 then some (r + 1, 7) else none
    | 6 => if row < 3 then some (r + 4, 4) else none
    | 7 => if 0 < col then some (r - 1, 5) else none
    | 8 => if col = 0 then some (16, row) else if col = 3 then some (17, row) else none
    | _ => none
  else if face < 4 then some (face * 4 + (if r = 16 then 0 else 3), 8)
  else none

/-- The Brodone Link port behind a face of a link-die router. -/
def facePort (r face : Nat) : Option Nat :=
  if 16 ≤ r && 4 ≤ face && face < 16 then some ((r - 16) * 12 + face - 4) else none

/-- The router and face of a port. -/
def portFace (p : Nat) : Nat × Nat := (16 + p / 12, p % 12 + 4)

/-- Whether a face exists on a router. -/
def faceExists (r face : Nat) : Bool :=
  (r < 16 && (face < 4 || face = 15)) || (faceLink r face).isSome || (facePort r face).isSome

/-- A data flit taken for sending on a virtual channel: it takes the next SEQ and stays in the replay buffer until an ACK covers it. `tag`
names the command whose request it carries, to the package `peer`. A port that is down or training sends later, and a retired port carries
nothing (R429 to R433). -/
def State.sendFlit (s : State) (p vc : Nat) (tag : Option (Nat × Nat × Nat × Nat)) (peer : Nat := 0)
    (data : List Byte := []) : State :=
  s.updPort p (fun x =>
    if x.state = 3 then x
    else { x with
      nextSeq := (x.nextSeq + 1) % 4096
      replay := x.replay ++ [⟨x.nextSeq, 0, (s.router (portFace p).1).ref, vc, tag, peer, data⟩] })

/-- A message sent on a face of a router. -/
def State.sendFace (s : State) (r face : Nat) (body : NetBody) : State :=
  if (s.router r).downs.contains face then s
  else
    match facePort r face, faceLink r face with
    | some p, _ => s.sendFlit p 2 none
    | none, some (r', f') => { s with net := s.net ++ [⟨r', f', body⟩] }
    | none, none => s

/-! ### Routes (R366) -/

/-- The tensor field of a name (R362). -/
def tensorOf (k : TileKey) : Nat := bits k.name 96 32

/-- Whether a route matches a name. -/
def routeCovers (t : Route) (k : TileKey) : Bool :=
  (t.space = k.nspace || t.space = 0xFFFFFFFF#32) &&
    tensorOf k / 2 ^ (32 - t.length) = t.prefx.toNat / 2 ^ (32 - t.length)

/-- The face that a router sends a name on: the longest prefix, then the route of the name's own space. None where the name is
held. -/
def State.faceFor (s : State) (r : Nat) (k : TileKey) : Option Nat :=
  let ts := (s.router r).routes.filter (fun t => routeCovers t k)
  let best := ts.foldl (fun acc t => max acc t.length) 0
  let ts := ts.filter (fun t => t.length = best)
  let pick := match ts.find? (fun t => t.space = k.nspace) with
    | some t => some t
    | none => ts.head?
  match pick with
  | some t => if r < 16 && t.face = 15 then none else some t.face
  | none => none

/-! ### Local records -/

/-- A command of the NAME class that completes with a status (R370, R376). -/
def State.completeName (s : State) (gid wid seq : Nat) (status : Byte) : State :=
  s.updWave gid wid (fun w => { w with cmds := w.cmds.map (fun c =>
    if c.cls = 5 && c.seq = seq && !c.done then { c with status := status, stage := .performed } else c) })

/-- A tile delivered to a record: to a local one the bytes go into its area, after which it completes, and a face receives a copy
(R370). A delivery into scratchpad lands in its region, wherever the group now runs (R383). -/
def State.satisfy (s : State) (r : Nat) (k : TileKey) (bytes : List Byte) (x : IntRec) : State :=
  match x.who with
  | .face f => s.sendFace r f (.tile k bytes 0 false)
  | .localCmd g w seq =>
    let s := s.beginLanding g w 5 seq 0 (if x.sp then 2 ^ 61 + x.loc else 2 ^ 62 + x.loc) bytes []
    match s.group? g with
    | some grp => s.count grp.facet grp.ctx 9 1
    | none => s

/-- A record that ends without a tile: a local one completes with EXPIRED (R369). -/
def State.expireRec (s : State) (x : IntRec) : State :=
  match x.who with
  | .localCmd g w seq => s.completeName g w seq 0x08#8
  | .face _ => s

/-! ### Shelves (R373) -/

/-- The partition that a name space's live context belongs to; none for one that is ending, no copy of which is kept (R373). -/
def State.poolOf (s : State) (space : Word) : Option (Nat × Nat) :=
  (s.ctxs.find? (fun c => c.nspace = space && !c.ending)).map (fun c => (c.pbase, c.plog2))

/-- The shelf bytes that a partition has at a router: the shares of the quarters it owns. -/
def State.shelfRoom (s : State) (r : Nat) (pool : Nat × Nat) : Nat :=
  if 16 ≤ r then 0
  else ((List.range 4).map (fun q =>
    let f := r * 4 + q
    if pool.1 ≤ f && f < pool.1 + 2 ^ pool.2 then (s.facet f).shelfUnits * 65536 else 0)).foldl (· + ·) 0

/-- The bytes of a list of copies that a pool holds. -/
def State.shelfUsed (s : State) (pool : Nat × Nat) (cs : List Shelf) : Nat :=
  (cs.filter (fun c => s.poolOf c.key.nspace = some pool)).foldl (fun acc c => acc + c.key.len) 0

/-- Transit copies of a pool given up, the least recently used first, until `need` bytes fit in `room`. -/
def State.evict (s : State) (pool : Nat × Nat) (room need : Nat) : List Shelf → List Shelf → List Shelf
  | _, [] => []
  | kept, c :: cs =>
    if s.shelfUsed pool (kept ++ c :: cs) + need ≤ room then c :: cs
    else if !c.home && s.poolOf c.key.nspace = some pool then State.evict s pool room need kept cs
    else c :: State.evict s pool room need (kept ++ [c]) cs

/-- A copy put on a shelf, if the space that its partition may use allows it. A home copy replaces an older copy of its key; a
transit copy does not replace a home copy. -/
def State.shelve (s : State) (r : Nat) (c : Shelf) : State :=
  let rt := s.router r
  match s.poolOf c.key.nspace with
  | none => s
  | some pool =>
    if !c.home && rt.shelf.any (fun x => x.key = c.key && x.home) then s
    else
      let others := rt.shelf.filter (fun x => x.key ≠ c.key)
      let room := s.shelfRoom r pool
      let fixed := s.shelfUsed pool (others.filter Shelf.home)
      if room < fixed + c.key.len then s
      else s.setRouter r { rt with shelf := s.evict pool room c.key.len [] others ++ [c] }

/-! ### Interests (R367, R368) -/

/-- The latest deadline of an entry's records. -/
def IntEntry.deadline (e : IntEntry) : Nat := e.recs.foldl (fun acc x => max acc x.deadline.toNat) 0

/-- An entry put in the place of the one with its key, or added. -/
def Router.putEntry (r : Router) (e : IntEntry) : Router :=
  if r.entries.any (fun x => x.key = e.key) then
    { r with entries := r.entries.map (fun x => if x.key = e.key then e else x) }
  else { r with entries := r.entries ++ [e] }

/-- An entry's interest sent on the face that its name's route selects, with its remaining lifetime. The entry remembers the last face that
it was sent on (assumption 104). -/
def State.forwardEntry (s : State) (r : Nat) (e : IntEntry) : State :=
  let rt := s.router r
  match s.faceFor r e.key with
  | none => s.setRouter r (rt.putEntry e)
  | some f =>
    if rt.downs.contains f then s.setRouter r (rt.putEntry e)
    else
      let s := s.setRouter r (rt.putEntry { e with fwd := some (f, BitVec.ofNat 64 e.deadline) })
      s.sendFace r f (.interest e.key (e.deadline - rt.ref.toNat))

/-- A shelf copy that a record asks for; none where it has an uncorrectable word and the record is of another router, whose interest goes
on (R203, R368, assumption 94). -/
def Router.copyFor (r : Router) (k : TileKey) (x : IntRec) : Option Shelf :=
  (r.shelf.find? (fun c => c.key = k)).filter (fun c => c.bad.isEmpty || (match x.who with
    | .localCmd _ _ _ => true
    | .face _ => false))

/-- A shelf copy handed to a record. An uncorrectable word of it ends the launch of a local one, which consumes it (R203). -/
def State.serveCopy (s : State) (r : Nat) (c : Shelf) (x : IntRec) : State :=
  match c.bad, x.who with
  | i :: _, .localCmd g w seq =>
    (match (s.group? g).bind (fun grp => (grp.wave? w).bind (fun w => w.cmd? 5 seq)) with
     | some k => s.uncorrectable g w k.pc (8 * i)
     | none => s)
  | _, _ => s.satisfy r c.key c.bytes x

/-- The records of an entry with one more: an interest from a face that has its record there extends that record (R367, assumption
109). -/
def IntEntry.join (e : IntEntry) (x : IntRec) : IntEntry :=
  let same := fun (y : IntRec) => match y.who with
    | .face _ => y.who = x.who
    | .localCmd _ _ _ => false
  if e.recs.any same then { e with recs := e.recs.map (fun y =>
    if same y && y.deadline.toNat < x.deadline.toNat then { y with deadline := x.deadline } else y) }
  else { e with recs := e.recs ++ [x] }

/-- An interest record made at a router: served from the shelf, merged into an entry and refreshed, or made an entry and
forwarded. A record with no place expires, or is dropped; the refresh of a face's record needs none (R367, R368, R376, assumption 109). A
hit is a use of the transit copy, which becomes the last to be given up (R373, assumption 92). An entry that could not be forwarded when it
was made is not forwarded later (assumption 104). -/
def State.record (s : State) (r : Nat) (k : TileKey) (x : IntRec) : State :=
  let rt := s.router r
  let joins := (rt.entries.find? (fun e => e.key = k)).any (fun e => (e.join x).recs.length = e.recs.length)
  if !joins && 16384 ≤ rt.entries.foldl (fun acc e => acc + e.recs.length) 0 then s.expireRec x
  else
    match rt.copyFor k x with
    | some c => (s.setRouter r { rt with shelf := rt.shelf.filter (fun y => y ≠ c) ++ [c] }).serveCopy r c x
    | none =>
      match rt.entries.find? (fun e => e.key = k) with
      | none => s.forwardEntry r ⟨k, [x], none⟩
      | some e =>
        let e := e.join x
        match e.fwd with
        | some (_, d) => if d.toNat < e.deadline then s.forwardEntry r e else s.setRouter r (rt.putEntry e)
        | none => s.setRouter r (rt.putEntry e)

/-! ### Tiles (R370, R371) -/

/-- A tile at a router: it satisfies every record of its key's entry. An announcement goes on towards the rendezvous and leaves a
transit copy, or is shelved there as the home copy; any other tile that finds no entry is kept as a transit copy if it can be. -/
def State.tileAt (s : State) (r : Nat) (k : TileKey) (bytes : List Byte) (shelf : Nat) (announced : Bool) : State :=
  let rt := s.router r
  let entry := rt.entries.find? (fun e => e.key = k)
  let s := match entry with
    | some e =>
      let s := s.setRouter r { rt with entries := rt.entries.filter (fun x => x.key ≠ k) }
      e.recs.foldl (fun s x => s.satisfy r k bytes x) s
    | none => s
  if announced then
    match s.faceFor r k with
    | some f => (s.shelve r ⟨k, bytes, false, 0, []⟩).sendFace r f (.tile k bytes shelf true)
    | none =>
      if shelf = 0 then s
      else s.shelve r ⟨k, bytes, true, BitVec.ofNat 64 (rt.ref.toNat + shelf), []⟩
  else if entry.isNone then s.shelve r ⟨k, bytes, false, 0, []⟩
  else s

/-! ### A face that goes down (R385) -/

/-- An entry that expires because the interest it forwarded is lost: its local records complete with EXPIRED, and a notice goes on
every face of its face records. -/
def State.expireEntry (s : State) (r : Nat) (e : IntEntry) : State :=
  let s := s.updRouter r (fun rt => { rt with entries := rt.entries.filter (fun x => x.key ≠ e.key) })
  e.recs.foldl (fun s x => match x.who with
    | .face f => s.sendFace r f (.notice e.key)
    | .localCmd _ _ _ => s.expireRec x) s

/-- A face that goes down: every entry whose forwarded interest left on it expires. -/
def State.faceDown (s : State) (r face : Nat) : State :=
  let hit := (s.router r).entries.filter (fun e => e.fwd.any (fun x => x.1 = face))
  let s := s.updRouter r (fun rt => { rt with downs := face :: rt.downs.filter (· ≠ face) })
  hit.foldl (fun s e => s.expireEntry r e) s

end Sys2Proof.Machine
end

