-- ==== Sys2Proof/Machine/Flags.lean ====
section
/-! DEFINITION. Every predicate computation: the spec has no flag register, and what other machines keep in flags stands in p
registers (R104, R106, R126, R127, R311). -/

namespace Sys2Proof.Machine

open Sys2Proof

/-- The sum and carry of IADDC (R104): `w` is the width, `sub` the .SUB form. -/
def addCarry (w : Nat) (sub : Bool) (a b : Nat) (cin : Bool) : Nat × Bool :=
  let t := a + (if sub then 2 ^ w - 1 - b else b) + (if cin then 1 else 0)
  (t % 2 ^ w, decide (2 ^ w ≤ t))

/-- A comparison into a predicate, ANDed into the old value under .ACC (R106). -/
def accumulate (acc old t : Bool) : Bool := if acc then t && old else t

/-- Whether a class of FCLASS is among those of a mask (R127). -/
def classIn (k mask : Nat) : Bool := mask.testBit k

/-- The value of VOTE ALL, ANY and UNI over the active lanes (R311): `x` holds the lanes whose predicate, complemented under .NOT,
is 1. -/
def voteBit (mode : Nat) (act x : Mask) : Bool :=
  match mode with
  | 0 => act &&& ~~~x = 0
  | 1 => act &&& x ≠ 0
  | _ => act &&& x = 0 || act &&& ~~~x = 0

/-- The ballot of VOTE (R311). -/
def ballot (act x : Mask) : Nat := (act &&& x).toNat

/-- A logic operation on two single bits, as the predicate form of R110 computes it: 0 AND, 1 OR, 2 XOR. -/
def logicBit (k : Nat) (a b : Bool) : Bool :=
  match k with
  | 0 => a && b
  | 1 => a || b
  | _ => a != b

end Sys2Proof.Machine
end

