-- ==== Sys2Proof/Machine/Admit.lean ====
section
/-! DEFINITION. What a core and a facet have free, and how a group's storage is placed, raised and lowered (R36, R37, R174, R320,
R321, R458). -/

namespace Sys2Proof.Machine

open Sys2Proof

/-! ### The capacities of a core (R36) -/

/-- An amount of each resource of a core: vector wave-registers, shared bytes, tiles and wave slots. -/
structure Load where
  v  : Nat
  sh : Nat
  t  : Nat
  w  : Nat
  deriving DecidableEq, Repr

def Load.zero : Load := ⟨0, 0, 0, 0⟩
def Load.add (a b : Load) : Load := ⟨a.v + b.v, a.sh + b.sh, a.t + b.t, a.w + b.w⟩
def Load.max (a b : Load) : Load := ⟨Nat.max a.v b.v, Nat.max a.sh b.sh, Nat.max a.t b.t, Nat.max a.w b.w⟩
/-- The amount without its wave slots. -/
def Load.noSlots (a : Load) : Load := ⟨a.v, a.sh, a.t, 0⟩
def Load.le (a b : Load) : Bool := a.v ≤ b.v && a.sh ≤ b.sh && a.t ≤ b.t && a.w ≤ b.w

/-- What waves on the cores of a list take of one core at an allotment. Shared memory is taken on the core of wave 0 only, and
tiles on every core that holds waves (R26, R34, R40). -/
def loadOf (cores : List Nat) (a : Allot) (core : Nat) : Load :=
  let n := (cores.filter (· = core)).length
  ⟨n * a.v, if cores.head? = some core then a.sh else 0, if n = 0 then 0 else a.t, n⟩

/-- The core of each wave of a group. -/
def Group.cores (g : Group) : List Nat := g.waves.map Wave.core

/-- Whether a group is the wave of a die's firmware core, which belongs to no facet and no partition (R18, R414). -/
def Group.firmware (g : Group) : Bool := g.waves.any (fun w => w.core = 8)

/-- Whether a wave holds its slot: a lane has not left, or a command has not completed (R316). -/
def Wave.holdsSlot (w : Wave) : Bool := w.alive || w.cmds.any (fun c => c.stage ≠ .signalled)

/-- What a group takes of one core at an allotment. -/
def Group.load (g : Group) (a : Allot) (core : Nat) : Load :=
  { loadOf g.cores a core with w := (g.waves.filter (fun w => w.core = core && w.holdsSlot)).length }

/-- Whether a request for a component asks for something of a core: shared memory only on the core of wave 0, and no scalar registers
(R320). -/
def concernsIn (cores : List Nat) (m : BitVec 4) (core i : Nat) : Bool :=
  bit m i && (if i = 2 then cores.head? = some core else i ≠ 1 && cores.contains core)

/-- Whether a request for some components asks for something of a core. -/
def concerns (cores : List Nat) (m : BitVec 4) (core : Nat) : Bool := (List.range 4).any (concernsIn cores m core)

/-- The increment a group still owes: full minus current allotment. -/
def Group.owed (g : Group) : Allot := ⟨g.full.v - g.cur.v, 0, g.full.sh - g.cur.sh, g.full.t - g.cur.t⟩

/-- The whole of a core (R22, R35). -/
def State.capacity (s : State) (facet core : Nat) : Load :=
  ⟨64 * (s.facet facet).banks core, 393216, 32, 64⟩

/-- What is held of a core. -/
def State.held (s : State) (facet core : Nat) : Load :=
  (s.onFacet facet).foldl (fun (acc : Load) g => acc.add (g.load g.cur core)) Load.zero

/-- Whether an ACQ waits on a core. -/
def State.acqWaits (s : State) (facet core : Nat) : Bool :=
  (s.onFacet facet).any (fun g => g.acq.any (fun (_, m) => concerns g.cores m core))

/-- Whether a new group fits on a core: its current allotment fits, the rest covers the largest increment that any group owes, no
ACQ waits, and there are slots (R36). -/
def State.fitsCore (s : State) (facet : Nat) (cores : List Nat) (cur full : Allot) (core : Nat) : Bool :=
  let owe : Allot := ⟨full.v - cur.v, 0, full.sh - cur.sh, full.t - cur.t⟩
  let held := (s.held facet core).add (loadOf cores cur core)
  let most := (s.onFacet facet).foldl (fun (acc : Load) g => acc.max (loadOf g.cores g.owed core).noSlots)
    (loadOf cores owe core).noSlots
  !s.acqWaits facet core && (held.add most).le (s.capacity facet core)
    && bit (s.facet facet).cores core

/-! ### How groups of one kind can lie on a facet (R26, R36) -/

/-- What admission looks at on a core: whether it is usable and no ACQ waits there, its capacity, what is held, and the largest increment
that a group still owes. -/
structure CoreRoom where
  ok   : Bool
  cap  : Load
  held : Load
  owed : Load
  deriving DecidableEq, Repr

/-- The cores of a facet as they stand. -/
def State.rooms (s : State) (facet : Nat) : List CoreRoom :=
  (List.range 8).map (fun c => {
    ok := !s.acqWaits facet c && bit (s.facet facet).cores c
    cap := s.capacity facet c
    held := s.held facet c
    owed := (s.onFacet facet).foldl (fun (acc : Load) g => acc.max (loadOf g.cores g.owed c).noSlots) Load.zero })

/-- The cores of a facet with no group on them (R282). -/
def State.emptyRooms (s : State) (facet : Nat) : List CoreRoom :=
  (s.rooms facet).mapIdx (fun c r => { r with ok := bit (s.facet facet).cores c, held := Load.zero, owed := Load.zero })

/-- A core that takes `n` waves of one more group, wave 0 among them if `head`; none where it cannot (R36). -/
def CoreRoom.takes (r : CoreRoom) (cur full : Allot) (n : Nat) (head : Bool) : Option CoreRoom :=
  if n = 0 then some r
  else
    let part := fun (a : Allot) => (⟨n * a.v, if head then a.sh else 0, a.t, n⟩ : Load)
    let held := r.held.add (part cur)
    let owed := r.owed.max (part ⟨full.v - cur.v, 0, full.sh - cur.sh, full.t - cur.t⟩).noSlots
    if r.ok && (held.add owed).le r.cap then some { r with held := held, owed := owed } else none

/-- How many groups of `n` waves a core takes one after another, up to a bound. -/
def CoreRoom.fill (cur full : Allot) (n : Nat) : Nat → CoreRoom → Nat
  | 0, _ => 0
  | k + 1, r =>
    match r.takes cur full n true with
    | none => 0
    | some r => CoreRoom.fill cur full n k r + 1

/-- The ways to lay one group's `n` waves on cores, numbered from `core`, with wave 0 on `head`; the first for which `rest` answers,
which is given the cores as they are then and the waves on each. -/
def layGroup (cur full : Allot) (head : Nat) : List CoreRoom → Nat → Nat → (List CoreRoom → List Nat → Option (List (List Nat))) →
    Option (List (List Nat))
  | [], _, n, rest => if n = 0 then rest [] [] else none
  | r :: rs, core, n, rest =>
    (List.range (min n 64 + 1)).reverse.findSome? (fun x =>
      if core = head && x = 0 then none
      else (r.takes cur full x (core = head)).bind (fun r =>
        layGroup cur full head rs (core + 1) (n - x) (fun rs ns => rest (r :: rs) (x :: ns))))

/-- The core of each wave of a group with so many waves on each core, wave 0 on `head`. -/
def coresOf (head : Nat) (ns : List Nat) : List Nat :=
  List.replicate (ns.getD head 0) head
    ++ (List.range ns.length).flatMap (fun c => if c = head then [] else List.replicate (ns.getD c 0) c)

/-- A way to lay groups of `n` > 64 waves on the cores of a facet, if there is one. -/
def layGroups (cur full : Allot) (n : Nat) : Nat → List CoreRoom → Option (List (List Nat))
  | 0, _ => some []
  | k + 1, rs => (List.range 8).findSome? (fun h =>
      layGroup cur full h rs 0 n (fun rs ns => (layGroups cur full n k rs).map (coresOf h ns :: ·)))

/-- A bound on how many waves of `k` groups a core takes: each group has at most as many as the one with the most, and the tiles admit
only some of the groups. The second part is the number of groups that it admits. -/
def CoreRoom.most (cur full : Allot) (k : Nat) (r : CoreRoom) : Nat × Nat :=
  let few := (List.range (k + 1)).filter (fun m => r.held.t + m * cur.t + Nat.max r.owed.t (if m = 0 then 0 else full.t - cur.t) ≤ r.cap.t)
  let m := few.foldl Nat.max 0
  let fits := (List.range 65).filter (fun x => r.held.w + x ≤ r.cap.w
    && r.held.v + x * cur.v + Nat.max r.owed.v ((x + m - 1) / Nat.max 1 m * (full.v - cur.v)) ≤ r.cap.v)
  if r.ok && m ≠ 0 then (fits.foldl Nat.max 0, m) else (0, 0)

/-- The core lists of groups of `n` waves that a facet's cores take, up to `k` of them, and as many as they can take. A group of up to 64
waves lies on one core, so that the cores count by themselves. Of larger groups there are at most 7, and a number that the bounds
rule out is not tried. -/
def groupsIn (cur full : Allot) (n k : Nat) (rs : List CoreRoom) : List (List Nat) :=
  if n ≤ 64 then ((rs.mapIdx (fun c r => List.replicate (r.fill cur full n 64) (List.replicate n c))).flatten).take k
  else
    (((List.range (min k 7 + 1)).reverse.findSome? (fun j =>
      let bounds := rs.map (CoreRoom.most cur full j)
      let widest := bounds.foldl (fun acc b => Nat.max acc b.1) 0
      let total := bounds.foldl (fun acc b => acc + b.1) 0
      let spots := bounds.foldl (fun acc b => acc + b.2) 0
      if j * n ≤ total && j * ((n + widest - 1) / Nat.max 1 widest) ≤ spots then layGroups cur full n j rs else none))).getD []

/-- Whether a list of cores can take the waves of a group: one per wave, one core only for up to 64 waves and at least two for
more (R26). -/
def coresShape (waves : Nat) (cores : List Nat) : Bool :=
  cores.length = waves && cores.all (· < 8) &&
    (if waves ≤ 64 then cores.all (fun c => some c = cores.head?) else !cores.all (fun c => some c = cores.head?))

/-! ### Reserved storage (R37, R174, R458) -/

/-- The size of a group's save area or a free wave's context block (R458). -/
def saveSize (w : Nat) (full : Allot) (spill : Nat) : Nat :=
  roundUp (65536 + w * (131072 + 256 * full.v + 4 * full.s + spill) + full.sh + 16384 * full.t
    + (if 0 < full.t then 163840 * min w 8 else 0)) 65536

/-- The bytes of a facet's reserve that groups and free waves hold. -/
def State.reserved (s : State) (facet : Nat) : Nat :=
  (s.groups.filter (fun g => g.saveAt = facet && !g.firmware)).foldl
    (fun acc g => acc + saveSize g.waves.length g.full g.spillSize + g.deferCap) 0

/-- The ranges of a facet's quarter that are taken, but for those of one group. -/
def State.taken (s : State) (facet : Nat) (but : Nat) : List (Nat × Nat) :=
  (s.facet facet).regions.map (fun r => (r.base, r.size)) ++
    (s.onFacet facet).flatMap (fun g => if g.id = but then [] else g.waves.map (fun w => (w.spillAt, g.spillSize)))

/-- Whether a range is free of every taken one. -/
def rangeFree (taken : List (Nat × Nat)) (base size : Nat) : Bool := taken.all (fun (b, n) => !meets b n base size)

/-- The highest 256-byte-aligned place for a spill range below `limit` (R174). -/
def spillPlace (taken : List (Nat × Nat)) (limit size : Nat) : Option Nat :=
  if size = 0 then some 0
  else
    let tops := limit :: taken.map (fun x => x.1)
    let bases := (tops.filter (fun t => size ≤ t && t ≤ limit)).map (fun t => (t - size) / 256 * 256)
    let ok := bases.filter (fun b => rangeFree taken b size)
    if ok.isEmpty then none else some (ok.foldl max 0)

/-- Places for the spill ranges of `n` waves, each the highest that is left. -/
def spillPlaces (limit size : Nat) : Nat → List (Nat × Nat) → Option (List Nat)
  | 0, _ => some []
  | n + 1, taken =>
    match spillPlace taken limit size with
    | none => none
    | some b => (spillPlaces limit size n ((b, size) :: taken)).map (fun bs => b :: bs)

/-- Free slots of a core, lowest first. -/
def State.freeSlots (s : State) (facet core : Nat) : List Nat :=
  let used := (s.onFacet facet).flatMap (fun g => (g.waves.filter (fun w => w.core = core && w.holdsSlot)).map Wave.slot)
  (List.range 64).filter (fun x => !used.contains x)

/-- A slot for each wave of a list of cores. -/
def State.slotsFor (s : State) (facet : Nat) (cores : List Nat) : List Nat :=
  (List.range cores.length).map (fun i =>
    let core := cores.getD i 0
    ((s.freeSlots facet core)[((cores.take i).filter (· = core)).length]?).getD 0)

/-! ### Raising and lowering an allotment (R320, R321) -/

/-- An allotment with the named components taken from another: [0] vector, [1] scalar, [2] shared, [3] tiles (R319). -/
def Allot.take (a b : Allot) (m : BitVec 4) : Allot :=
  ⟨if bit m 0 then b.v else a.v, if bit m 1 then b.s else a.s, if bit m 2 then b.sh else a.sh, if bit m 3 then b.t else a.t⟩

/-- The components in which two allotments differ. -/
def Allot.differs (a b : Allot) : BitVec 4 :=
  BitVec.ofNat 4 ((if a.v = b.v then 0 else 1) + (if a.s = b.s then 0 else 2) + (if a.sh = b.sh then 0 else 4)
    + (if a.t = b.t then 0 else 8))

/-- The components that VAR names; 0 names all four (R319). -/
def componentsOf (var : BitVec 4) : BitVec 4 := if var = 0#4 then 15#4 else var

/-- Whether a request of a group fits: its increment fits on every core concerned, and no earlier request waits there for one of its
components, since each component has an order of arrival of its own (R36, R320). -/
def State.acqFits (s : State) (g : Group) (ticket : Nat) (m : BitVec 4) : Bool :=
  let want := g.cur.take g.full m
  g.cores.all (fun core =>
    !concerns g.cores m core ||
    let without := (s.onFacet g.facet).foldl (fun (acc : Load) x =>
      if x.id = g.id then acc else acc.add (x.load x.cur core)) Load.zero
    (without.add (g.load want core)).le (s.capacity g.facet core)
      && !(s.onFacet g.facet).any (fun x => x.acq.any (fun (t, k) => t < ticket
        && (List.range 4).any (fun i => concernsIn g.cores m core i && concernsIn x.cores k core i))))

/-- A request granted: every wave holds the full allotment of its components, and what is gained reads as R31 gives it (R320). -/
def State.grant (s : State) (gid : Nat) (m : BitVec 4) : State :=
  s.updGroup gid (fun g => { g with
    tiles := if bit m 3 then keepKeys (fun k => k / 4096 % 32 < g.cur.t) g.tiles else g.tiles,
    shared := if bit m 2 then keepKeys (fun k => k < g.cur.sh) g.shared else g.shared,
    cur := g.cur.take g.full m,
    acq := g.acq.filter (fun (_, x) => x ≠ m),
    waves := g.waves.map (fun w => { w with
      v := if bit m 0 then keepKeys (fun k => k < g.cur.v * 64) w.v else w.v,
      s := if bit m 1 then keepKeys (fun k => k < g.cur.s) w.s else w.s,
      rel := w.rel &&& ~~~m }) })

/-! ### An allotment lowered (R31, R321) -/

/-- Whether a group's allotment can be lowered in some components: every wave with a lane left has asked for it, and no outstanding
command names shared memory that would go (R321). Tiles go only after the matrix instructions issued before (R164). -/
def Group.canLower (g : Group) (m : BitVec 4) : Bool :=
  g.liveWaves.all (fun w => w.rel &&& m = m) &&
  g.waves.all (fun w => w.cmds.all (fun c =>
    c.stage = .signalled ||
      !((bit m 2 && (c.effect.sharedRanges g.slots c.mask).any (fun (a, n) => 0 < n && g.pro.sh < a + n))
        || (bit m 3 && c.cls = 4))))

/-- What a wave keeps when its allotment is lowered (R31, R321). -/
def Wave.lower (w : Wave) (m : BitVec 4) (pro : Allot) : Wave :=
  { w with v := if bit m 0 then keepKeys (fun k => k < pro.v * 64) w.v else w.v,
           s := if bit m 1 then keepKeys (fun k => k < pro.s) w.s else w.s,
           rel := w.rel &&& ~~~m }

/-- A wave whose REL is complete goes on at the next word, and its unchecked run has ended (R55). -/
def Wave.relDone (w : Wave) : Wave :=
  match w.held with
  | some id => Wave.merge { (w.unpark).advance id with fresh := [], asOf := none }
  | none => w

/-- The named components lowered to the prologue allotment: what is given up loses its contents, and every wave parked in a REL
that now names nothing higher goes on (R321). `but` is the wave that issues the REL itself. -/
def State.lower (s : State) (gid : Nat) (but : Option Nat) (m : BitVec 4) : State :=
  s.updGroup gid (fun g =>
    { g with
      cur := g.cur.take g.pro m,
      tiles := if bit m 3 then keepKeys (fun k => k / 4096 % 32 < g.pro.t) g.tiles else g.tiles,
      inUse := if bit m 3 then g.inUse.filter (fun k => k % 32 < g.pro.t) else g.inUse,
      badTiles := if bit m 3 then g.badTiles.filter (fun x => x / 2048 % 32 < g.pro.t) else g.badTiles,
      faint := if bit m 3 then g.faint.filter (fun x => x.tile % 32 < g.pro.t) else g.faint,
      shared := if bit m 2 then keepKeys (fun k => k < g.pro.sh) g.shared else g.shared,
      badShared := if bit m 2 then g.badShared.filter (fun x => x * 8 < g.pro.sh) else g.badShared,
      waves := g.waves.map (fun w =>
        let w' := w.lower m g.pro
        if w.rel ≠ 0 && w'.rel = 0 && some w.id ≠ but then w'.relDone else w') })

end Sys2Proof.Machine
end

