-- ==== Sys2Proof/Machine/Room.lean ====
section
/-! DEFINITION. Room for groups: what a place needs, a task's first placement, and the places that R274 promises (R26, R31, R36, R37, R274,
R276, R283). -/

namespace Sys2Proof.Machine

open Sys2Proof

/-! ### Room (R26, R36, R37) -/

/-- Whether a facet's units run: it is powered and no drain has stopped it. -/
def Facet.runs (f : Facet) : Bool := f.powered && !f.stopped

/-- The wave slots and spill ranges that waves on a list of cores of a facet get, if they can be placed: every core takes them,
the facet has the spill ranges, and its reserve has the save area. -/
def State.room (s : State) (facet waves : Nat) (cores : List Nat) (cur full : Allot) (spill save : Nat) :
    Option (List Nat × List Nat) :=
  let f := s.facet facet
  if !f.runs || !coresShape waves cores || !cores.all (fun c => s.fitsCore facet cores cur full c)
      || (0 < save && f.reserve < s.reserved facet + save) then none
  else (spillPlaces (f.spadUnits * 65536) spill waves (s.taken facet 0)).map (fun bs => (s.slotsFor facet cores, bs))

/-- The most waves, up to 64, of a group of more than 64 that one core takes; `head` tells the core of wave 0. -/
def State.mostWaves (s : State) (facet : Nat) (cur full : Allot) (head : Bool) (core : Nat) : Nat :=
  ((List.range 65).filter (fun k =>
    s.fitsCore facet (if head then List.replicate k core else (core + 1) :: List.replicate k core) cur full core)).foldl max 0

/-- Whether some list of cores of a facet can take the waves of a group. -/
def State.placeable (s : State) (facet waves : Nat) (cur full : Allot) (spill save : Nat) : Bool :=
  if waves ≤ 64 then
    (List.range 8).any (fun c => (s.room facet waves (List.replicate waves c) cur full spill save).isSome)
  else
    let f := s.facet facet
    f.runs && !(0 < save && f.reserve < s.reserved facet + save)
      && (spillPlaces (f.spadUnits * 65536) spill waves (s.taken facet 0)).isSome
      && (List.range 8).any (fun c =>
        let own := s.mostWaves facet cur full true c
        let rest := (List.range 8).foldl (fun acc d => if d = c then acc else acc + s.mostWaves facet cur full false d) 0
        0 < own && waves ≤ own + rest)

/-- The facets of a context's partition. -/
def partFacets (c : CtxDesc) : List Nat := (List.range (2 ^ c.plog2)).map (fun i => c.pbase + i)

/-- Whether two contexts are of one partition. -/
def State.samePart (s : State) (a b : Nat) : Bool :=
  match s.ctx? a, s.ctx? b with
  | some x, some y => x.pbase = y.pbase && x.plog2 = y.plog2
  | _, _ => false

/-- Whether a context owns a facet. -/
def State.owns (s : State) (ctx facet : Nat) : Bool :=
  match s.ctx? ctx with
  | some c => ctxOwns c facet
  | none => false

/-- The waves of a group of a record's shape (R25). -/
def LaunchRec.waves (r : LaunchRec) : Nat := (r.shape.1 * r.shape.2.1 * r.shape.2.2 + 63) / 64

/-- The bytes that a launch's group reserves for its save and deferred areas (R37, R458). -/
def LaunchRec.reserve (r : LaunchRec) : Nat := saveSize r.waves r.full r.spill + r.defer

/-- Whether a new group of a launch can be placed on a facet. -/
def State.launchFits (s : State) (l : Launch) (facet : Nat) : Bool :=
  s.owns l.ctx facet && s.placeable facet l.recd.waves l.recd.pro l.recd.full l.recd.spill l.recd.reserve

/-- Whether a new group of a launch can be placed on any facet of its partition. -/
def State.launchFitsAny (s : State) (l : Launch) : Bool :=
  match s.ctx? l.ctx with
  | some c => (partFacets c).any (fun f => s.launchFits l f)
  | none => false

/-! ### A task placed (R31, R276, R283) -/

/-- A task's group placed on cores of a facet, its waves as R31 gives them; none where it has no room. A task takes its place in
start order when it is first placed. -/
def State.placeTask (s : State) (l : Launch) (t : Task) (facet : Nat) (cores : List Nat) : Option State :=
  let r := l.recd
  if !s.owns l.ctx facet then none
  else
    match s.room facet r.waves cores r.pro r.full r.spill r.reserve with
    | none => none
    | some (slots, spills) =>
      let gid := s.nextId
      let t' := { t with order := if t.order.isEmpty then [l.started] else t.order, born := none }
      let threads := r.shape.1 * r.shape.2.1 * r.shape.2.2
      let pc := r.code + BitVec.ofNat 64 r.entry
      let waves := (List.range r.waves).map (fun i =>
        newWave i (cores.getD i 0) (slots.getD i 0) (presentLanes threads i) pc r.entryPrio (spills.getD i 0))
      let g := { newGroup gid l.ctx facet (some l.id) t' r.shape waves r.pro r.full r.slots r.spill r.sceil r.div r.defer with
        placed := gid, since := s.edges }
      let s := { s with nextId := gid + 1, groups := s.groups ++ [g] }.setSpills facet r.spill (spills.map (fun a => (a, [])))
      let s := s.updLaunch l.id (fun l => { l with started := if t.order.isEmpty then l.started + 1 else l.started })
      some s

/-- Every task of a concurrent launch placed, each at its place; none where one has no room. -/
def State.placeEach (l : Nat) : State → List Task → List (Nat × List Nat) → Option State
  | s, [], [] => some s
  | s, t :: ts, (f, cores) :: ps =>
    match s.launch? l with
    | none => none
    | some x =>
      match s.placeTask x t f cores with
      | none => none
      | some s => State.placeEach l s ts ps
  | _, _, _ => none

/-! ### Places for several groups (R36, R37, R174, R458) -/

/-- How many groups of a record the reserved storage of a facet takes, up to `k`: the save areas and the spill ranges (R37, R174, R458). -/
def State.storageFor (s : State) (facet : Nat) (r : LaunchRec) (k : Nat) : Nat :=
  let f := s.facet facet
  ((List.range (k + 1)).filter (fun n => s.reserved facet + n * r.reserve ≤ f.reserve
    && (spillPlaces (f.spadUnits * 65536) r.spill (if r.spill = 0 then 0 else n * r.waves) (s.taken facet 0)).isSome)).foldl max 0

/-- Places for up to `n` groups of a launch on the facets of a list that a test accepts: the facet and the core of each wave. -/
def State.placesIn (s : State) (l : Launch) (ok : Nat → Bool) : List Nat → Nat → List (Nat × List Nat)
  | [], _ => []
  | f :: fs, n =>
    if n = 0 then []
    else if !((s.facet f).runs && ok f) then s.placesIn l ok fs n
    else
      let xs := groupsIn l.recd.pro l.recd.full l.recd.waves n (s.rooms f)
      let xs := xs.take (s.storageFor f l.recd xs.length)
      xs.map (fun cores => (f, cores)) ++ s.placesIn l ok fs (n - xs.length)

/-- The facets of a launch's partition. -/
def State.launchFacets (s : State) (l : Launch) : List Nat :=
  match s.ctx? l.ctx with
  | some c => partFacets c
  | none => []

/-! ### The places that R274 promises (assumption 78) -/

/-- How many groups of a launch are placed first: all those of a concurrent one together (R281). -/
def Launch.firstGroups (l : Launch) : Nat := if l.recd.pclass = 0 then l.tasks.length else 1

/-- The launches with the promise of R274 whose first group is still to be placed. -/
def State.awaited (s : State) : List Launch :=
  s.launches.filter (fun l => l.due.isSome && l.bits = 0
    && (if l.stat = .presented then (s.queue? l.queue).any (fun q => q.slot.isSome && s.qState q = 1)
        else l.stat = .accepted && !l.tasks.isEmpty)
    && !s.groups.any (fun g => g.launch = some l.id) && !s.faults.any (fun f => f.launch = l.id))

/-- The first groups of a launch placed where there is room; none where there is not enough. -/
def State.placeFirst (s : State) (l : Launch) : Option State :=
  let ps := s.placesIn l (fun _ => true) (s.launchFacets l) l.firstGroups
  if ps.length < l.firstGroups then none else (State.placeEach l.id s (l.tasks.take l.firstGroups) ps).map (fun t =>
    t.updLaunch l.id (fun x => { x with tasks := x.tasks.drop l.firstGroups }))

/-- The state with the promised groups of the launches checked before one placed. -/
def State.foresee (s : State) (l : Launch) : State :=
  (s.awaited.filter (fun x => x.id < l.id)).foldl (fun s x => (s.placeFirst x).getD s) s

/-- Whether the promised first groups of a launch have room, beside those promised before them. -/
def State.keeps (s : State) (l : Launch) : Bool := s.awaited.any (fun x => x.id = l.id) && ((s.foresee l).placeFirst l).isSome

/-- Whether a change takes the room of a group that R274 promises a place. -/
def State.spoils (s t : State) : Bool := t.awaited.any (fun l => s.keeps l && !t.keeps l)

/-- A change made, or put off while it would take the room of a group that R274 promises a place. -/
def State.unless (s t : State) : State := if s.spoils t then s else t

end Sys2Proof.Machine
end

