-- ==== Sys2Proof/Machine/Control.lean ====
section
/-! DEFINITION. Control, convergence and task instructions, OP 0x00 to 0x15 (R299 to R329). -/

namespace Sys2Proof.Machine

open Sys2Proof

/-! ### Branches -/

/-- The target of a relative branch (R63, R308). -/
def branchTarget (pc : DWord) (imm : BitVec 32) : DWord :=
  BitVec.ofNat 64 (wrapInt (pc.toNat + 12 + 12 * sx (bits imm 0 20) 20) 56)

/-- The priority of a branch's target, IMM[31:20]. -/
def branchPrio (imm : BitVec 32) : BitVec 12 := BitVec.ofNat 12 (bits imm 20 12)

/-- The active lanes move to their targets, one `move_lanes` for each distinct target, and the others go on at the next word
(R301). -/
def Ctx.branch (c : Ctx) (s : State) (dest : Nat → DWord × BitVec 12) : State :=
  c.updWave s (fun w =>
    (distinct ((lanesOf c.act).map dest)).foldl
      (fun w t => w.moveLanes c.path.id (maskWhere (fun l => c.act.getLsbD l && dest l = t)) t.1 t.2)
      (w.advance c.path.id))

/-- Whether a value can be a branch target (R303). -/
def goodTarget (x : Nat) : Bool := x < 2 ^ 56 && x % 4 = 0

/-- The link block written by CALL and CALLX (R304): its bits above 55 are zero, also behind a PC of 2^56 - 12 (assumption 108). -/
def Ctx.link (c : Ctx) (s : State) : State :=
  let ret := BitVec.ofNat 64 ((c.path.pc.toNat + 12) % 2 ^ 56)
  let d := vIndex c.form.d
  let tick := c.st.tick
  c.updWave s (fun w =>
    ((w.writeV tick d c.act (fun _ => word ret.toNat)).writeV tick (d + 1) c.act (fun _ => word (ret.toNat / 2 ^ 32))).writeV
      tick (d + 2) c.act (fun _ => word c.path.prio.toNat))

/-- NOP (R299). -/
def execNop (f : Form) (s : State) : Host.Outcome State Fault Refusal :=
  issueInstr 0x00 f s .unused .unused .unused none (fun _ => true) (fun c => .done c.st)

/-- BRA (R302). -/
def execBra (f : Form) (s : State) : Host.Outcome State Fault Refusal :=
  issueInstr 0x01 f s .unused .unused .unused none (fun _ => true) (fun c =>
    .moved (c.branch c.st (fun _ => (branchTarget c.path.pc f.imm, branchPrio f.imm))))

/-- Targets read from a register: a v pair or a uniform pair. -/
def Allow.target : Allow := { v := true, s := true, g := true, wide := true }

/-- Whether a target operand passes what R47 asks of it whatever the guard: a uniform pair is a multiple of 4 (R61, assumption 68). -/
def Ctx.evenTarget (c : Ctx) (o : Operand) : Bool :=
  match o with
  | .v _ => true
  | o => c.uniform 1 .n64 o % 4 = 0

/-- BRX (R303): the targets of the active lanes are checked (assumption 68). -/
def execBrx (f : Form) (s : State) : Host.Outcome State Fault Refusal :=
  issueInstr 0x02 f s .unused .target .unused none (fun c => c.evenTarget f.a) (fun c =>
    let t := fun l => c.read 1 .n64 f.a l
    if (lanesOf c.act).any (fun l => !goodTarget (t l)) then .fault codeOperand
    else .moved (c.branch c.st (fun l => (BitVec.ofNat 64 (t l), branchPrio f.imm))))

/-- CALL (R304). -/
def execCall (f : Form) (s : State) : Host.Outcome State Fault Refusal :=
  issueInstr 0x03 f s (.vblock 3 true) .unused .unused none (fun _ => true) (fun c =>
    .moved (c.branch (c.link c.st) (fun _ => (branchTarget c.path.pc f.imm, branchPrio f.imm))))

/-- CALLX (R304). -/
def execCallx (f : Form) (s : State) : Host.Outcome State Fault Refusal :=
  issueInstr 0x04 f s (.vblock 3 true) .target .unused none (fun c => c.evenTarget f.a) (fun c =>
    let t := fun l => c.read 1 .n64 f.a l
    if (lanesOf c.act).any (fun l => !goodTarget (t l)) then .fault codeOperand
    else .moved (c.branch (c.link c.st) (fun l => (BitVec.ofNat 64 (t l), branchPrio f.imm))))

/-- RET (R305). -/
def execRet (f : Form) (s : State) : Host.Outcome State Fault Refusal :=
  issueInstr 0x05 f s .unused (.vblock 3 true) .unused none (fun _ => true) (fun c =>
    let t := fun l => c.read 1 .n64 f.a l
    let q := fun l => c.lane 1 false (vIndex f.a + 2) l
    if (lanesOf c.act).any (fun l => !goodTarget (t l) || 4096 ≤ q l) then .fault codeOperand
    else .moved (c.branch c.st (fun l => (BitVec.ofNat 64 (t l), BitVec.ofNat 12 (q l)))))

/-- An instruction whose end the wave's other lanes decide: what they can complete is completed with it (R309, R312, R419). -/
def settling (s : State) (o : Host.Outcome State Fault Refusal) : Host.Outcome State Fault Refusal :=
  match o, s.cur with
  | .next t, some (g, _) => .next (t.settle g)
  | o, _ => o

/-- CONV (R309). -/
def execConv (f : Form) (s : State) : Host.Outcome State Fault Refusal :=
  settling s (issueInstr 0x06 f s .unused (Allow.pair.orNone) .unused none (fun _ => true) (fun c =>
    let named : Option Mask := if f.a = .none then none else some (BitVec.ofNat 64 (c.uniform 1 .n64 f.a))
    .moved (c.updWave c.st (fun w => w.setWait c.path.id (.conv named)))))

/-- PRIO (R307). -/
def execPrio (f : Form) (s : State) : Host.Outcome State Fault Refusal :=
  issueInstr 0x07 f s .unused .unused .unused none (fun _ => true) (fun c =>
    .done (c.updWave c.st (fun w =>
      { w with paths := w.paths.map (fun p => if p.id = c.path.id then { p with prio := branchPrio f.imm } else p) })))

/-- VOTE (R311). -/
def execVote (f : Form) (s : State) : Host.Outcome State Fault Refusal :=
  let mode := bits f.var 0 2
  issueInstr 0x08 f s (if mode = 3 then .reg true else .pred) .pred .unused none (fun _ => true) (fun c =>
    let x := maskWhere (fun l => (c.read 1 .b32 f.a l = 1) != bit f.var 3)
    let r := if mode = 3 then ballot c.act x else if voteBit mode c.act x then 1 else 0
    .done (c.write c.st f.d (mode = 3) (fun _ => r)))

/-- SLOOP (R306). -/
def execSloop (f : Form) (s : State) : Host.Outcome State Fault Refusal :=
  issueInstr 0x09 f s { s := true } .unused .unused none (fun _ => true) (fun c =>
    let n := (c.read 1 .n32 f.d 0 + 2 ^ 32 - 1) % 2 ^ 32
    let t := c.write c.st f.d false (fun _ => n)
    if n = 0 then .done t
    else .moved (c.branch t (fun _ => (branchTarget c.path.pc f.imm, branchPrio f.imm))))

/-- BAR (R312, R313). -/
def execBar (f : Form) (s : State) : Host.Outcome State Fault Refusal :=
  settling s (issueInstr 0x0A f s .unused { s := true, g := true, imm := true, none := true } .unused none (fun _ => true)
    (fun c =>
      let n := c.uniform 1 .n32 f.a
      let named := f.a ≠ .none
      if named && (n = 0 || c.grp.waves.length < n) then .fault codeOperand
      else .moved (c.updWave c.st (fun w => w.setWait c.path.id
        (.bar (bits f.imm 0 4) (bits f.imm 4 6) (if named then some n else none))))))

/-! ### Leaving, yielding and sleeping -/

/-- EXIT (R315, R316). -/
def execExit (f : Form) (s : State) : Host.Outcome State Fault Refusal :=
  settling s (issueInstr 0x0B f s .unused { v := true, s := true, g := true, imm := true, long := true } .unused none
    (fun _ => true) (fun c =>
      let t := c.updGroup c.st (fun g => g.foldStatus c.act (fun l => BitVec.ofNat 8 (c.read 1 .b32 f.a l)))
      let t := c.updWave t (fun w => w.exitLanes c.act)
      .done (t.waveLeft c.grp.id c.wave.id)))

/-- Whether a cooperative stop is asked of a group: a request is pending and its deadline has not passed (R317, R420). -/
def Ctx.mayStop (c : Ctx) : Bool :=
  match c.grp.preempt with
  | some p => !p.forced && (c.st.facet c.grp.facet).ref.toNat ≤ p.deadline.toNat
  | none => false

/-- YIELD (R317). -/
def execYield (f : Form) (s : State) : Host.Outcome State Fault Refusal :=
  issueInstr 0x0C f s .unused .unused .unused none (fun _ => true) (fun c =>
    .done (if c.mayStop then c.parks c.st .stopped else c.st))

/-- SLEEP (R318). -/
def execSleep (f : Form) (s : State) : Host.Outcome State Fault Refusal :=
  issueInstr 0x0D f s .unused (.uni false) .unused none (fun _ => true) (fun c =>
    let n := c.uniform 1 .n32 f.a
    .done (if n = 0 then c.st
      else c.parks c.st (.sleep ((c.st.facet c.grp.facet).ref + BitVec.ofNat 64 n))))

/-! ### Allotments -/

/-- The components that requests of a group wait for. -/
def Group.pending (g : Group) : BitVec 4 := g.acq.foldl (fun acc (_, m) => acc ||| m) 0

/-- ACQ (R320). Scalar registers are granted at once; the other components that no request of the group waits for form one
request, granted at once where it fits. -/
def execAcq (f : Form) (s : State) : Host.Outcome State Fault Refusal :=
  issueInstr 0x0E f s .unused .unused .unused none (fun _ => true) (fun c =>
    let need := componentsOf f.var &&& c.grp.cur.differs c.grp.full
    if need = 0 then .done c.st
    else
      let t := if bit need 1 then c.st.grant c.grp.id 2 else c.st
      let new := need &&& 13 &&& ~~~c.grp.pending
      let ticket := t.nextId
      let t := if new = 0 then t
        else
          let t := { c.updGroup t (fun g => { g with acq := g.acq ++ [(ticket, new)] }) with nextId := ticket + 1 }
          match t.group? c.grp.id with
          | some g => if t.acqFits g ticket new then t.grant c.grp.id new else t
          | none => t
      match t.group? c.grp.id with
      | some g => if c.st.spoils t then .wait false c.st else if need &&& g.cur.differs g.full = 0 then .done t else .wait true t
      | none => .done t)

/-- The components that can be lowered now: each has been given up by every wave, and nothing holds it back (R321). -/
def Group.lowerable (g : Group) : BitVec 4 :=
  let can := fun (m : BitVec 4) => if g.cur.differs g.pro &&& m ≠ 0 && g.canLower m then m else 0
  can 1 ||| can 2 ||| can 4 ||| can 8

/-- REL (R321): tried again, it names what it named at its issue. -/
def execRel (f : Form) (s : State) : Host.Outcome State Fault Refusal :=
  issueInstr 0x0F f s .unused .unused .unused none (fun _ => true) (fun c =>
    let need := if c.wave.rel = 0 then componentsOf f.var &&& c.grp.cur.differs c.grp.pro else c.wave.rel
    if need = 0 then .done c.st
    else
      let t := c.updWave c.st (fun w => { w with rel := w.rel ||| need })
      match t.group? c.grp.id with
      | none => .done t
      | some g =>
        let t := if g.lowerable = 0 then t else t.lower c.grp.id (some c.wave.id) g.lowerable
        match t.group? c.grp.id with
        | some g => if need &&& g.cur.differs g.pro = 0 then .done t else .wait true t
        | none => .done t)

/-! ### Task instructions -/

/-- The launch of a task instruction: none for a free wave, in which it is illegal (R322). -/
def Ctx.inTask (c : Ctx) (body : Launch → Res) : Res :=
  match c.launch? with
  | none => .fault codeInstr
  | some l => body l

/-- A group's held-back effect recorded, if the deferred area has room for its record; else the task exhausts (R184, R285). -/
def Ctx.defer (c : Ctx) (s : State) (d : Deferred) (size : Nat) : Res :=
  if c.grp.deferCap < c.grp.deferUsed + size then .moved (c.st.exhaust c.grp.id c.wave.id c.path.pc)
  else .done (c.updGroup s (fun g => { g with deferred := g.deferred ++ [(c.path.pc, d)], deferUsed := g.deferUsed + size }))

/-- The children that the tasks of a launch hold back (R323). -/
def State.heldChildren (s : State) (l : Nat) : Nat :=
  (s.groups.filter (fun g => g.launch = some l)).foldl (fun acc g => acc + (g.deferred.filter (fun d => match d.2 with
    | .spawn _ => true
    | _ => false)).length) 0

/-- TSPAWN (R322, R323). The task count that bounds it takes in the initial tasks and the children, and no split halves
(assumption 28). -/
def execTspawn (f : Form) (s : State) : Host.Outcome State Fault Refusal :=
  issueInstr 0x10 f s .unused (.sblock 6 false) (.uni false) none (fun _ => true) (fun c => c.inTask (fun l =>
    let r := fun (k : Nat) => (c.wave.readS c.st.tick 1 (sIndex f.a + k)).toNat
    let t : Task := ⟨r 0, r 1, r 2, r 3, r 4, r 5, word (c.uniform 2 .n32 f.b), [], none⟩
    if l.recd.pclass = 0 then .fault codeSpawn
    else if r 3 = 0 || r 4 = 0 || r 5 = 0 || 2 ^ 32 < r 0 + r 3 || 2 ^ 32 < r 1 + r 4 || 2 ^ 32 < r 2 + r 5 then
      .fault codeOperand
    else if 2 ^ 32 ≤ l.total + c.st.heldChildren l.id + 1 then .fault codeSpawn
    else if c.divisible then c.defer c.st (.spawn t) 64
    else .done (c.st.updLaunch l.id (fun l => { l with
      tasks := insertChild { t with born := some (c.grp.id, c.grp.clockAt, c.wave.id) } l.tasks
      total := l.total + 1
      headFrom := if l.tasks.isEmpty then c.st.edges else l.headFrom }))))

/-- A field of a task's box, or its argument (R324). -/
def Task.field (t : Task) (k : Nat) : Nat :=
  match k with
  | 0 => t.ox
  | 1 => t.oy
  | 2 => t.oz
  | 3 => t.ex
  | 4 => t.ey
  | 5 => t.ez
  | _ => t.arg.toNat

/-- TDOM (R324). -/
def execTdom (f : Form) (s : State) : Host.Outcome State Fault Refusal :=
  issueInstr 0x11 f s (.reg false) .unused .unused none (fun _ => true) (fun c => c.inTask (fun _ =>
    .done (c.write c.st f.d false (fun _ => c.grp.task.field f.var.toNat))))

/-- TSPLIT (R325). -/
def execTsplit (f : Form) (s : State) : Host.Outcome State Fault Refusal :=
  issueInstr 0x12 f s (Allow.pred.orNone) .unused .unused none (fun _ => true) (fun c => c.inTask (fun l =>
    if c.divisible && (c.grp.task.splitAxis l.recd).isSome then .moved (c.st.exhaust c.grp.id c.wave.id c.path.pc)
    else .done (c.write c.st f.d false (fun _ => 0))))

/-- Whether the launch's cancel bit is set on the group's facet (R290, R326). -/
def Ctx.cancelled (c : Ctx) (l : Launch) : Bool := l.bits.getLsbD c.grp.facet

/-- TCHK (R326). -/
def execTchk (f : Form) (s : State) : Host.Outcome State Fault Refusal :=
  issueInstr 0x13 f s .unused .unused .unused none (fun _ => true) (fun c => c.inTask (fun l =>
    if c.cancelled l then .moved (c.st.abortTask c.grp.id) else .done c.st))

/-- TCHK.TEST (R326). -/
def execTchkTest (f : Form) (s : State) : Host.Outcome State Fault Refusal :=
  issueInstr 0x13 f s .pred .unused .unused none (fun _ => true) (fun c => c.inTask (fun l =>
    .done (c.write c.st f.d false (fun _ => if c.cancelled l then 1 else 0))))

/-- TCHK.TRAP (R326, R408, R411). -/
def execTchkTrap (f : Form) (s : State) : Host.Outcome State Fault Refusal :=
  issueInstr 0x13 f s .unused .unused .unused none (fun _ => true) (fun c => c.inTask (fun l =>
    if c.cancelled l then
      .moved ((c.goOn c.st).trapEntry c.grp.id c.wave.id c.path
        { lanes := c.act, code := codeCancel, pc := c.path.pc, rpc := c.path.pc + 12, info := 0 })
    else .done c.st))

/-! ### Scratchpad regions -/

/-- Whether a facet lies in the partition of a group's context. -/
def State.inPartition (s : State) (g : Group) (facet : Nat) : Bool :=
  match s.ctx? g.ctx with
  | some c => ctxOwns c facet
  | none => false

/-- The lowest 4 KiB-aligned offset with `n` free bytes above it (R327). -/
def lowestFree (taken : List (Nat × Nat)) (limit n : Nat) : Option Nat :=
  let starts := 0 :: taken.map (fun (b, m) => roundUp (b + m) 4096)
  let ok := starts.filter (fun b => b + n ≤ limit && rangeFree taken b n)
  if ok.isEmpty then none else some (minList limit ok)

/-- `n` bytes of scratchpad returned to zero, by a write of zeros. -/
def State.zeroSpad (s : State) (key n : Nat) : State :=
  { s with spad := s.spad.clear key n,
           badSpad := cleared key n s.badSpad,
           groups := s.groups.map (fun g => { g with
             waves := g.waves.map (fun w => { w with resvP := dropSectors key n w.resvP }) }) }

/-- The live SALLOC bytes of an issuer. -/
def State.liveBytes (s : State) (gid : Nat) : Nat :=
  s.facets.foldl (fun acc f => (f.regions.filter (fun r => r.issuer = gid)).foldl (fun acc r => acc + r.size) acc) 0

/-- SALLOC (R327). -/
def execSalloc (f : Form) (s : State) : Host.Outcome State Fault Refusal :=
  let named := bit f.var 0
  issueInstr 0x14 f s (.reg false) (.uni false) (if named then .uni false else .unused) none (fun _ => true) (fun c =>
    let n := c.uniform 1 .n32 f.a
    let q := if named then c.uniform 2 .n32 f.b else c.grp.facet % 4
    let facet := c.grp.die * 4 + q
    let fac := c.st.facet facet
    if n % 4096 ≠ 0 || n = 0 || 25165824 < n || 4 ≤ q then .fault codeOperand
    else if !c.st.inPartition c.grp facet then .fault codeSpad
    else if c.grp.ceil * 4096 < c.st.liveBytes c.grp.id + n then
      if c.divisible then .moved (c.st.exhaust c.grp.id c.wave.id c.path.pc)
      else .done (c.write c.st f.d false (fun _ => 0xFFFFFFFF))
    else
      let place := if 256 ≤ fac.regions.length then none
        else lowestFree (c.st.taken facet 0) (fac.spadUnits * 65536) n
      match place with
      | none => .done (c.write c.st f.d false (fun _ => 0xFFFFFFFF))
      | some base =>
        let r : Region := ⟨base, n, c.grp.ctx, c.grp.id, c.grp.free.isNone, c.grp.div⟩
        let t := (c.st.updFacet facet (fun x => { x with regions := x.regions ++ [r] })).zeroSpad
          (spadKey c.grp.die (q * 2 ^ 26 + base)) n
        if c.st.spoils t then .wait false c.st else .done (c.write t f.d false (fun _ => q * 2 ^ 26 + base)))

/-- Whether an interest record of a context delivers into a range of keys of the scratchpad. -/
def State.deliversInto (s : State) (ctx a n len : Nat) (x : IntRec) : Bool :=
  match x.who with
  | .localCmd g _ _ =>
    (match s.group? g with
     | some g => g.ctx = ctx
     | none => false) && x.sp && meets x.loc len a n
  | .face _ => false

/-- The NWANTs of a context into a range of scratchpad whose interests have not reached their router: group, wave and sequence number of
each. -/
def State.queuedInto (s : State) (ctx key n : Nat) : List (Nat × Nat × Nat) :=
  (s.groups.filter (fun g => g.ctx = ctx)).flatMap (fun g => g.waves.flatMap (fun w => (w.cmds.filter (fun c =>
    c.stage = .queued && (match c.effect with
      | .nwant true k loc _ => meets (spadKey c.die loc) k.len key n
      | _ => false))).map (fun c => (g.id, w.id, c.seq))))

/-- The pending interests that deliver into `n` bytes of scratchpad from a key on withdrawn, at whichever router they stand or before they
reach one: their NWANTs complete with CANCELLED (R328). -/
def State.cancelInto (s : State) (ctx key n : Nat) : State :=
  let hit := fun (e : IntEntry) => e.recs.filter (s.deliversInto ctx key n e.key.len)
  let recs := (s.routers.flatMap Router.entries).flatMap hit
  let s' := { s with routers := s.routers.map (fun r => { r with
    closed := r.closed || r.entries.any (fun e => !(hit e).isEmpty)
    entries := (r.entries.map (fun e => { e with recs := e.recs.filter (fun x => !s.deliversInto ctx key n e.key.len x) })).filter
      (fun e => !e.recs.isEmpty) }) }
  let waiting := recs.filterMap (fun x => match x.who with
    | .localCmd g w seq => some (g, w, seq)
    | .face _ => none)
  (waiting ++ s.queuedInto ctx key n).foldl (fun s x => s.cancelNow x.1 x.2.1 5 x.2.2) s'

/-- SFREE (R328). An interest that another wave issues into the region while the SFREE is parked is not withdrawn, but waited for
(assumption 102). -/
def execSfree (f : Form) (s : State) : Host.Outcome State Fault Refusal :=
  issueInstr 0x15 f s .unused (.uni false) .unused none (fun _ => true) (fun c =>
    let a := c.uniform 1 .n32 f.a
    let facet := c.grp.die * 4 + a / 2 ^ 26 % 4
    match (c.st.facet facet).regions.find? (fun r => r.base = a % 2 ^ 26 && a < 2 ^ 28 && r.ctx = c.grp.ctx) with
    | none => .fault codeSpad
    | some r =>
      if c.divisible && !(r.owned && r.issuer = c.grp.id) then .fault codeDiv
      else
        let t := c.st.cancelInto c.grp.ctx (spadKey c.grp.die a) r.size
        if t.regionUsed c.grp.ctx c.grp.die a r.size then .done (c.parks t (.sfree facet r.base))
        else .done (t.updFacet facet (fun x => { x with regions := x.regions.filter (fun y => y.base ≠ r.base) })))

end Sys2Proof.Machine
end

