-- ==== Sys2Proof/Machine/Elem.lean ====
section
/-! DEFINITION. FEXP2, FLOG2, FSIN, FCOS and FTANH (R129): the exact value to 640 bits below the binary point, then one
rounding. No result but the listed ones is exact, and none lies within 2^-500 of a rounding boundary (assumption 10). -/

namespace Sys2Proof.Machine

/-- Bits below the binary point of the fixed-point numbers of this file. -/
def fracBits : Nat := 640

/-- The number 1 in fixed point. -/
def fixOne : Nat := 2 ^ fracBits

/-- The product of two fixed-point numbers, rounded down. -/
def fixMul (x y : Nat) : Nat := (x * y) >>> fracBits

/-- x + x^3/3 + x^5/5 + ... with alternating signs if `alt`; `pw` is the current power of x. Fuel is the number of terms. -/
def atanSeries (alt : Bool) (x2 : Nat) : Nat → Nat → Nat → Int → Int
  | 0, _, _, acc => acc
  | n + 1, k, pw, acc =>
    let t : Int := (pw / (2 * k + 1) : Nat)
    atanSeries alt x2 n (k + 1) (fixMul pw x2) (if alt && k % 2 = 1 then acc - t else acc + t)

/-- 2 artanh(y) = ln((1+y)/(1-y)) for 0 ≤ y ≤ 1/3. -/
def twoArtanh (y : Nat) : Nat := 2 * (atanSeries false (fixMul y y) 220 0 y 0).toNat

/-- ln 2. -/
def fixLn2 : Nat := twoArtanh (fixOne / 3)

/-- arctan(1/n). -/
def arctanInv (n : Nat) : Nat := (atanSeries true (fixOne / (n * n)) 280 0 (fixOne / n) 0).toNat

/-- pi / 2, by Machin's formula. -/
def fixHalfPi : Nat := 8 * arctanInv 5 - 2 * arctanInv 239

/-- The series of y^k / k! from the term `t`, keeping every `step`-th index, with alternating signs if `alt`. -/
def expSeries : Nat → Nat → Nat → Nat → Nat
  | 0, _, _, _ => 0
  | n + 1, k, y, t => t + expSeries n (k + 1) y (fixMul t y / (k + 1))

/-- e^y for 0 ≤ y < 1. -/
def fixExp (y : Nat) : Nat := expSeries 160 0 y fixOne

/-- The alternating series of sine (from k = 1) and cosine (from k = 0) in r^2: t is the term with index k. -/
def sinSeries (r2 : Nat) : Nat → Nat → Nat → Int → Bool → Int
  | 0, _, _, acc, _ => acc
  | n + 1, k, t, acc, minus =>
    sinSeries r2 n (k + 2) (fixMul t r2 / ((k + 1) * (k + 2))) (if minus then acc - t else acc + t) (!minus)

/-- sin r for 0 ≤ r ≤ pi/4. -/
def fixSin (r : Nat) : Int := sinSeries (fixMul r r) 90 1 r 0 false

/-- cos r for 0 ≤ r ≤ pi/4. -/
def fixCos (r : Nat) : Int := sinSeries (fixMul r r) 90 0 fixOne 0 false

/-- A fixed-point number that is not exact, rounded to F32. -/
def fixRound (neg : Bool) (x : Nat) (e : Int) : Nat := roundF (sticky neg x false (e - fracBits)) .f32 .rn false

/-- A value m * 2^e as a fixed-point number, rounded down. -/
def toFix (m : Nat) (e : Int) : Nat :=
  let k := e + fracBits
  if 0 ≤ k then m <<< k.toNat else m >>> (-k).toNat

/-- FEXP2. -/
def fexp2Pat (a : Nat) : Nat :=
  match dec .f32 a with
  | .nan => Fmt.f32.nan
  | .inf neg => if neg then 0 else infPat .f32 false
  | .fin neg m e =>
    if m = 0 then 0x3F800000
    else if (Nat.log2 m : Int) + e ≥ 9 then (if neg then 0 else infPat .f32 false)
    else
      let x := toFix m e
      let i := x >>> fracBits
      let r := x % fixOne
      if r = 0 then roundF (.fin false 1 (if neg then -(i : Int) else i)) .f32 .rn false
      else if neg then fixRound false (fixExp (fixMul (fixOne - r) fixLn2)) (-(i : Int) - 1)
      else fixRound false (fixExp (fixMul r fixLn2)) i

/-- FLOG2. -/
def flog2Pat (a : Nat) : Nat :=
  match dec .f32 a with
  | .nan => Fmt.f32.nan
  | .inf neg => if neg then Fmt.f32.nan else infPat .f32 false
  | .fin neg m e =>
    if m = 0 then infPat .f32 true
    else if neg then Fmt.f32.nan
    else
      let top : Int := Nat.log2 m
      let ex : Int := top + e
      if m = 2 ^ Nat.log2 m then roundF (.ofInt ex) .f32 .rn false
      else
        let x := toFix m (-top)
        let y := ((x - fixOne) <<< fracBits) / (x + fixOne)
        let l : Int := (twoArtanh y <<< fracBits) / fixLn2
        let s : Int := ex * (fixOne : Nat) + l
        fixRound (decide (s < 0)) s.natAbs 0

/-- sin (or cos, one quadrant further) of ±m * 2^e, rounded to F32. -/
def sinCosPat (quarter : Nat) (neg : Bool) (m : Nat) (e : Int) : Nat :=
  let x := toFix m e
  let k := x / fixHalfPi
  let r := x % fixHalfPi
  -- x = k * pi/2 + r; past pi/4 the series is taken at pi/2 - r with sine and cosine exchanged
  let far := decide (2 * r > fixHalfPi)
  let r' := if far then fixHalfPi - r else r
  let q := (k + quarter) % 4
  let y := if (q % 2 = 0) != far then fixSin r' else fixCos r'
  let sgn := (if quarter = 0 then neg else false) != decide (2 ≤ q)
  fixRound (sgn != decide (y < 0)) y.natAbs 0

/-- FSIN. -/
def fsinPat (a : Nat) : Nat :=
  match dec .f32 a with
  | .nan | .inf _ => Fmt.f32.nan
  | .fin neg m e => if m = 0 then a else sinCosPat 0 neg m e

/-- FCOS. -/
def fcosPat (a : Nat) : Nat :=
  match dec .f32 a with
  | .nan | .inf _ => Fmt.f32.nan
  | .fin neg m e => if m = 0 then 0x3F800000 else sinCosPat 1 neg m e

/-- FTANH. -/
def ftanhPat (a : Nat) : Nat :=
  match dec .f32 a with
  | .nan => Fmt.f32.nan
  | .inf neg => withSign .f32 neg 0x3F800000
  | .fin neg m e =>
    if m = 0 then a
    else if (Nat.log2 m : Int) + e ≥ 4 then withSign .f32 neg 0x3F800000
    else
      let x := 2 * toFix m e
      let i := x / fixLn2
      let ex := fixExp (x % fixLn2) <<< i
      fixRound neg (((ex - fixOne) <<< fracBits) / (ex + fixOne)) 0

end Sys2Proof.Machine
end

