-- ==== Sys2Proof/Machine/IntAlu.lean ====
section
/-! DEFINITION. Integer arithmetic, compare, select and address (R102 to R108). -/

namespace Sys2Proof.Machine

open Sys2Proof

/-- Whether a type is 64 bits wide. -/
def wideTy (t : Ty) : Bool := tyWidth t = 64

/-- An instruction of R103 with the sources A and B: an exact result, wrapped, or saturated under .SAT. -/
def arith2 (op : Nat) (f : Form) (s : State) (fn : Int → Int → Int) : Host.Outcome State Fault Refusal :=
  let w := wideTy f.ty
  issueInstr op f s (.dst w) (.src w) (.src w) none (fun _ => true) (fun c =>
    .done (c.writeTy c.st (fun l =>
      let t := fn (c.readInt 1 f.ty f.a l) (c.readInt 2 f.ty f.b l)
      wrapInt (if f.var = 1#4 then satInt t f.ty else t) (tyWidth f.ty))))

/-- An instruction of R103 with the sources A, B and C. -/
def arith3 (op : Nat) (f : Form) (s : State) (fn : Int → Int → Int → Int) : Host.Outcome State Fault Refusal :=
  let w := wideTy f.ty
  issueInstr op f s (.dst w) (.src w) (.src w) (some (.src w)) (fun _ => true) (fun c =>
    .done (c.writeTy c.st (fun l =>
      wrapInt (fn (c.readInt 1 f.ty f.a l) (c.readInt 2 f.ty f.b l) (c.readInt 3 f.ty f.c l)) (tyWidth f.ty))))

/-- The quotient of IDIV and the remainder of IREM (R103). -/
def divide (t : Ty) (a b : Int) : Int := if b = 0 then 2 ^ tyWidth t - 1 else a.tdiv b
def remainder (a b : Int) : Int := if b = 0 then a else a - b * a.tdiv b

/-- IADD (R103). -/
def execIadd (f : Form) (s : State) : Host.Outcome State Fault Refusal := arith2 0x20 f s (fun a b => a + b)
/-- ISUB (R103). -/
def execIsub (f : Form) (s : State) : Host.Outcome State Fault Refusal := arith2 0x21 f s (fun a b => a - b)
/-- IMUL (R103). -/
def execImul (f : Form) (s : State) : Host.Outcome State Fault Refusal := arith2 0x23 f s (fun a b => a * b)
/-- IMULH (R103). -/
def execImulh (f : Form) (s : State) : Host.Outcome State Fault Refusal :=
  arith2 0x24 f s (fun a b => (a * b).fdiv (2 ^ tyWidth f.ty))
/-- IMAD (R103). -/
def execImad (f : Form) (s : State) : Host.Outcome State Fault Refusal := arith3 0x25 f s (fun a b c => a * b + c)
/-- IDIV (R103). -/
def execIdiv (f : Form) (s : State) : Host.Outcome State Fault Refusal := arith2 0x27 f s (divide f.ty)
/-- IREM (R103). -/
def execIrem (f : Form) (s : State) : Host.Outcome State Fault Refusal := arith2 0x28 f s remainder
/-- IMIN (R103). -/
def execImin (f : Form) (s : State) : Host.Outcome State Fault Refusal := arith2 0x29 f s min
/-- IMAX (R103). -/
def execImax (f : Form) (s : State) : Host.Outcome State Fault Refusal := arith2 0x2A f s max
/-- ISAD (R103). -/
def execIsad (f : Form) (s : State) : Host.Outcome State Fault Refusal := arith3 0x2C f s (fun a b c => (a - b).natAbs + c)

/-- IABS (R103). -/
def execIabs (f : Form) (s : State) : Host.Outcome State Fault Refusal :=
  let w := wideTy f.ty
  issueInstr 0x2B f s (.dst w) (.src w) .unused none (fun _ => true) (fun c =>
    .done (c.writeTy c.st (fun l =>
      let t : Int := (c.readInt 1 f.ty f.a l).natAbs
      wrapInt (if f.var = 1#4 then satInt t f.ty else t) (tyWidth f.ty))))

/-- IADDC (R104): the carry is read from and written to the predicate that C names. -/
def execIaddc (f : Form) (s : State) : Host.Outcome State Fault Refusal :=
  let w := wideTy f.ty
  issueInstr 0x22 f s (.dst w) (.src w) (.src w) (some .pred) (fun _ => true) (fun c =>
    let r := fun l => addCarry (tyWidth f.ty) (8 ≤ f.var.toNat) (c.read 1 f.ty f.a l) (c.read 2 f.ty f.b l)
      (c.read 3 .b32 f.c l = 1)
    let t := c.writeTy c.st (fun l => (r l).1)
    .done (c.write t f.c false (fun l => if (r l).2 then 1 else 0)))

/-- IMADW (R105). An immediate C is read under the type of the 64-bit addend (assumption 100). -/
def execImadw (f : Form) (s : State) : Host.Outcome State Fault Refusal :=
  let t64 : Ty := if f.ty = .s32 then .s64 else .n64
  issueInstr 0x26 f s (.dst true) (.src false) (.src false) (some (.src true)) (fun _ => true) (fun c =>
    .done (c.write c.st f.d true (fun l =>
      wrapInt (c.readInt 1 f.ty f.a l * c.readInt 2 f.ty f.b l + c.readInt 3 t64 f.c l) 64)))

/-- The third operand of a compare, which must be none: as 0xE00 in IMM[11:0], or left out with an IMM of 0 or the long immediate (R52,
R106, assumption 69). -/
def thirdNone (f : Form) : Option Allow := if f.hasLong || f.imm = 0 then none else some .unused

/-- ISETP (R106). -/
def execIsetp (f : Form) (s : State) : Host.Outcome State Fault Refusal :=
  let w := wideTy f.ty
  issueInstr 0x2D f s .pred (.src w) (.src w) (thirdNone f) (fun _ => true) (fun c =>
    .done (c.write c.st f.d false (fun l =>
      let t := icompare (f.var.toNat % 8) (c.readInt 1 f.ty f.a l) (c.readInt 2 f.ty f.b l)
      if accumulate (8 ≤ f.var.toNat) (c.read 3 .b32 f.d l = 1) t then 1 else 0)))

/-- ISEL (R107). -/
def execIsel (f : Form) (s : State) : Host.Outcome State Fault Refusal :=
  let w := wideTy f.ty
  issueInstr 0x2E f s (.dst w) (.src w) (.src w) (some .pred) (fun _ => true) (fun c =>
    .done (c.writeTy c.st (fun l =>
      if c.read 3 .b32 f.c l = 1 then c.read 1 f.ty f.a l else c.read 2 f.ty f.b l)))

/-- LEA (R108). -/
def execLea (f : Form) (s : State) : Host.Outcome State Fault Refusal :=
  let w := wideTy f.ty
  issueInstr 0x2F f s (.dst w) (.src w) (.src false) none (fun _ => true) (fun c =>
    .done (c.writeTy c.st (fun l =>
      let b : Int := if 8 ≤ f.var.toNat then c.readInt 2 .s32 f.b l else c.read 2 .n32 f.b l
      wrapInt ((c.read 1 f.ty f.a l : Nat) + b * 2 ^ (f.var.toNat % 8)) (tyWidth f.ty))))

end Sys2Proof.Machine
end

