-- ==== Sys2Proof/Machine/Float.lean ====
section
/-! DEFINITION. Vector floating point: F32 arithmetic, compares, packed pairs and dot products (R123 to R133). -/

namespace Sys2Proof.Machine

open Sys2Proof

/-- The rounding mode in VAR[1:0] (R60). -/
def modeOf (var : BitVec 4) : Rnd :=
  match var.toNat % 4 with
  | 0 => .rn
  | 1 => .rz
  | 2 => .ru
  | _ => .rd

def f32 (x : Nat) : FVal := dec .f32 x

/-- An F32 instruction with one source. -/
def float1 (op : Nat) (f : Form) (s : State) (fn : Nat → Nat) : Host.Outcome State Fault Refusal :=
  issueInstr op f s (.dst false) (.src false) .unused none (fun _ => true) (fun c =>
    .done (c.writeTy c.st (fun l => fn (c.read 1 .f32 f.a l))))

/-- An F32 instruction with two sources. -/
def float2 (op : Nat) (f : Form) (s : State) (fn : Nat → Nat → Nat) : Host.Outcome State Fault Refusal :=
  issueInstr op f s (.dst false) (.src false) (.src false) none (fun _ => true) (fun c =>
    .done (c.writeTy c.st (fun l => fn (c.read 1 .f32 f.a l) (c.read 2 .f32 f.b l))))

/-- FADD (R124). -/
def execFadd (f : Form) (s : State) : Host.Outcome State Fault Refusal :=
  float2 0x48 f s (fun a b => dotRound [(f32 a, FVal.one)] (f32 b) (modeOf f.var))
/-- FSUB (R124). -/
def execFsub (f : Form) (s : State) : Host.Outcome State Fault Refusal :=
  float2 0x49 f s (fun a b => dotRound [(f32 a, FVal.one)] (f32 b).negate (modeOf f.var))
/-- FMUL (R124). -/
def execFmul (f : Form) (s : State) : Host.Outcome State Fault Refusal :=
  float2 0x4A f s (fun a b => mulTo .f32 (f32 a) (f32 b) (modeOf f.var))
/-- FFMA (R124). -/
def execFfma (f : Form) (s : State) : Host.Outcome State Fault Refusal :=
  issueInstr 0x4B f s (.dst false) (.src false) (.src false) (some (.src false)) (fun _ => true) (fun c =>
    .done (c.writeTy c.st (fun l =>
      dotRound [(f32 (c.read 1 .f32 f.a l), f32 (c.read 2 .f32 f.b l))] (f32 (c.read 3 .f32 f.c l)) (modeOf f.var))))
/-- FMIN (R125). -/
def execFmin (f : Form) (s : State) : Host.Outcome State Fault Refusal := float2 0x4C f s (fminmax false (f.var = 1#4))
/-- FMAX (R125). -/
def execFmax (f : Form) (s : State) : Host.Outcome State Fault Refusal := float2 0x4D f s (fminmax true (f.var = 1#4))

/-- FSETP (R126). -/
def execFsetp (f : Form) (s : State) : Host.Outcome State Fault Refusal :=
  issueInstr 0x4E f s .pred (.src false) (.src false) (thirdNone f) (fun _ => true) (fun c =>
    .done (c.write c.st f.d false (fun l =>
      let t := fcompare (f.var.toNat % 8) (c.read 1 .f32 f.a l) (c.read 2 .f32 f.b l)
      if accumulate (8 ≤ f.var.toNat) (c.read 3 .b32 f.d l = 1) t then 1 else 0)))

/-- FCLASS (R127): a one-hot word, or a masked predicate. -/
def execFclass (f : Form) (s : State) : Host.Outcome State Fault Refusal :=
  match f.d with
  | .p _ =>
    issueInstr 0x4F f s .pred (.src false) (.src false) none (fun _ => true) (fun c =>
      .done (c.write c.st f.d false (fun l =>
        if classIn (fclass (c.read 1 .f32 f.a l)) (c.read 2 .b32 f.b l) then 1 else 0)))
  | _ =>
    issueInstr 0x4F f s (.dst false) (.src false) .unused none (fun _ => true) (fun c =>
      .done (c.write c.st f.d false (fun l => 2 ^ fclass (c.read 1 .f32 f.a l))))

/-- FRCP (R128). -/
def execFrcp (f : Form) (s : State) : Host.Outcome State Fault Refusal :=
  float1 0x50 f s (fun a => fdivPat FVal.one (f32 a) (modeOf f.var))
/-- FRSQ (R128). -/
def execFrsq (f : Form) (s : State) : Host.Outcome State Fault Refusal := float1 0x51 f s (fun a => frsqPat a (modeOf f.var))
/-- FSQRT (R128). -/
def execFsqrt (f : Form) (s : State) : Host.Outcome State Fault Refusal := float1 0x52 f s (fun a => fsqrtPat a (modeOf f.var))
/-- FDIV (R128). -/
def execFdiv (f : Form) (s : State) : Host.Outcome State Fault Refusal :=
  float2 0x53 f s (fun a b => fdivPat (f32 a) (f32 b) (modeOf f.var))
/-- FEXP2 (R129). -/
def execFexp2 (f : Form) (s : State) : Host.Outcome State Fault Refusal := float1 0x54 f s fexp2Pat
/-- FLOG2 (R129). -/
def execFlog2 (f : Form) (s : State) : Host.Outcome State Fault Refusal := float1 0x55 f s flog2Pat
/-- FSIN (R129). -/
def execFsin (f : Form) (s : State) : Host.Outcome State Fault Refusal := float1 0x56 f s fsinPat
/-- FCOS (R129). -/
def execFcos (f : Form) (s : State) : Host.Outcome State Fault Refusal := float1 0x57 f s fcosPat
/-- FTANH (R129). -/
def execFtanh (f : Form) (s : State) : Host.Outcome State Fault Refusal := float1 0x58 f s ftanhPat
/-- FRND (R130). -/
def execFrnd (f : Form) (s : State) : Host.Outcome State Fault Refusal := float1 0x59 f s (fun a => frndPat a (modeOf f.var))

/-- FSCALE (R131). -/
def execFscale (f : Form) (s : State) : Host.Outcome State Fault Refusal :=
  issueInstr 0x5A f s (.dst false) (.src false) (.src false) none (fun _ => true) (fun c =>
    .done (c.writeTy c.st (fun l => fscalePat (c.read 1 .f32 f.a l) (c.readInt 2 .s32 f.b l) (modeOf f.var))))

/-! ### Packed pairs and dot products (R132, R133) -/

/-- Element `i` of `n` bits of a register (R132). -/
def elemOf (n x i : Nat) : Nat := x / 2 ^ (n * i) % 2 ^ n

/-- A packed result of two 16-bit elements. -/
def pack2 (fn : Nat → Nat) : Nat := fn 0 + fn 1 * 2 ^ 16

/-- HFMA2 (R132). -/
def execHfma2 (f : Form) (s : State) : Host.Outcome State Fault Refusal :=
  let m := fmtOf f.ty
  issueInstr 0x5B f s (.dst false) (.src false) (.src false) (some (.src false)) (fun _ => true) (fun c =>
    .done (c.write c.st f.d false (fun l =>
      let e := fun x i => dec m (elemOf 16 x i)
      pack2 (fun i => dotRoundTo m [(e (c.read 1 .b32 f.a l) i, e (c.read 2 .b32 f.b l) i)] (e (c.read 3 .b32 f.c l) i)
        (modeOf f.var)))))

/-- HADD2 (R132). -/
def execHadd2 (f : Form) (s : State) : Host.Outcome State Fault Refusal :=
  let m := fmtOf f.ty
  issueInstr 0x5C f s (.dst false) (.src false) (.src false) none (fun _ => true) (fun c =>
    .done (c.write c.st f.d false (fun l =>
      let e := fun x i => dec m (elemOf 16 x i)
      pack2 (fun i => dotRoundTo m [(e (c.read 1 .b32 f.a l) i, FVal.one)] (e (c.read 2 .b32 f.b l) i) (modeOf f.var)))))

/-- HMUL2 (R132). -/
def execHmul2 (f : Form) (s : State) : Host.Outcome State Fault Refusal :=
  let m := fmtOf f.ty
  issueInstr 0x5D f s (.dst false) (.src false) (.src false) none (fun _ => true) (fun c =>
    .done (c.write c.st f.d false (fun l =>
      let e := fun x i => dec m (elemOf 16 x i)
      pack2 (fun i => mulTo m (e (c.read 1 .b32 f.a l) i) (e (c.read 2 .b32 f.b l) i) (modeOf f.var)))))

/-- The dot product of `n` elements of `w` bits into an F32 accumulator (R133). -/
def dotElems (m : Fmt) (w n a b : Nat) (cc : FVal) (mode : Rnd) : Nat :=
  dotRound ((List.range n).map (fun i => (dec m (elemOf w a i), dec m (elemOf w b i)))) cc mode

/-- FDOT2 (R133). -/
def execFdot2 (f : Form) (s : State) : Host.Outcome State Fault Refusal :=
  issueInstr 0x5E f s (.dst false) (.src false) (.src false) (some (.src false)) (fun _ => true) (fun c =>
    .done (c.write c.st f.d false (fun l =>
      dotElems (fmtOf f.ty) 16 2 (c.read 1 .b32 f.a l) (c.read 2 .b32 f.b l) (f32 (c.read 3 .f32 f.c l)) (modeOf f.var))))

/-- ELEM, EXTRA and SAT of a format slot (R90). -/
def slotElem (x : BitVec 16) : Nat := bits x 12 4
def slotExtra (x : BitVec 16) : Bool := bit x 7
def slotSat (x : BitVec 16) : Bool := bit x 6

/-- The type of a slot's elements, for ELEM 1 to 5 (R90). -/
def slotTy (x : BitVec 16) : Ty :=
  match slotElem x with
  | 2 => .f16
  | 3 => .bf16
  | 4 => .f8e4
  | 5 => .f8e5
  | _ => .f32

/-- The launch format slot that an instruction in slot mode names (R59). -/
def Ctx.slot (c : Ctx) : BitVec 16 := c.grp.slots.getD (c.form.var.toNat % 8) 0

/-- Whether an instruction, if it is in slot mode, finds a slot whose ELEM it accepts (R59, R91). -/
def Ctx.slotOk (c : Ctx) (lo hi : Nat) : Bool :=
  c.form.ty ≠ .slot || (lo ≤ slotElem c.slot && slotElem c.slot ≤ hi)

/-- The element type of an instruction that may be in slot mode. -/
def Ctx.elemTy (c : Ctx) : Ty := if c.form.ty = .slot then slotTy c.slot else c.form.ty

/-- The rounding mode, RN in slot mode (R133, R134). -/
def Ctx.mode (c : Ctx) : Rnd := if c.form.ty = .slot then .rn else modeOf c.form.var

/-- .SAT, or the SAT bit of the slot (R134). -/
def Ctx.sat (c : Ctx) : Bool := if c.form.ty = .slot then slotSat c.slot else c.form.var.toNat / 4 % 2 = 1

/-- FDOT4 (R133). -/
def execFdot4 (f : Form) (s : State) : Host.Outcome State Fault Refusal :=
  issueInstr 0x5F f s (.dst false) (.src false) (.src false) (some (.src false)) (fun c => c.slotOk 4 5) (fun c =>
    .done (c.write c.st f.d false (fun l =>
      dotElems (fmtOf c.elemTy) 8 4 (c.read 1 .b32 f.a l) (c.read 2 .b32 f.b l) (f32 (c.read 3 .f32 f.c l)) c.mode)))

end Sys2Proof.Machine
end

