-- ==== Sys2Proof/Machine/Command.lean ====
section
/-! DEFINITION. The issue of a command: the checks of its ranges of local bytes, and its wait for room (R179, R206, R215). -/

namespace Sys2Proof.Machine

open Sys2Proof

/-! ### Ranges of local bytes -/

/-- What `n` scratchpad bytes from `a` fail with, region by region; the first number is one more than the regions a quarter can
hold. -/
def spadCodes (s : State) (g : Group) (write : Bool) : Nat → Nat → Nat → List Code
  | 0, _, _ => []
  | k + 1, a, n =>
    if n = 0 then []
    else
      let rest := match (s.facet (g.die * 4 + a / 2 ^ 26 % 4)).regionAt (a % 2 ^ 26) 1 with
        | some r =>
          let m := r.base + r.size - a % 2 ^ 26
          spadCodes s g write k (a + m) (n - m)
        | none => []
      (checkLocal s g true write a 1).toList ++ rest

/-- The failures of R215 over `n` local bytes from `a`, alignment apart. -/
def rangeCodes (s : State) (g : Group) (sp write : Bool) (a n : Nat) : List Code :=
  if sp then spadCodes s g write 257 a n else (checkLocal s g false write a n).toList

/-- The failure that decides: a range fault comes before a divisible violation (R215). -/
def firstCode (cs : List Code) : Option Code :=
  match cs.find? (fun c => c ≠ codeDiv) with
  | some c => some c
  | none => cs.head?

/-- The failures of the local rows of a bulk command. A row that starts below 0 is out of range. -/
def Bulk.localCodes (d : Bulk) (s : State) (g : Group) (sp write : Bool) : List Code :=
  d.rowList.flatMap (fun (_, l) =>
    if l < 0 then [if sp then codeSpad else codeOperand] else rangeCodes s g sp write l.toNat d.len)

/-! ### Acceptance -/

/-- Whether a command of a class must wait at its instruction (R151, R179, R206). -/
def Ctx.full (c : Ctx) (cls : Nat) : Bool := c.st.classFull c.grp c.wave cls

/-- A command issued (R206): it waits without issuing where its queue is full, a request with no key is the key fault (R394), and a
divisible task may hold its effect back (R184). -/
def Ctx.command (c : Ctx) (cls : Nat) (e : Effect) (h : Option Nat) (rel : Bool := false) (status : Byte := 0) : Res :=
  if c.full cls then .wait false c.st
  else if !e.access.1.isEmpty && !c.st.keyBound c.grp.ctx then .fault codeKey
  else
    match c.st.accept c.grp.id c.wave.id { cls := cls, effect := e, pc := c.path.pc, mask := c.act, h := h, rel := rel, status := status } with
    | (t, true) => .done t
    | (t, false) => .moved t

end Sys2Proof.Machine
end

