-- ==== Sys2Proof/Machine/LocalMem.lean ====
section
/-! DEFINITION. Loads, stores, atomics and reservations on shared memory and scratchpad, and the spill stack, OP 0x80 to 0x8D
(R214 to R223). -/

namespace Sys2Proof.Machine

open Sys2Proof

/-- The address operand of a local access (R214). -/
def Allow.addr : Allow := { v := true, s := true }

/-- The value operand of a store or an atomic (R214, R224). -/
def Allow.value (wide : Bool) : Allow := { v := true, s := true, g := true, imm := true, wide := wide }

/-- addr(l) of R215 under a signed offset. -/
def Ctx.localAddr (c : Ctx) (off : Int) (l : Nat) : Nat := wrapInt (c.read 1 .n32 c.form.a l + off) 32

/-- The offset of a load or store (R214). -/
def wordOff (imm : BitVec 32) : Int := sx imm.toNat 32
/-- The offset of the atomic layout (R214). -/
def atomicOff (imm : BitVec 32) : Int := sx (bits imm 0 20) 20

/-- A local access whose addresses pass R215, and which finds every access performed that it comes after (R245, R249). One that
reads an uncorrectable word ends its launch (R203). -/
def Ctx.localAccess (c : Ctx) (sp read write : Bool) (off : Int) (rel : Bool) (body : Res) : Res :=
  match checkLanes c.st c.grp sp write (tySize c.form.ty) ((lanesOf c.act).map (c.localAddr off)) with
  | some k => .fault k
  | none =>
    if c.wave.releaseOwed || (rel && !c.wave.allDone (fun _ => true)) then .wait false c.st
    else
      match (if read then (lanesOf c.act).findSome? (fun l => c.st.badLocal c.grp sp (c.localAddr off l) (tySize c.form.ty)) else none) with
      | some a => .moved (c.st.uncorrectable c.grp.id c.wave.id c.path.pc a)
      | none => body

/-- An element of local storage as a number. -/
def State.localNum (s : State) (gid : Nat) (sp : Bool) (a n : Nat) : Nat := ofBytes (s.readLocal gid sp a n)

/-- LDS and LDP (R216). -/
def loadLocal (op : Nat) (sp : Bool) (f : Form) (s : State) : Host.Outcome State Fault Refusal :=
  issueInstr op f s { v := true, s := true, wide := wideTy f.ty } .addr .unused none (fun _ => true) (fun c =>
    c.localAccess sp true false (wordOff f.imm) false
      (.done (c.writeTy c.st (fun l =>
        extend f.ty (c.st.localNum c.grp.id sp (c.localAddr (wordOff f.imm) l) (tySize f.ty))))))

/-- STS and STP (R216): the lanes in ascending order, so that the highest-numbered one wins. -/
def storeLocalInstr (op : Nat) (sp : Bool) (f : Form) (s : State) : Host.Outcome State Fault Refusal :=
  issueInstr op f s .unused .addr (.value (wideTy f.ty)) none (fun _ => true) (fun c =>
    c.localAccess sp false true (wordOff f.imm) false
      (.done (((lanesOf c.act).foldl (fun s l =>
        s.storeLocal c.grp.id sp (c.localAddr (wordOff f.imm) l) (toBytes (tySize f.ty) (c.read 2 f.ty f.b l))) c.st).replacedLocal
          c.grp sp ((lanesOf c.act).map (fun l => (c.localAddr (wordOff f.imm) l, tySize f.ty))))))

/-- LDS (R216). -/
def execLds (f : Form) (s : State) : Host.Outcome State Fault Refusal := loadLocal 0x80 false f s
/-- STS (R216). -/
def execSts (f : Form) (s : State) : Host.Outcome State Fault Refusal := storeLocalInstr 0x81 false f s
/-- LDP (R216). -/
def execLdp (f : Form) (s : State) : Host.Outcome State Fault Refusal := loadLocal 0x82 true f s
/-- STP (R216). -/
def execStp (f : Form) (s : State) : Host.Outcome State Fault Refusal := storeLocalInstr 0x83 true f s

/-! ### Atomics -/

/-- `atom_op` of R218 on the bit patterns of an element. -/
def atomOp (op : Nat) (t : Ty) (old b : Nat) : Nat :=
  let w := tyWidth t
  let pick := fun (f : Int → Int → Int) => wrapInt (f (asInt t old) (asInt t b)) w
  match op with
  | 0x0 => (old + b) % 2 ^ w
  | 0x1 => if t = .f32 then fminmax false false old b else pick min
  | 0x2 => if t = .f32 then fminmax true false old b else pick max
  | 0x3 => old &&& b
  | 0x4 => old ||| b
  | 0x5 => old ^^^ b
  | 0x6 => b
  | 0x7 => if b ≤ old then 0 else old + 1
  | 0x8 => if old = 0 || b < old then b else old - 1
  | 0x9 => fminmax false true old b
  | 0xA => fminmax true true old b
  | _ => dotRound [(dec .f32 old, FVal.one)] (dec .f32 b) .rn

/-- Whether the ORD field at `lo` names a release (R214, R224). -/
def ordRel (imm : BitVec 32) (lo : Nat) : Bool := bit imm (lo + 1)

/-- One lane after another: each reads what the lane before it left, and what it found is kept by lane (R217). -/
def eachLane (step : State → Nat → State × Nat) : State → List Nat → State × SMap Nat
  | s, [] => (s, [])
  | s, l :: ls =>
    let (t, x) := step s l
    let (u, r) := eachLane step t ls
    (u, (l, x) :: r)

/-- The sector that holds a local address, as a reservation names it; 0 stands for none. -/
def Ctx.sectorOf (c : Ctx) (sp : Bool) (a : Nat) : Nat := (if sp then spadKey c.grp.die a else a) / 64 + 1

/-- The reservations of a wave in one space changed. -/
def Wave.updResv (w : Wave) (sp : Bool) (f : SMap Nat → SMap Nat) : Wave :=
  if sp then { w with resvP := f w.resvP } else { w with resvS := f w.resvS }

/-- A read-modify-write of local storage in ascending lane order; the old values go to D (R217, R219, R220). A lane that writes nothing
still loses its own reservation on the sector (R221). -/
def Ctx.localRmw (c : Ctx) (sp : Bool) (new : Nat → Nat → Option Nat) : Res :=
  let n := tySize c.form.ty
  let off := atomicOff c.form.imm
  c.localAccess sp true true off (ordRel c.form.imm 23)
    (let (t, olds) := eachLane (fun s l =>
        let a := c.localAddr off l
        let old := s.localNum c.grp.id sp a n
        match new l old with
        | some x => (s.storeLocal c.grp.id sp a (toBytes n x), old)
        | none => (c.updWave s (fun w => w.updResv sp (fun r => if look 0 r l = c.sectorOf sp a then put 0 r l 0 else r)), old))
        c.st (lanesOf c.act)
     .done (c.writeTy t (fun l => look 0 olds l)))

/-- ATS and ATP (R219). -/
def localAtomic (op : Nat) (sp : Bool) (f : Form) (s : State) : Host.Outcome State Fault Refusal :=
  issueInstr op f s ((Allow.vreg (wideTy f.ty)).orNone) .addr (.value (wideTy f.ty)) none (fun _ => true) (fun c =>
    c.localRmw sp (fun l old => some (atomOp f.var.toNat f.ty old (c.read 2 f.ty f.b l))))

/-- CASS and CASP (R220). -/
def localCas (op : Nat) (sp : Bool) (f : Form) (s : State) : Host.Outcome State Fault Refusal :=
  issueInstr op f s (.vreg (wideTy f.ty)) .addr (.value (wideTy f.ty)) none (fun _ => true) (fun c =>
    c.localRmw sp (fun l old => if old = c.read 3 f.ty f.d l then some (c.read 2 f.ty f.b l) else none))

/-- ATS (R219). -/
def execAts (f : Form) (s : State) : Host.Outcome State Fault Refusal := localAtomic 0x86 false f s
/-- ATP (R219). -/
def execAtp (f : Form) (s : State) : Host.Outcome State Fault Refusal := localAtomic 0x87 true f s
/-- CASS (R220). -/
def execCass (f : Form) (s : State) : Host.Outcome State Fault Refusal := localCas 0x88 false f s
/-- CASP (R220). -/
def execCasp (f : Form) (s : State) : Host.Outcome State Fault Refusal := localCas 0x89 true f s

/-! ### Reservations -/

/-- LRS and LRP (R221, R222). -/
def loadReserve (op : Nat) (sp : Bool) (f : Form) (s : State) : Host.Outcome State Fault Refusal :=
  issueInstr op f s (.vreg (wideTy f.ty)) .addr .unused none (fun _ => true) (fun c =>
    let off := atomicOff f.imm
    c.localAccess sp true false off (ordRel f.imm 23)
      (let t := c.writeTy c.st (fun l => extend f.ty (c.st.localNum c.grp.id sp (c.localAddr off l) (tySize f.ty)))
       .done (c.updWave t (fun w => w.updResv sp (fun r =>
         (lanesOf c.act).foldl (fun r l => put 0 r l (c.sectorOf sp (c.localAddr off l))) r)))))

/-- The reservation of a lane of the issuing wave in a state. -/
def Ctx.reserved (c : Ctx) (s : State) (sp : Bool) (l : Nat) : Nat :=
  match (s.group? c.grp.id).bind (fun g => g.wave? c.wave.id) with
  | some w => look 0 (if sp then w.resvP else w.resvS) l
  | none => 0

/-- SCS and SCP (R222). -/
def storeConditional (op : Nat) (sp : Bool) (f : Form) (s : State) : Host.Outcome State Fault Refusal :=
  issueInstr op f s .pred .addr (.value (wideTy f.ty)) none (fun _ => true) (fun c =>
    let off := atomicOff f.imm
    c.localAccess sp false true off (ordRel f.imm 23)
      (let (t, oks) := eachLane (fun s l =>
          let a := c.localAddr off l
          let ok := c.reserved s sp l = c.sectorOf sp a
          let s := if ok then s.storeLocal c.grp.id sp a (toBytes (tySize f.ty) (c.read 2 f.ty f.b l)) else s
          (c.updWave s (fun w => w.updResv sp (fun r => put 0 r l 0)), if ok then 1 else 0)) c.st (lanesOf c.act)
       .done (c.write t f.d false (fun l => look 0 oks l))))

/-- LRS (R222). -/
def execLrs (f : Form) (s : State) : Host.Outcome State Fault Refusal := loadReserve 0x8A false f s
/-- SCS (R222). -/
def execScs (f : Form) (s : State) : Host.Outcome State Fault Refusal := storeConditional 0x8B false f s
/-- LRP (R222). -/
def execLrp (f : Form) (s : State) : Host.Outcome State Fault Refusal := loadReserve 0x8C true f s
/-- SCP (R222). -/
def execScp (f : Form) (s : State) : Host.Outcome State Fault Refusal := storeConditional 0x8D true f s

/-! ### The spill stack (R177, R178, R223) -/

/-- The base operand of SPILL and FILL. -/
def Allow.spillBase : Allow := { s := true, none := true }

/-- A block of k v registers or k s registers (R223). -/
def Allow.spillBlock (k : Nat) : Allow := { v := true, s := true, size := k }

/-- Whether a block operand is a v block. -/
def isV : Operand → Bool
  | .v _ => true
  | _ => false

/-- The checks of SPILL and FILL on their stack range, and what runs where they pass. -/
def Ctx.spillRange (c : Ctx) (blk : Operand) (body : Nat → Res) : Res :=
  let k := c.form.var.toNat + 1
  let o := wrapInt (c.read 1 .n32 c.form.a 0 + sx c.form.imm.toNat 32) 32
  let size := if isV blk then 256 * k else 4 * k
  if o % (if isV blk then 256 else 4) ≠ 0 then .fault codeAlign
  else if c.grp.spillSize < o + size then
    if c.divisible then .moved (c.st.exhaust c.grp.id c.wave.id c.path.pc) else .fault codeSpill
  else body o

/-- SPILL (R223). -/
def execSpill (f : Form) (s : State) : Host.Outcome State Fault Refusal :=
  let k := f.var.toNat + 1
  issueInstr 0x84 f s .unused .spillBase (.spillBlock k) none (fun _ => true) (fun c =>
    c.spillRange f.b (fun o =>
      let cells : List (Nat × Word) := if isV f.b then
          (List.range k).flatMap (fun i => (lanesOf c.act).map (fun l =>
            (o + 256 * i + 4 * l, c.wave.readV c.st.tick 2 (vIndex f.b + i) l)))
        else (List.range k).map (fun i => (o + 4 * i, c.wave.readS c.st.tick 2 (sIndex f.b + i)))
      let halves := cells.map (fun x => spadKey c.grp.die (c.grp.facet % 4 * 2 ^ 26 + c.wave.spillAt + x.1))
      let t := { c.st with badSpad := c.st.badSpad.filter (fun x => !(halves.contains (8 * x) && halves.contains (8 * x + 4))) }
      .done (c.updWave t (fun w => { w with
        spill := cells.foldl (fun m (a, x) => m.writeBytes a (toBytes 4 x.toNat)) w.spill }))))

/-- FILL (R223). -/
def execFill (f : Form) (s : State) : Host.Outcome State Fault Refusal :=
  let k := f.var.toNat + 1
  issueInstr 0x85 f s (.spillBlock k) .spillBase .unused none (fun _ => true) (fun c =>
    c.spillRange f.d (fun o =>
      let at_ := c.grp.facet % 4 * 2 ^ 26 + c.wave.spillAt + o
      let read : List Nat := if isV f.d then (List.range k).flatMap (fun i => (lanesOf c.act).map (fun l => at_ + 256 * i + 4 * l))
        else (List.range k).map (fun i => at_ + 4 * i)
      match read.findSome? (fun a => c.st.badLocal c.grp true a 4) with
      | some a => .moved (c.st.uncorrectable c.grp.id c.wave.id c.path.pc a)
      | none => .done (c.updWave c.st (fun w =>
        if isV f.d then
          (List.range k).foldl (fun w i =>
            w.writeV c.st.tick (vIndex f.d + i) c.act (fun l => word (c.wave.spill.readNum (o + 256 * i + 4 * l) 4))) w
        else
          (List.range k).foldl (fun w i =>
            w.writeS c.st.tick (sIndex f.d + i) (word (c.wave.spill.readNum (o + 4 * i) 4))) w))))

end Sys2Proof.Machine
end

