-- ==== Sys2Proof/Machine/CopyEngine.lean ====
section
/-! DEFINITION. Copy-engine instructions, OP 0x90 to 0x9B (R224 to R230, R238). What a command does when it is performed stands in
Perform.lean. -/

namespace Sys2Proof.Machine

open Sys2Proof

/-- The handle operand of a command (R153). -/
def Allow.cmdHandle : Allow := { h := true, none := true }

/-- The descriptor operand of a bulk command (R225). -/
def Allow.descriptor : Allow := .sblock 8 true

/-- A bulk descriptor read at issue (R225). -/
def Ctx.bulk (c : Ctx) : Bulk :=
  let r := fun (k : Nat) => (c.wave.readS c.st.tick 1 (sIndex c.form.a + k)).toNat
  { va := BitVec.ofNat 64 (r 0 + r 1 * 2 ^ 32), loc := word (r 2), len := r 3, rows := r 4, vstr := sx (r 5) 32,
    lstr := sx (r 6) 32 }

/-- The checks of R225 at issue; `local_` is false for BFILL. -/
def Ctx.checkBulk (c : Ctx) (d : Bulk) (local_ sp write : Bool) : Option Code :=
  let last := c.wave.readS c.st.tick 1 (sIndex c.form.a + 7)
  if d.len < 4 || 16777216 < d.len || d.len % 4 ≠ 0 || d.rows < 1 || 65536 < d.rows || last ≠ 0
      || 16777216 < d.len * d.rows then some codeOperand
  else if d.va.toNat % 4 ≠ 0 || d.vstr % 4 ≠ 0 || (local_ && (d.loc.toNat % 4 ≠ 0 || d.lstr % 4 ≠ 0)) then some codeAlign
  else if local_ then firstCode (d.localCodes c.st c.grp sp write)
  else none

/-- BCIN (R226). -/
def execBcin (f : Form) (s : State) : Host.Outcome State Fault Refusal :=
  let sp := bit f.var 0
  issueInstr 0x90 f s .unused .descriptor .unused (some .cmdHandle) (fun _ => true) (fun c =>
    match c.checkBulk c.bulk true sp true with
    | some k => .fault k
    | none => c.command 1 (.bulkIn c.bulk sp) (handleReg f.c))

/-- BCOUT (R226). -/
def execBcout (f : Form) (s : State) : Host.Outcome State Fault Refusal :=
  let sp := bit f.var 0
  issueInstr 0x91 f s .unused .descriptor .unused (some .cmdHandle) (fun _ => true) (fun c =>
    let d := c.bulk
    match c.checkBulk d true sp false with
    | some k => .fault k
    | none => c.command 2 (.bulkOut d sp) (handleReg f.c))

/-- BFILL (R226). -/
def execBfill (f : Form) (s : State) : Host.Outcome State Fault Refusal :=
  issueInstr 0x94 f s .unused .descriptor (.uni false) (some .cmdHandle) (fun _ => true) (fun c =>
    let d := c.bulk
    let x := word (c.uniform 2 .b32 f.b)
    match c.checkBulk d false false false with
    | some k => .fault k
    | none => c.command 2 (.bulkFill d x) (handleReg f.c))

/-! ### Per-lane commands -/

/-- The lanes of a per-lane command with their main-memory addresses. -/
def Ctx.laneArgs (c : Ctx) (val loc : Nat → Nat) : List LaneArg :=
  (lanesOf c.act).map (fun l => ⟨l, BitVec.ofNat 64 (c.read 1 .n64 c.form.a l), BitVec.ofNat 64 (val l), loc l⟩)

/-- The lanes of a command with a main-memory address that must be a multiple of `size` and, where it has local addresses, those
of R215: a misaligned main-memory address is found first (R227, assumption 67). -/
def Ctx.checkArgs (c : Ctx) (ls : List LaneArg) (size : Nat) (loc : Option (Bool × Bool)) : Option Code :=
  if ls.any (fun x => x.addr.toNat % size ≠ 0) then some codeAlign
  else
    match loc with
    | some (sp, write) => checkLanes c.st c.grp sp write size (ls.map LaneArg.loc)
    | none => none

/-- Where BGATH and BSCAT find their local addresses: VAR 1 shared memory, VAR 2 scratchpad. -/
def Ctx.localOf (c : Ctx) (write : Bool) : Option (Bool × Bool) :=
  match c.form.var.toNat with
  | 0 => none
  | v => some (v = 2, write)

/-- BGATH (R227). -/
def execBgath (f : Form) (s : State) : Host.Outcome State Fault Refusal :=
  let reg := f.var = 0#4
  issueInstr 0x92 f s (if reg then .vreg (wideTy f.ty) else .unused) (.vreg true) (if reg then .unused else .vreg false)
    (some .cmdHandle) (fun _ => true) (fun c =>
      let ls := c.laneArgs (fun _ => 0) (fun l => if reg then 0 else c.read 2 .n32 f.b l)
      match c.checkArgs ls (tySize f.ty) (c.localOf true) with
      | some k => .fault k
      | none => c.command 1 (.gather f.ty f.var.toNat f.d ls) (handleReg f.c))

/-- BSCAT (R227). -/
def execBscat (f : Form) (s : State) : Host.Outcome State Fault Refusal :=
  let reg := f.var = 0#4
  issueInstr 0x93 f s .unused (.vreg true) (if reg then .value (wideTy f.ty) else .vreg false)
    (some .cmdHandle) (fun _ => true) (fun c =>
      let ls := if reg then c.laneArgs (fun l => c.read 2 f.ty f.b l) (fun _ => 0)
        else c.laneArgs (fun _ => 0) (fun l => c.read 2 .n32 f.b l)
      match c.checkArgs ls (tySize f.ty) (c.localOf false) with
      | some k => .fault k
      | none => c.command 2 (.scatter f.ty f.var.toNat ls) (handleReg f.c))

/-- MATOM (R228, R238, R289): in a divisible task, a misaligned address is found first (assumption 67). -/
def execMatom (f : Form) (s : State) : Host.Outcome State Fault Refusal :=
  issueInstr 0x95 f s (.vreg (wideTy f.ty)) (.vreg true) (.value (wideTy f.ty)) (some .cmdHandle) (fun _ => true) (fun c =>
    let ls := c.laneArgs (fun l => c.read 2 f.ty f.b l) (fun _ => 0)
    match c.checkArgs ls (tySize f.ty) none with
    | some k => .fault k
    | none =>
      if c.divisible then .fault codeDiv
      else c.command 3 (.atomic f.var.toNat f.ty f.d ls) (handleReg f.c) (ordRel f.imm 15))

/-- MRED (R228, R238). -/
def execMred (f : Form) (s : State) : Host.Outcome State Fault Refusal :=
  issueInstr 0x96 f s .unused (.vreg true) (.value (wideTy f.ty)) (some .cmdHandle) (fun _ => true) (fun c =>
    let ls := c.laneArgs (fun l => c.read 2 f.ty f.b l) (fun _ => 0)
    match c.checkArgs ls (tySize f.ty) none with
    | some k => .fault k
    | none => c.command 3 (.atomic f.var.toNat f.ty .none ls) (handleReg f.c) (ordRel f.imm 15))

/-- MCAS (R228, R238, R289): the values compared with are read from D at issue. In a divisible task, a misaligned address is found first
(assumption 67). -/
def execMcas (f : Form) (s : State) : Host.Outcome State Fault Refusal :=
  issueInstr 0x97 f s (.vreg (wideTy f.ty)) (.vreg true) (.value (wideTy f.ty)) (some .cmdHandle) (fun _ => true) (fun c =>
    let ls := c.laneArgs (fun l => c.read 2 f.ty f.b l) (fun l => c.read 3 f.ty f.d l)
    match c.checkArgs ls (tySize f.ty) none with
    | some k => .fault k
    | none =>
      if c.divisible then .fault codeDiv
      else c.command 3 (.cas f.ty f.d ls) (handleReg f.c) (ordRel f.imm 15))

/-! ### Exact-sum cells -/

/-- XSUM (R229, R238). -/
def execXsum (f : Form) (s : State) : Host.Outcome State Fault Refusal :=
  issueInstr 0x98 f s .unused (.vreg true) (.value false) (some .cmdHandle) (fun _ => true) (fun c =>
    let ls := c.laneArgs (fun l => c.read 2 f.ty f.b l) (fun _ => 0)
    match c.checkArgs ls 64 none with
    | some k => .fault k
    | none => c.command 3 (.xsum f.ty ls) (handleReg f.c) (ordRel f.imm 15))

/-- XRD (R229): it is an acquire and no release, whatever its order suffix (R244). -/
def execXrd (f : Form) (s : State) : Host.Outcome State Fault Refusal :=
  issueInstr 0x99 f s (.vreg false) (.vreg true) .unused (some .cmdHandle) (fun _ => true) (fun c =>
    let ls := c.laneArgs (fun _ => 0) (fun _ => 0)
    match c.checkArgs ls 64 none with
    | some k => .fault k
    | none => c.command 3 (.xrd f.ty (modeOf f.var) f.d ls) (handleReg f.c))

/-- XCLR (R229, R238). -/
def execXclr (f : Form) (s : State) : Host.Outcome State Fault Refusal :=
  issueInstr 0x9A f s .unused (.vreg true) .unused (some .cmdHandle) (fun _ => true) (fun c =>
    let ls := c.laneArgs (fun _ => 0) (fun _ => 0)
    match c.checkArgs ls 64 none with
    | some k => .fault k
    | none => c.command 3 (.xclr ls) (handleReg f.c) (ordRel f.imm 15))

/-! ### Prefetch -/

/-- One sector brought into a facet's L2, if its page is present and locally cached; nothing is ever raised (R230). -/
def State.prefetch (s : State) (facet core ctx va : Nat) : State :=
  match s.translate facet core ctx .read va with
  | (.ok p, t) => if p.mode = 0 then t.touch facet ctx 0 (p.base / 4096 - p.vpage % p.span) (p.base + va % 4096) false else t
  | (.error _, t) => t

/-- PREF (R230). It waits, as every command of the copy engine does, while the queue of its core is full (R41, R179). -/
def execPref (f : Form) (s : State) : Host.Outcome State Fault Refusal :=
  issueInstr 0x9B f s .unused .pair (.uni false) none (fun _ => true) (fun c =>
    let a := c.uniform 1 .n64 f.a
    let n := min (c.uniform 2 .n32 f.b) (2 ^ 21)
    let sectors := if n = 0 then [] else (List.range ((a + n - 1) / 64 - a / 64 + 1)).map (fun i => (a / 64 + i) * 64)
    if 64 ≤ c.st.copyQueue c.grp.facet c.wave.core then .wait false c.st
    else .done (sectors.foldl (fun s va => s.prefetch c.grp.facet c.wave.core c.grp.ctx va) c.st))

end Sys2Proof.Machine
end

