-- ==== Sys2Proof/Machine/Objects.lean ====
section
/-! DEFINITION. Object instructions at issue, OP 0xB0 to 0xBF (R330 to R360). What a call does when its home engine performs it
stands in Calls.lean. -/

namespace Sys2Proof.Machine

open Sys2Proof

/-! ### Handles of objects (R330) -/

def objFacet (x : Word) : Nat := bits x 26 6
def objType (x : Word) : Nat := bits x 23 3
def objIdx (x : Word) : Nat := bits x 3 20
def objGen (x : Word) : Nat := bits x 0 3

/-- The TYPE code of an object. -/
def ObjKind.code : ObjKind → Nat
  | .wave _ => 1
  | .port _ _ _ _ => 2
  | .waitSet _ => 3
  | .timer _ _ _ => 4
  | .proxy _ _ => 5

/-- Whether an index of a facet's table is that of a die's escalation port, which quarter 0 of the die serves (R414). -/
def isEsc (facet idx : Nat) : Bool := facet % 4 = 0 && idx = escIndex

/-- An escalation as a message (R414). -/
def Escalation.msg (e : Escalation) : Msg := e.sent.getD ⟨0, e.bytes, [], 0, 0⟩

/-- The escalation port of a die as an object: what waits there stands in the state's own lists, and its queue has no bound (R414,
assumption 73). -/
def State.escPort (s : State) (die : Nat) : Obj :=
  let q := s.esc.filter (fun e => e.die = die)
  ⟨escIndex, 0, 0, .port (q.length + 1) (q.map Escalation.msg) [] ((s.escWait.filter (fun x => x.1 = die)).map Prod.snd)⟩

/-- The object at an index of a facet's table. -/
def State.objAt (s : State) (facet idx : Nat) : Option Obj :=
  if isEsc facet idx then some (s.escPort (facet / 4)) else (s.facet facet).objs.find? (fun o => o.idx = idx)

/-- The object that a handle names; none where the handle is stale. -/
def State.obj? (s : State) (x : Word) : Option Obj :=
  match s.objAt (objFacet x) (objIdx x) with
  | some o => if o.gen = objGen x && o.kind.code = objType x then some o else none
  | none => none

/-- A die's escalation port with its queue, from which messages are taken in front and to which they are added behind, and its waiting
receivers. -/
def State.setEsc (s : State) (die : Nat) (q : List Msg) (rs : List Waiter) : State :=
  let old := s.esc.filter (fun e => e.die = die)
  let kept := old.drop (old.length - q.length)
  let added := (q.drop old.length).map (fun m => (⟨die, 0, 0, 0, 0, 0, 0, 0, some m⟩ : Escalation))
  { s with esc := s.esc.filter (fun e => e.die ≠ die) ++ kept ++ added,
           escWait := s.escWait.filter (fun x => x.1 ≠ die) ++ rs.map (fun r => (die, r)) }

/-- An object changed in place. -/
def State.updObj (s : State) (facet idx : Nat) (f : Obj → Obj) : State :=
  if isEsc facet idx then
    match (f (s.escPort (facet / 4))).kind with
    | .port _ q _ rs => s.setEsc (facet / 4) q rs
    | _ => s
  else s.updFacet facet (fun x => { x with objs := x.objs.map (fun o => if o.idx = idx then f o else o) })

/-- Whether a handle names an object of context 0: its index is one of the top 256 (R333, R414). -/
def systemObject (x : Word) : Bool := 0xFFF00 ≤ objIdx x

/-- A member of a wait set as the set keeps it: the index of an object of the same facet. -/
def State.memberReady (s : State) (facet idx : Nat) : Bool :=
  match s.objAt facet idx with
  | some ⟨_, _, _, .port _ q _ _⟩ => !q.isEmpty
  | some ⟨_, _, _, .timer _ _ expired⟩ => expired
  | _ => false

/-- The lowest tag among the ready members of a set (R352). -/
def State.lowestTag (s : State) (facet : Nat) (members : SMap Nat) : Option Nat :=
  ((members.filter (fun (i, _) => s.memberReady facet i)).map (fun (_, t) => t)).foldl
    (fun acc t => some (match acc with
      | none => t
      | some x => min x t)) none

/-! ### Operands that name objects (R332) -/

/-- The object handle that an h register holds, once it is complete, if its TYPE is one of those accepted and its facet lies in the
issuer's partition. -/
def Ctx.objArg (c : Ctx) (reg : Nat) (types : List Nat) : Option Word :=
  match c.wave.h? reg with
  | .obj x => if types.contains (objType x) && (c.firmware || c.st.inPartition c.grp (objFacet x)) then some x else none
  | _ => none

/-- An instruction that makes a call: forbidden in a divisible task (R360). -/
def Ctx.calls (c : Ctx) (body : Res) : Res := if c.divisible then .fault codeDiv else body

/-- A call whose operand A names an object: pending handles are waited for and reported first (R211, R332). -/
def Ctx.onObject (c : Ctx) (types : List Nat) (body : Word → Res) : Res :=
  match c.readHandles [hIndex c.form.a] with
  | some r => r
  | none =>
    match c.objArg (hIndex c.form.a) types with
    | none => .fault codeOperand
    | some x => body x

/-- A call issued as a command of the PORT class (R336). -/
def Ctx.call (c : Ctx) (k : Call) (h : Option Nat) (rel : Bool := false) (status : Byte := 0) : Res :=
  c.command 6 (.call k) h rel status

/-! ### Free waves -/

/-- The limits of a WSPAWN descriptor (R29, R338). -/
def goodSpawn (r : Nat → Word) : Bool :=
  let x := r 2
  let v := bits x 0 9
  let sr := bits x 9 9
  (r 0).toNat % 4 = 0 && (r 1).toNat < 2 ^ 24
    && 8 ≤ v && v ≤ 256 && v % 8 = 0 && 8 ≤ sr && sr ≤ 384 && sr % 8 = 0 && bits x 18 6 ≤ 32 && bits x 27 5 = 0
    && (r 3).toNat % 256 = 0 && (r 3).toNat ≤ 393216 && (r 4).toNat % 256 = 0 && (r 4).toNat ≤ 262144
    && (r 5).toNat ≤ 4095 && (r 7).toNat < 4096

/-- WSPAWN (R338): a release. -/
def execWspawn (f : Form) (s : State) : Host.Outcome State Fault Refusal :=
  issueInstr 0xB0 f s .handle (.sblock 8 true) ((Allow.uni false).orNone) none (fun _ => true) (fun c => c.calls (
    let r := fun k => c.wave.readS c.st.tick 1 (sIndex f.a + k)
    let facet := if f.b = .none then c.grp.facet else c.uniform 2 .n32 f.b
    if !goodSpawn r || 64 ≤ facet || !(c.firmware || c.st.inPartition c.grp facet) then .fault codeOperand
    else c.call (.wspawn (hIndex f.d) facet ((List.range 8).map r)) (handleReg f.d) true))

/-- WKILL (R343): a release. A wave that kills itself issues nothing after it. -/
def execWkill (f : Form) (s : State) : Host.Outcome State Fault Refusal :=
  issueInstr 0xB1 f s .unused .handle ((Allow.uni false).orNone) (some .cmdHandle) (fun _ => true) (fun c =>
    c.calls (c.onObject [1] (fun x =>
      let status := if f.b = .none then 0xFF else c.uniform 2 .n32 f.b % 256
      match c.call (.wkill x status) (handleReg f.c) true with
      | .done t => .done (if (c.grp.free.map FreeWave.handle) = some x then c.updWave t (fun w => { w with dead := true }) else t)
      | r => r)))

/-! ### Ports -/

/-- PNEW (R344). -/
def execPnew (f : Form) (s : State) : Host.Outcome State Fault Refusal :=
  issueInstr 0xB2 f s .handle (.uni false) .unused none (fun _ => true) (fun c => c.calls (
    let n := c.uniform 1 .n32 f.a
    if n = 0 || 256 < n then .fault codeOperand
    else c.call (.pnew (hIndex f.d) n) (handleReg f.d)))

/-- The level-1 leaf that maps a page in a context's tables (R346): its value, and the key of the entry. -/
def State.leafOf (s : State) (ctx : Nat) (va : Nat) : Option Nat :=
  match s.ctx? ctx with
  | none => none
  | some c =>
    match walk s c va 4 c.root with
    | .ok (e, 1) => some e
    | _ => none

/-- Whether a page can be granted: a valid level-1 leaf with PS64 = 0 and TGT local HBM (R346). -/
def State.grantable (s : State) (ctx : Nat) (va : DWord) : Bool :=
  va.toNat < 2 ^ 56 && (match s.leafOf ctx va.toNat with
    | some e => !e.testBit 7 && e / 2 ^ 60 % 4 = 0
    | none => false)

/-- PSEND (R345, R346): a release. Its grant pages are checked at acceptance. -/
def execPsend (f : Form) (s : State) : Host.Outcome State Fault Refusal :=
  let sp := bit f.var 0
  issueInstr 0xB3 f s .unused .handle (.sblock 12 true) (some .cmdHandle) (fun _ => true) (fun c =>
    c.calls (c.onObject [2, 5] (fun x =>
      let r := fun k => (c.wave.readS c.st.tick 2 (sIndex f.b + k)).toNat
      let grants := (List.range (min (r 3) 4)).map (fun k => r (4 + 2 * k) + r (5 + 2 * k) * 2 ^ 32)
      if 192 < r 1 || r 1 % 4 ≠ 0 || 4 < r 3 || grants.any (fun a => a % 4096 ≠ 0) then .fault codeOperand
      else
        match firstCode (rangeCodes c.st c.grp sp false (r 0) (r 1)) with
        | some k => .fault k
        | none =>
          let pages := grants.map (fun a => BitVec.ofNat 64 a)
          let ok := pages.all (fun a => c.st.grantable c.grp.ctx a) && (distinct pages).length = pages.length
          c.call (.psend x sp (bit f.var 1) (r 0) (r 1) (word (r 2)) pages none) (handleReg f.c) true (if ok then 0 else 0x27#8))))

/-- PRECV (R347). -/
def execPrecv (f : Form) (s : State) : Host.Outcome State Fault Refusal :=
  let sp := bit f.var 0
  issueInstr 0xB4 f s (.sblock 8 true) .handle .unused (some .cmdHandle) (fun _ => true) (fun c =>
    c.calls (c.onObject [2] (fun x =>
      let r := fun k => (c.wave.readS c.st.tick 2 (sIndex f.d + k)).toNat
      let gva := r 2 + r 3 * 2 ^ 32
      if 192 < r 1 || r 1 % 4 ≠ 0 || gva % 16384 ≠ 0 then .fault codeOperand
      else
        match firstCode (rangeCodes c.st c.grp sp true (r 0) (r 1)) with
        | some k => .fault k
        | none => c.call (.precv x sp (bit f.var 1) (r 0) (r 1) (BitVec.ofNat 64 gva) (sIndex f.d)) (handleReg f.c))))

/-! ### Wait sets -/

/-- SNEW (R351). -/
def execSnew (f : Form) (s : State) : Host.Outcome State Fault Refusal :=
  issueInstr 0xB5 f s .handle .unused .unused none (fun _ => true) (fun c =>
    c.calls (c.call (.snew (hIndex f.d)) (handleReg f.d)))

/-- An instruction on a set and a member of one home facet (R332, R351). -/
def Ctx.onMember (c : Ctx) (body : Word → Word → Res) : Res :=
  match c.readHandles [min (hIndex c.form.a) (hIndex c.form.b), max (hIndex c.form.a) (hIndex c.form.b)] with
  | some r => r
  | none =>
    match c.objArg (hIndex c.form.a) [3], c.objArg (hIndex c.form.b) [2, 4] with
    | some x, some y => if objFacet x = objFacet y then body x y else .fault codeOperand
    | _, _ => .fault codeOperand

/-- SADD (R351). -/
def execSadd (f : Form) (s : State) : Host.Outcome State Fault Refusal :=
  issueInstr 0xB6 f s .unused .handle .handle (some .cmdHandle) (fun _ => true) (fun c =>
    c.calls (c.onMember (fun x y => c.call (.sadd x y (bits f.imm 12 16)) (handleReg f.c))))

/-- SDEL (R351). -/
def execSdel (f : Form) (s : State) : Host.Outcome State Fault Refusal :=
  issueInstr 0xB7 f s .unused .handle .handle (some .cmdHandle) (fun _ => true) (fun c =>
    c.calls (c.onMember (fun x y => c.call (.sdel x y) (handleReg f.c))))

/-- WWAIT (R352): no command. It parks the wave where no member is ready, and the value is written when one is. -/
def execWwait (f : Form) (s : State) : Host.Outcome State Fault Refusal :=
  issueInstr 0xB8 f s (.reg false) .handle .unused none (fun _ => true) (fun c =>
    c.onObject [3] (fun x =>
      match c.st.obj? x with
      | some ⟨_, _, ctx, .waitSet members⟩ =>
        if ctx ≠ c.grp.ctx then .fault codeObject
        else
          match c.st.lowestTag (objFacet x) members with
          | some t => .done (c.write c.st f.d false (fun _ => t))
          | none =>
            if bit f.var 0 then .done (c.write c.st f.d false (fun _ => 0xFFFFFFFF))
            else .done (c.parks c.st (.wwait x f.d c.act))
      | _ => .done (c.write c.st f.d false (fun _ => 0xFFFFFFFE))))

/-! ### Timers -/

/-- TNEW (R353). -/
def execTnew (f : Form) (s : State) : Host.Outcome State Fault Refusal :=
  issueInstr 0xB9 f s .handle .unused .unused none (fun _ => true) (fun c =>
    c.calls (c.call (.tnew (hIndex f.d)) (handleReg f.d)))

/-- TARM (R353): a release. -/
def execTarm (f : Form) (s : State) : Host.Outcome State Fault Refusal :=
  issueInstr 0xBA f s .unused .handle .pair (some .cmdHandle) (fun _ => true) (fun c =>
    c.calls (c.onObject [4] (fun x =>
      c.call (.tarm x (bit f.var 0) (BitVec.ofNat 64 (c.uniform 2 .n64 f.b))) (handleReg f.c) true)))

/-- TDIS (R353). -/
def execTdis (f : Form) (s : State) : Host.Outcome State Fault Refusal :=
  issueInstr 0xBB f s .unused .handle .unused (some .cmdHandle) (fun _ => true) (fun c =>
    c.calls (c.onObject [4] (fun x => c.call (.tdis x) (handleReg f.c))))

/-! ### Names -/

/-- OLOOK (R354, R355): the name 0 is illegal. -/
def execOlook (f : Form) (s : State) : Host.Outcome State Fault Refusal :=
  issueInstr 0xBC f s .handle .pair .unused none (fun _ => true) (fun c => c.calls (
    let n := c.uniform 1 .n64 f.a
    if n = 0 then .fault codeOperand else c.call (.olook (hIndex f.d) (BitVec.ofNat 64 n)) (handleReg f.d)))

/-- Whether a name can be bound here: it is not 0, and its peer number is 0 or this package's (R354). -/
def State.localName (s : State) (n : Nat) : Bool := n ≠ 0 && (n / 2 ^ 54 = 0 || n / 2 ^ 54 = s.peerId)

/-- OBIND: a release (R354, R358). -/
def bindInstr (f : Form) (s : State) (pub : Bool) : Host.Outcome State Fault Refusal :=
  issueInstr 0xBD f s .unused .handle .pair (some .cmdHandle) (fun _ => true) (fun c =>
    c.calls (c.onObject [2] (fun x =>
      let n := c.uniform 2 .n64 f.b
      if c.st.localName n then c.call (.obind x (BitVec.ofNat 64 n) pub) (handleReg f.c) true else .fault codeOperand)))

/-- OBIND (R354). -/
def execObind (f : Form) (s : State) : Host.Outcome State Fault Refusal := bindInstr f s false
/-- OBIND.PUB (R354). -/
def execObindPub (f : Form) (s : State) : Host.Outcome State Fault Refusal := bindInstr f s true

/-- OBIND.UNB (R354). -/
def execObindUnb (f : Form) (s : State) : Host.Outcome State Fault Refusal :=
  issueInstr 0xBD f s .unused .unused .pair (some .cmdHandle) (fun _ => true) (fun c => c.calls (
    let n := c.uniform 2 .n64 f.b
    if c.st.localName n then c.call (.ounb (BitVec.ofNat 64 n)) (handleReg f.c) true else .fault codeOperand))

/-! ### Freeing and inspecting -/

/-- The types of R330. -/
def anyType : List Nat := [1, 2, 3, 4, 5]

/-- OFREE (R356): a release. -/
def execOfree (f : Form) (s : State) : Host.Outcome State Fault Refusal :=
  issueInstr 0xBE f s .unused .handle .unused (some .cmdHandle) (fun _ => true) (fun c =>
    c.calls (c.onObject anyType (fun x => c.call (.ofree x) (handleReg f.c) true)))

/-- OINFO (R357): allowed in a divisible task (R360). -/
def execOinfo (f : Form) (s : State) : Host.Outcome State Fault Refusal :=
  issueInstr 0xBF f s (.reg false) .handle .unused (some .cmdHandle) (fun _ => true) (fun c =>
    c.onObject anyType (fun x => c.call (.oinfo x (bits f.var 0 2) f.d) (handleReg f.c)))

end Sys2Proof.Machine
end

