-- ==== Sys2Proof/Machine/Calls.lean ====
section
/-! DEFINITION. What the object engines do: each call performed, messages and page grants, and the waking of waiters (R330 to
R360). -/

namespace Sys2Proof.Machine

open Sys2Proof

/-! ### Results of commands -/

/-- A command of a wave changed. -/
def State.updCmd (s : State) (gid wid cls seq : Nat) (f : Cmd → Cmd) : State :=
  s.updWave gid wid (fun w => { w with cmds := w.cmds.map (fun c => if c.cls = cls && c.seq = seq then f c else c) })

/-- A command performed, with its status. -/
def State.perform (s : State) (gid wid cls seq : Nat) (status : Byte) : State :=
  s.updCmd gid wid cls seq (fun c => { c with stage := .performed, status := status })

/-- A wave whose v and s registers hold nothing beyond an allotment: storage given up has no contents (R31). -/
def Wave.within (w : Wave) (a : Allot) : Wave := { w with v := keepKeys (fun k => k < a.v * 64) w.v, s := keepKeys (fun k => k < a.s) w.s }

/-- A command's result written to its register, for the lanes it names (R57). What lies beyond the allotment is lost (R31). A g register
is written in the current core clock of the group or in a later one, as a free choice, and what issues after the write issues in a later
core clock, and reads it (R33, R256, assumption 2). -/
def State.deliverTo (s : State) (gid wid : Nat) (o : Operand) (wide : Bool) (m : Mask) (val : Nat → Nat) : State :=
  match o with
  | .g i =>
    match topLane m with
    | none => s
    | some l =>
      let facet := (s.group? gid).elim 0 Group.facet
      ((if Config.freeBit s.tick 0x311 gid then s.newClock facet else s).updGroup gid (fun g =>
        let g := g.writeG wid i (word (val l))
        if wide then g.writeG wid (i + 1) (word (val l / 2 ^ 32)) else g)).endClock facet
  | o => s.updGroup gid (fun g => { g with waves := g.waves.map (fun w => if w.id = wid then (w.deliver o wide m val).within g.cur else w) })

/-! ### Creating and freeing -/

/-- The first index from `lo + i` on, around a range of `n` indices, that no object holds. -/
def freeFrom (lo n : Nat) (used : List Nat) : Nat → Nat → Nat
  | 0, i => lo + i
  | k + 1, i => if used.contains (lo + i) then freeFrom lo n used k ((i + 1) % n) else lo + i

/-- The indices of a facet's table that a context's objects can take: the top 256 for context 0, the others for every other (R333,
R414). -/
def indexRange (ctx : Nat) : Nat × Nat := if ctx = 0 then (0xFFF00, 256) else (0, 0xFFF00)

/-- An object created on a facet: some free index of its table, at the index's current generation; which index is taken is free
(R330, R333, assumption 2). None where the table is full. -/
def State.create (s : State) (facet ctx : Nat) (kind : Word → ObjKind) : Option (State × Word) :=
  let f := s.facet facet
  let (lo, n) := indexRange ctx
  let used := (f.objs.map Obj.idx ++ (if isEsc facet escIndex then [escIndex] else [])).filter (fun i => lo ≤ i && i < lo + n)
  if n ≤ used.length then none
  else
    let idx := freeFrom lo n used used.length ((Config.freeWord s.tick 0x200).toNat % n)
    let gen := look 0 f.gens idx
    let w := objWord facet (kind 0).code idx gen
    some (s.updFacet facet (fun x => { x with objs := x.objs ++ [⟨idx, gen, ctx, kind w⟩] }), w)

/-- An object's index freed: the object leaves the table and every set, and the generation advances (R330, R356). -/
def State.freeIndex (s : State) (facet idx : Nat) : State :=
  s.updFacet facet (fun x => { x with
    objs := (x.objs.filter (fun o => o.idx ≠ idx)).map (fun o => match o.kind with
      | .waitSet m => { o with kind := .waitSet (keepKeys (· ≠ idx) m) }
      | _ => o),
    gens := put 0 x.gens idx ((look 0 x.gens idx + 1) % 8) })

/-! ### Page grants (R346 to R349) -/

/-- The key of the level-1 entry for an address, if its level-1 table exists. -/
def entryKey (s : State) (c : CtxDesc) (va : Nat) : Nat → Nat → Option Nat
  | 0, table => some (table + 8 * (va / 4096 % 512))
  | k + 1, table =>
    let (lo, n) := levelBits (k + 2)
    let e := s.readNum c.num (table + 8 * (va / 2 ^ lo % 2 ^ n)) 8
    if e.testBit 63 && !e.testBit 62 && !tableBad c e (k + 2) then entryKey s c va k (e / 2 ^ 12 % 2 ^ 36 * 4096) else none

/-- The key of the level-1 entry for an address of a context. -/
def State.entryAt (s : State) (ctx va : Nat) : Option Nat :=
  match s.ctx? ctx with
  | none => none
  | some c => if 2 ^ 56 ≤ va then none else entryKey s c va 3 c.root

/-- The TLBs without a context's translations of an address. -/
def State.dropTlb (s : State) (ctx va : Nat) : State :=
  { s with tlb := s.tlb.filter (fun t => !(t.ctx = ctx && covers t.span t.vpage (va / 4096))) }

/-- Whether some command that is not performed pinned a context's translation of an address. -/
def State.pinnedBy (s : State) (ctx va : Nat) : Bool :=
  s.groups.any (fun g => g.ctx = ctx && g.waves.any (fun w => w.cmds.any (fun k =>
    !k.done && k.pins.any (fun p => covers p.span p.vpage (va / 4096)))))

/-- The die whose home agents hold a frame. -/
def frameDie (frame : Nat) : Nat := homeFacet frame / 4

/-- Where a grant goes: to a context of this package, or to a peer package. -/
inductive Dest where
  | ctx (n : Nat)
  | peer (p : Nat)
  deriving DecidableEq, Repr

/-- Whether a frame granted by a context is lent rather than handed over (R348, R349). -/
def State.lendsTo (s : State) (ctx : Nat) : Dest → Bool
  | .peer _ => true
  | .ctx n =>
    match s.ctx? ctx, s.ctx? n with
    | some a, some b => !(a.pbase = b.pbase && a.plog2 = b.plog2)
    | _, _ => false

/-- The number that stands for a receiver in a lend entry: a context number, or 2^16 and a peer number. -/
def Dest.num : Dest → Nat
  | .ctx n => n
  | .peer p => 2 ^ 16 + p

/-- The frames of a sender's grant pages, each with W of its entry. -/
def State.frames (s : State) (ctx : Nat) (pages : List DWord) : List (Nat × Bool) :=
  pages.filterMap (fun a => (s.leafOf ctx a.toNat).map (fun e => (e / 2 ^ 12 % 2 ^ 36 * 4096, e.testBit 9)))

/-- Whether the lend tables have room for frames (R348, R349). -/
def State.lendRoom (s : State) (fs : List (Nat × Bool)) : Bool :=
  fs.all (fun (f, _) => (s.lends.filter (fun l => isLocal l.frame && frameDie l.frame = frameDie f)).length
    + (fs.filter (fun (x, _) => frameDie x = frameDie f)).length ≤ 65536)

/-- The sender's entries written to zero and its translations invalidated; frames that are lent enter the lend tables. -/
def State.takeGrants (s : State) (ctx : Nat) (dest : Dest) (pages : List DWord) : State :=
  let fs := s.frames ctx pages
  let lent := s.lendsTo ctx dest
  let s := pages.foldl (fun (s : State) a =>
    match s.entryAt ctx a.toNat with
    | some k => (s.storeMain ctx k (List.replicate 8 0#8)).dropTlb ctx a.toNat
    | none => s) s
  if lent then { s with lends := s.lends ++ fs.map (fun (f, _) => ⟨f, ctx, dest.num⟩) } else s

/-- A frame re-encrypted in place: its sectors stand under the receiver's key with the bytes the sender last wrote (R348). -/
def State.rekey (s : State) (owner ctx frame : Nat) : State :=
  if owner = ctx then s else s.writeRaw ctx frame (s.readBytes owner frame 4096)

/-- Whether every grant of a message can be installed at a window (R348). -/
def State.canInstall (s : State) (ctx gva : Nat) (grants : List (Nat × Bool)) : Bool :=
  grants.isEmpty || (gva ≠ 0 && (List.range grants.length).all (fun k =>
    match s.entryAt ctx (gva + 4096 * k) with
    | some key => !(s.readNum ctx key 8).testBit 63
    | none => false))

/-- The grants of a message installed in the receiver's tables: a frame of another package as a page of that package, and a lent one in
direct fabric mode (R348, R349). A frame of another package stands in `lends` too, until the receiving context ends and it returns. A frame
that was lent to the sender itself is granted on as one of the sender's own (assumption 103). -/
def State.install (s : State) (ctx gva : Nat) (m : Msg) : State :=
  (List.range m.grants.length).foldl (fun s k =>
    match s.entryAt ctx (gva + 4096 * k), m.grants[k]? with
    | some key, some (frame, w) =>
      let lent := s.lends.any (fun l => l.frame = frame && l.dest = ctx)
      let away := 2 ^ 50 ≤ frame
      let target := if away then 2 ^ 60 + frame / 2 ^ 50 * 2 ^ 50 + frame % 2 ^ 48 else frame
      let e := 2 ^ 63 + 2 ^ 62 + target + (if w then 2 ^ 9 else 0) + (if lent || away then 2 ^ 48 else 0)
      let s := if lent || away then s else s.rekey m.ctx ctx frame
      let s := if away then { s with lends := s.lends ++ [⟨frame, 2 ^ 16 + frame / 2 ^ 50, ctx⟩] } else s
      s.storeMain ctx key (toBytes 8 e)
    | _, _ => s) s

/-! ### Messages (R345, R347) -/

/-- A receive that takes a message: its grants are installed and its bytes are delivered, with the registers written at its completion, or
it completes with OGRANT; the last part says whether the message was taken. -/
def State.takeMsg (s : State) (gid wid seq die : Nat) (sp : Bool) (loc cap gva d : Nat) (m : Msg) : State × Bool :=
  match s.group? gid with
  | none => (s, false)
  | some g =>
    if !s.canInstall g.ctx gva m.grants then (s.perform gid wid 6 seq 0x27#8, false)
    else
      ((s.install g.ctx gva m).beginLanding gid wid 6 seq (if cap < m.bytes.length then 0x2A#8 else 0) (localKey die sp loc)
        (m.bytes.take cap)
        [(2 ^ 63 + d + 4, m.bytes.length), (2 ^ 63 + d + 5, m.label.toNat), (2 ^ 63 + d + 6, m.grants.length),
          (2 ^ 63 + d + 7, m.sender.toNat)], true)

/-- The receive that a waiter is. -/
def State.receiveOf (s : State) (x : Waiter) : Option (Nat × Bool × Nat × Nat × Nat × Nat) :=
  match ((s.group? x.group).bind (fun g => g.wave? x.wave)).bind (fun w => w.cmd? 6 x.seq) with
  | some k =>
    match k.effect with
    | .call (.precv _ sp _ loc cap gva d) => some (k.die, sp, loc, cap, gva.toNat, d)
    | _ => none
  | none => none

/-- The port at an index changed. -/
def State.updPort' (s : State) (facet idx : Nat) (f : List Msg → List Waiter → List Waiter → List Msg × List Waiter × List Waiter) :
    State :=
  s.updObj facet idx (fun o => match o.kind with
    | .port d q ss rs =>
      let (q, ss, rs) := f q ss rs
      { o with kind := .port d q ss rs }
    | _ => o)

/-- Waiting receivers served in turn while messages are queued. -/
def State.serve : Nat → State → Nat → Nat → State
  | 0, s, _, _ => s
  | k + 1, s, facet, idx =>
    match s.objAt facet idx with
    | some ⟨_, _, _, .port _ (m :: _) _ (r :: _)⟩ =>
      let s := s.updPort' facet idx (fun q ss rs => (q, ss, rs.drop 1))
      match s.receiveOf r with
      | none => State.serve k s facet idx
      | some (die, sp, loc, cap, gva, d) =>
        let (s, taken) := s.takeMsg r.group r.wave r.seq die sp loc cap gva d m
        let s := if taken then s.updPort' facet idx (fun q ss rs => (q.drop 1, ss, rs)) else s
        State.serve k s facet idx
    | _ => s

/-- The message of a send, as it stands when it is enqueued; bytes that its engine has read before then stand as they were (R212). -/
def State.messageOf (s : State) (g : Group) (k : Cmd) (sp : Bool) (loc len : Nat) (label : Word) (frames : List (Nat × Bool)) : Msg :=
  { label := label, bytes := k.mixed (localKey k.die sp loc) (s.readLocal g.id sp loc len (some k.die)), grants := frames,
    sender := (g.free.map FreeWave.handle).getD 0, ctx := g.ctx }

/-- Whether the TLBINVs of a send's grants can complete (R346). -/
def State.grantsFree (s : State) (ctx : Nat) (pages : List DWord) : Bool := pages.all (fun a => !s.pinnedBy ctx a.toNat)

/-- A message put at the tail of a port's queue, and served to a receiver that waits (R345). -/
def State.deposit (s : State) (facet idx : Nat) (m : Msg) : State :=
  State.serve 257 (s.updPort' facet idx (fun q ss rs => (q ++ [m], ss, rs))) facet idx

/-- A send that has its place at the port, or its link: the sender's entries are written to zero and its TLBs lose them first, and the
message goes only when every command that pinned the old mappings is performed (R346). `go` sends it. -/
def State.grantThen (s : State) (g : Group) (wid : Nat) (k : Cmd) (dest : Dest) (pages : List DWord)
    (held : Option (List (Nat × Bool))) (go : State → List (Nat × Bool) → State) : State :=
  let fs := held.getD (s.frames g.ctx pages)
  let s := if held.isSome then s else s.takeGrants g.ctx dest pages
  if s.grantsFree g.ctx pages then go s fs
  else s.updCmd g.id wid 6 k.seq (fun c => { c with
    begun := true
    effect := match c.effect with
      | .call (.psend x sp nw loc len label pages _) => .call (.psend x sp nw loc len label pages (some fs))
      | e => e })

/-- Whether a send that has its place at an object waits there for its grants: the engine performs nothing else on the object until it
is done (R334, R346). -/
def State.objBusy (s : State) (x : Word) : Bool :=
  s.groups.any (fun g => g.waves.any (fun w => w.cmds.any (fun c => c.sending && (match c.effect with
    | .call (.psend y _ _ _ _ _ _ _) => objFacet y = objFacet x && objIdx y = objIdx x
    | _ => false))))

/-- The waiting senders of a port placed, the longest-waiting first, while there is room; one that ends without a place leaves it to the
next (R345). -/
def State.placeSenders : Nat → State → Nat → Nat → State
  | 0, s, _, _ => s
  | n + 1, s, facet, idx =>
    match s.objAt facet idx with
    | some ⟨_, _, pctx, .port d q (x :: _) _⟩ =>
      let leave := fun (s : State) => s.updPort' facet idx (fun q ss rs => (q, ss.drop 1, rs))
      let next := fun (s : State) => State.placeSenders n s facet idx
      if d ≤ q.length then s
      else
        match x.peer with
        | some m => next ((leave s).deposit facet idx m)
        | none =>
          match (s.group? x.group).bind (fun g => (g.wave? x.wave).bind (fun w => (w.cmd? 6 x.seq).map (fun k => (g, k)))) with
          | some (g, k) =>
            (match k.effect with
             | .call (.psend _ sp _ loc len label pages held) =>
               if held.isNone && !pages.all (fun a => s.grantable g.ctx a) then next ((leave s).perform g.id x.wave 6 x.seq 0x27#8)
               else if held.isNone && s.lendsTo g.ctx (.ctx pctx) && !s.lendRoom (s.frames g.ctx pages) then
                 next ((leave s).perform g.id x.wave 6 x.seq 0x22#8)
               else s.grantThen g x.wave k (.ctx pctx) pages held (fun s fs =>
                 next (((leave s).perform g.id x.wave 6 x.seq 0).deposit facet idx (s.messageOf g k sp loc len label fs)))
             | _ => next (leave s))
          | none => next (leave s)
    | _ => s

/-- The senders that a port takes now (R345). -/
def State.admitSender (s : State) (facet idx : Nat) : State :=
  match s.objAt facet idx with
  | some ⟨_, _, _, .port _ _ ss _⟩ => State.placeSenders ss.length s facet idx
  | _ => s

/-! ### Calls -/

/-- A port's public binding. -/
def State.boundPublic (s : State) (x : Word) : Bool := s.names.any (fun b => b.pub && b.obj = x)

/-- What a call finds behind a handle: a status it completes with, or the object (R332, R336, R354, R414). -/
def State.findObj (s : State) (ctx : Nat) (send : Bool) (x : Word) : Except Byte Obj :=
  if systemObject x && ctx ≠ 0 then .error 0x21#8
  else
    match s.obj? x with
    | none => .error 0x20#8
    | some o => if o.ctx = ctx || (send && s.boundPublic x) then .ok o else .error 0x21#8

/-- A name as the service keeps it: its own peer number reads 0 (R354). -/
def nameKey (n : DWord) : DWord := BitVec.ofNat 64 (n.toNat % 2 ^ 54)

/-- Whether a facet can keep one more free wave that holds no slot (R340). -/
def State.benchRoom (s : State) (facet : Nat) : Bool :=
  (s.groups.filter (fun x => x.free.isSome && x.facet = facet && x.stat ≠ .resident && x.stat ≠ .exited)).length < 65536

/-- A free wave created by WSPAWN (R338, R339); OLIMIT where something is full. -/
def State.spawnFree (s : State) (g : Group) (facet : Nat) (r : Nat → Word) : Option (State × Word) :=
  let f := s.facet facet
  let a : Allot := ⟨bits (r 2) 0 9, bits (r 2) 9 9, (r 3).toNat, bits (r 2) 18 6⟩
  let spill := (r 4).toNat
  let level := bits (r 2) 24 3
  if f.cores = 0 || !s.benchRoom facet || f.reserve < s.reserved facet + saveSize 1 a spill then none
  else
    let gid := s.nextId
    match s.create facet g.ctx (fun _ => .wave gid) with
    | none => none
    | some (s, x) =>
      let s := s.dropCode g.ctx
      let pc := BitVec.ofNat 64 ((r 0).toNat + (r 1).toNat * 2 ^ 32)
      let w := newWave 0 0 0 (BitVec.allOnes 64) pc (BitVec.ofNat 12 (r 7).toNat) 0
      let w := ((w.setS 0 (r 6)).setS 1 x).setS 2 ((g.free.map FreeWave.handle).getD 0)
      let slots := if g.waves.any (fun w => w.core = 8) then List.replicate 8 0#16 else g.slots
      let n := { newGroup gid g.ctx facet none ⟨0, 0, 0, 0, 0, 0, 0, [], none⟩ (64, 1, 1) [w] a a slots spill (r 5).toNat false 0 with
        free := some ⟨x, level, 0, 0⟩, stat := .benched, since := s.edges }
      some ({ s with groups := s.groups ++ [n], nextId := gid + 1 }.updFacet facet (fun y => { y with bench := y.bench ++ [(level, gid)] }), x)

/-- Whether a wave is parked (R55). -/
def Wave.parked (w : Wave) : Bool :=
  match w.park with
  | .no | .retry false _ => false
  | _ => true

/-- A field of OINFO (R357). -/
def State.infoOf (s : State) (facet : Nat) (o : Obj) (field : Nat) : Nat :=
  match o.kind with
  | .wave gid =>
    match s.group? gid with
    | none => 0
    | some g =>
      let st := match g.stat with
        | .benched | .saved => 0
        | .resident => if g.waves.any Wave.parked then 2 else 1
        | .stoodDown => 3
        | .exited => 4
      (match field with
       | 0 => st + g.exitMax % 256 * 2 ^ 8 + g.exitOr.toNat * 2 ^ 16
       | 1 => (g.free.map (fun x => x.code.toNat)).getD 0
       | _ => (g.free.map FreeWave.level).getD 0)
  | .port _ q _ rs => (match field with
    | 0 => 0
    | 1 => q.length
    | _ => rs.length)
  | .waitSet m => (match field with
    | 0 => 0
    | 1 => m.length
    | _ => (s.lowestTag facet m).getD 0xFFFFFFFF)
  | .timer d armed expired => (match field with
    | 0 => if expired then 2 else if armed then 1 else 0
    | 1 => d.toNat % 2 ^ 32
    | _ => d.toNat / 2 ^ 32)
  | .proxy p _ => (match field with
    | 0 => if s.fabric.any (fun x => x.1 = p) then 0 else 1
    | 1 => p
    | _ => 0)

/-- The waiting calls of a freed port complete with OCLOSED; the link carries the answer to a sender on another package. A send that is
begun comes before the freeing (R334). -/
def State.closePort (s : State) (ws : List Waiter) : State :=
  ws.foldl (fun s x =>
    let begun := (((s.group? x.group).bind (fun g => g.wave? x.wave)).bind (fun w => w.cmd? 6 x.seq)).any Cmd.sending
    if x.peer.isSome || begun then s else s.perform x.group x.wave 6 x.seq 0x28#8) s

/-- The frames of a list of messages given back: lent frames of this package return to the lender, and a frame of another package
returns over its link (R348 to R350). -/
def State.dropMessages (s : State) (ms : List Msg) : State :=
  let fs := ms.flatMap Msg.grants
  (fs.filter (fun x => 2 ^ 50 ≤ x.1)).foldl (fun s x =>
    match s.fabric.find? (fun y => y.1 = x.1 / 2 ^ 50) with
    | some (_, p) => s.sendFlit p 0 none
    | none => s) (s.returnLent fs)

/-- What freeing an object does, once it may be freed (R356). -/
def State.freeObj (s : State) (facet : Nat) (o : Obj) : State :=
  let s := match o.kind with
    | .wave gid => s.dropGroup gid
    | .port _ q ss rs =>
      let x := objWord facet 2 o.idx o.gen
      { (s.closePort (ss ++ rs)).dropMessages q with names := s.names.filter (fun b => b.obj ≠ x) }
    | _ => s
  s.freeIndex facet o.idx

/-- Whether an OFREE must wait: some command of the exited wave is not complete (R356). -/
def State.freeWaits (s : State) (o : Obj) : Bool :=
  match o.kind with
  | .wave gid =>
    match s.group? gid with
    | some g => g.stat = .exited && g.waves.any (fun w => w.cmds.any (fun c => !c.done))
    | none => false
  | _ => false

/-- A call that creates an object: its handle is kept with the command until the completion is signalled (R331). -/
def State.created (s : State) (gid wid seq : Nat) (r : Option (State × Word)) : State :=
  match r with
  | none => s.perform gid wid 6 seq 0x22#8
  | some (s, x) => s.updCmd gid wid 6 seq (fun c => { c with stage := .performed, status := 0, info := BitVec.ofNat 64 x.toNat })

/-- The member and set of SADD (R351). -/
def State.addMember (s : State) (x y : Word) (tag : Nat) (members : SMap Nat) : Option State :=
  let f := objFacet x
  let i := objIdx y
  let sets := ((s.facet f).objs.filter (fun o => match o.kind with
    | .waitSet m => m.any (fun c => c.1 = i)
    | _ => false)).length
  let isIn := members.any (fun c => c.1 = i)
  if !isIn && (64 ≤ members.length || 4 ≤ sets) then none
  else
    let rest := keepKeys (· ≠ i) members
    let m := rest.filter (fun c => c.1 < i) ++ (i, tag) :: rest.filter (fun c => i < c.1)
    some (s.updObj f (objIdx x) (fun o => { o with kind := .waitSet m }))

/-- The statuses that another package answers a send with: OSTALE, OACCESS, OLIMIT, OGRANT, OCLOSED and OPEER, and OFULL under .NW (R345,
R354, R355). -/
def peerSendAnswer (nw : Bool) (ans : Byte) : Bool :=
  ans = 0x20#8 || ans = 0x21#8 || ans = 0x22#8 || ans = 0x27#8 || ans = 0x28#8 || ans = 0x29#8 || (nw && ans = 0x23#8)

/-- The port to a package now, if a route leads to it (R433). -/
def State.routeTo (s : State) (peer : Nat) : Option Nat := (s.fabric.find? (fun x => x.1 = peer)).map Prod.snd

/-- Whether the requests of a command for a package reach it: where they have left, unless their flits were discarded with a retired port
and no answer can come over another; else where a route leads to it (R433). -/
def State.reachesPeer (s : State) (c : Cmd) (peer : Nat) : Bool :=
  if c.posted then c.via.any (fun x => x.1 = peer && ((s.port x.2).state ≠ 3 || (s.routeTo peer).isSome)) else (s.routeTo peer).isSome

/-- A call performed by its home engine (R334). `ans` is the status that another package answers with, for a send through a proxy or
the look-up of a name there. The state is unchanged where the call cannot be performed yet. A send that is begun comes before what has
befallen its port since: where the port is freed, its message is discarded with it, and another package has its place for it already, so
that it answers no status any more (R334, R349, R350). The sum of a TARM wraps (assumption 89), and a timer that is not armed keeps the
deadline it last had, 0 at first (assumption 113). -/
def State.doCall (s : State) (g : Group) (w : Wave) (k : Cmd) (ans : Byte) (call : Call) : State :=
  let fin := fun (s : State) (st : Byte) => s.perform g.id w.id 6 k.seq st
  let wait := fun (s : State) => s.updCmd g.id w.id 6 k.seq (fun c => { c with stage := .waiting })
  let me : Waiter := ⟨g.id, w.id, k.seq, none⟩
  let gone := g.free.isSome && !w.alive
  let onObj := fun (x : Word) (send : Bool) (body : Obj → State) =>
    match s.findObj g.ctx send x with
    | .error e => fin s e
    | .ok o => body o
  match call with
  | .wspawn _ facet desc => s.unless (s.created g.id w.id k.seq (s.spawnFree g facet (fun i => desc.getD i 0)))
  | .wkill x status => onObj x false (fun o => match o.kind with
    | .wave gid => (fin s 0).endFree gid (BitVec.ofNat 8 status) 0 0
    | _ => fin s 0x20#8)
  | .pnew _ depth => s.created g.id w.id k.seq (s.create g.facet g.ctx (fun _ => .port depth [] [] []))
  | .psend x sp nw loc len label pages held =>
    let message := fun (s : State) (fs : List (Nat × Bool)) => s.messageOf g k sp loc len label fs
    match (if held.isSome then (s.obj? x).elim (.error 0) .ok else s.findObj g.ctx true x) with
    | .error 0 => s.grantThen g w.id k (.ctx g.ctx) pages held (fun s fs => (fin s 0).dropMessages [message s fs])
    | .error e => fin s e
    | .ok o =>
      let away := fun (dest : Dest) (body : State) =>
        if held.isSome then body
        else if !pages.all (fun a => s.grantable g.ctx a) then fin s 0x27#8
        else if s.lendsTo g.ctx dest && !s.lendRoom (s.frames g.ctx pages) then fin s 0x22#8
        else body
      match o.kind with
      | .port depth q ss _ => away (.ctx o.ctx) (
          if held.isNone && (depth ≤ q.length || !ss.isEmpty) then
            (if nw then fin s 0x23#8
             else if gone then fin s 0x02#8
             else (wait s).updPort' (objFacet x) (objIdx x) (fun q ss rs => (q, ss ++ [me], rs)))
          else s.grantThen g w.id k (.ctx o.ctx) pages held (fun s fs =>
            (fin s 0).deposit (objFacet x) (objIdx x) (message s fs)))
      | .proxy p port =>
        if !s.reachesPeer k p then fin (s.returnLent (held.getD [])) 0x29#8
        else if held.isSome && ans ≠ 0 then s
        else if ans = 0x01#8 then (if gone then fin s 0x02#8 else if nw then s else wait s)
        else if ans ≠ 0 then (if peerSendAnswer nw ans then fin s ans else s)
        else away (.peer p) (s.grantThen g w.id k (.peer p) pages held (fun s fs =>
          fin { s with outbox := s.outbox ++ [(p, port, message s fs)] } 0))
      | _ => fin s 0x20#8
  | .precv x sp poll loc cap gva d =>
    let s := State.serve 257 s (objFacet x) (objIdx x)
    match s.findObj g.ctx false x with
    | .error e => fin s e
    | .ok o =>
      match o.kind with
      | .port _ q _ _ =>
        match q with
        | [] =>
          if poll then fin s 0x24#8
          else if gone then fin s 0x02#8
          else (wait s).updPort' (objFacet x) (objIdx x) (fun q ss rs => (q, ss, rs ++ [me]))
        | m :: _ =>
          let (t, taken) := s.takeMsg g.id w.id k.seq k.die sp loc cap gva.toNat d m
          if taken then
            (t.updPort' (objFacet x) (objIdx x) (fun q ss rs => (q.drop 1, ss, rs))).admitSender (objFacet x) (objIdx x)
          else t
      | _ => fin s 0x20#8
  | .snew _ => s.created g.id w.id k.seq (s.create g.facet g.ctx (fun _ => .waitSet []))
  | .sadd x y tag => onObj x false (fun o => onObj y false (fun _ => match o.kind with
    | .waitSet m =>
      match s.addMember x y tag m with
      | some t => fin t 0
      | none => fin s 0x22#8
    | _ => fin s 0x20#8))
  | .sdel x y => onObj x false (fun _ => onObj y false (fun _ =>
      fin (s.updObj (objFacet x) (objIdx x) (fun o => match o.kind with
        | .waitSet m => { o with kind := .waitSet (keepKeys (· ≠ objIdx y) m) }
        | _ => o)) 0))
  | .tnew _ => s.created g.id w.id k.seq (s.create g.facet g.ctx (fun _ => .timer 0 false false))
  | .tarm x abs n => onObj x false (fun _ =>
      let d := if abs then n else (s.facet (objFacet x)).ref + n
      fin (s.updObj (objFacet x) (objIdx x) (fun o => { o with kind := .timer d true false })) 0)
  | .tdis x => onObj x false (fun _ =>
      fin (s.updObj (objFacet x) (objIdx x) (fun o => match o.kind with
        | .timer d _ _ => { o with kind := .timer d false false }
        | _ => o)) 0)
  | .olook _ name =>
    if s.localName name.toNat then
      let bs := s.names.filter (fun b => b.name = nameKey name)
      match (match bs.find? (fun b => b.ctx = g.ctx) with
        | some b => some b
        | none => bs.find? (fun b => b.pub)) with
      | some b => s.created g.id w.id k.seq (some (s, b.obj))
      | none => fin s 0x25#8
    else
      let p := name.toNat / 2 ^ 54
      if !s.reachesPeer k p then fin s 0x29#8
      else if ans ≠ 0 then (if ans = 0x25#8 || ans = 0x29#8 then fin s ans else s)
      else s.created g.id w.id k.seq (s.create g.facet g.ctx (fun _ => .proxy p ((Config.freeWord s.tick 0x203).setWidth 32)))
  | .obind x name pub => onObj x false (fun _ =>
      let bs := s.names.filter (fun b => b.name = nameKey name)
      if bs.any (fun b => b.ctx = g.ctx || (pub && b.pub)) then fin s 0x26#8
      else if 65536 ≤ s.names.length then fin s 0x22#8
      else fin { s with names := s.names ++ [⟨g.ctx, nameKey name, pub, x⟩] } 0)
  | .ounb name =>
    if s.names.any (fun b => b.ctx = g.ctx && b.name = nameKey name) then
      fin { s with names := s.names.filter (fun b => !(b.ctx = g.ctx && b.name = nameKey name)) } 0
    else fin s 0x25#8
  | .ofree x => onObj x false (fun o =>
      let busy : Bool := match o.kind with
        | .wave gid => (s.group? gid).any (fun y => y.stat ≠ .exited)
        | _ => isEsc (objFacet x) (objIdx x)
      if busy then fin s 0x2B#8
      else if s.freeWaits o then s
      else fin (s.freeObj (objFacet x) o) 0)
  | .oinfo x field d => onObj x false (fun o =>
      fin (s.deliverTo g.id w.id d false k.mask (fun _ => s.infoOf (objFacet x) o field)) 0)

/-! ### Escalation ports (R347, R414, R443) -/

/-- The receivers that wait at an escalation port take the messages that have come to it, the longest-waiting first (R347). While the
firmware cores change images, escalations wait (R443). -/
def State.serveEsc (s : State) : State :=
  if s.host.fwNext.isSome then s
  else (distinct (s.escWait.map Prod.fst)).foldl (fun s die => State.serve (s.escWait.length + 1) s (die * 4) escIndex) s

/-- The ports with room for a sender that waits there and is not begun, by facet and index: one before it has gone with its wave
(R343, R345). -/
def State.openPorts (s : State) : List (Nat × Nat) :=
  (s.facets.mapIdx (fun f x => x.objs.filterMap (fun o => match o.kind with
    | .port d q (w :: _) _ =>
      let begun := (((s.group? w.group).bind (fun g => g.wave? w.wave)).bind (fun y => y.cmd? 6 w.seq)).any Cmd.sending
      if q.length < d && !(w.peer.isNone && begun) && !s.objBusy (objWord f 2 o.idx o.gen) then some (f, o.idx) else none
    | _ => none))).flatten

/-- What waits at ports taken at the end of a turn: messages at escalation ports (R347), and senders where a place is free (R345). -/
def State.servePorts (s : State) : State := s.openPorts.foldl (fun s x => s.admitSender x.1 x.2) s.serveEsc

/-! ### Timers and wake-ups (R335, R352, R353) -/

/-- Whether a timer's deadline has come. -/
def timerDue (ref : DWord) (o : Obj) : Bool :=
  match o.kind with
  | .timer d armed expired => armed && !expired && d.toNat ≤ ref.toNat
  | _ => false

/-- The due timers of a facet expire. -/
def Facet.expireTimers (f : Facet) : Facet :=
  { f with objs := f.objs.map (fun o => if timerDue f.ref o then (match o.kind with
      | .timer d _ _ => { o with kind := .timer d true true }
      | _ => o) else o) }

/-- What a WWAIT on a set returns now: none where it goes on waiting (R352). -/
def State.wwaitValue (s : State) (set : Word) : Option Nat :=
  match s.obj? set with
  | some ⟨_, _, _, .waitSet m⟩ => s.lowestTag (objFacet set) m
  | _ => some 0xFFFFFFFE

/-- A waiting wave woken at the evaluation of its set, with the value written to its registers, saved ones included. -/
def State.wakeWave (s : State) (gid : Nat) (w : Wave) : State :=
  match w.park with
  | .wwait set d m =>
    match s.wwaitValue set with
    | none => s
    | some v => (s.deliverTo gid w.id d false m (fun _ => v)).updWave gid w.id (fun w => { w with park := .no, held := none })
  | _ => s

/-- The evaluation of every wait set: every wave that waits on a set with a ready member is woken (R335). -/
def State.wakeAll (s : State) : State :=
  s.groups.foldl (fun s g => g.waves.foldl (fun s w => s.wakeWave g.id w) s) s

end Sys2Proof.Machine
end

