-- ==== Sys2Proof/Machine/Memory.lean ====
section
/-! DEFINITION. Page migration, the bias of a page, and host accesses: PAGE_MIGRATE, HOST_MEM_ACCESS,
HOST_RECALL, TAIL_WRITE and CANCEL_WORD_WRITE (R187, R188, R197, R258 to R260, R262, R290, R435). -/

namespace Sys2Proof.Machine

open Sys2Proof

/-! ### Migration (R197) -/

/-- The key of the entry that a walk ends at. -/
def leafKey (s : State) (c : CtxDesc) (va : Nat) : Nat → Nat → Option Nat
  | 0, _ => none
  | level + 1, table =>
    let (lo, n) := levelBits (level + 1)
    let key := table + 8 * (va / 2 ^ lo % 2 ^ n)
    let e := s.readNum c.num key 8
    if !e.testBit 63 then none else if e.testBit 62 then some key else leafKey s c va level (e / 2 ^ 12 % 2 ^ 36 * 4096)

/-- The counter of the page whose first 4 KiB is `page` reset (R197). -/
def State.resetMig (s : State) (page : Nat) : State :=
  { s with migCount := put 0 s.migCount page 0, migPass := keepKeys (fun k => k / 4 ≠ page) s.migPass }

/-- What the device keeps the place of in a page that moves: control blocks, completion records and cancel words (R197). -/
def State.moveKeys (s : State) (old new size : Nat) : State :=
  let at_ := fun (k : Nat) => if old ≤ k && k < old + size then k - old + new else k
  { s with
    queues := s.queues.map (fun (q : Queue) => { q with key := at_ q.key })
    launches := s.launches.map (fun (l : Launch) => { l with complKey := at_ l.complKey, cancelKey := l.cancelKey.map at_ }) }

/-- A migrate-mode entry of a page with the page's new place and MODE local caching. -/
def movedEntry (e old new : Nat) : Nat :=
  let at_ := e / 2 ^ 12 % 2 ^ 36 * 4096
  if e / 2 ^ 48 % 4 = 2 && old ≤ at_ then e - 2 ^ 49 - at_ + (at_ - old + new) else e

/-- The entries of a page: one, or the sixteen of a 64 KiB page. -/
def entryKeys (key e level : Nat) : List Nat :=
  if level = 1 && e.testBit 7 then (List.range 16).map (fun i => key / 128 * 128 + 8 * i) else [key]

/-- PAGE_MIGRATE (R197, R200): a migrate-mode page moves to `frame`, the physical address of a free frame in the quarter of the facet
whose request took its counter past the threshold; a `frame` that is no such address stands for a quarter with none free, and the counter
is reset. The move waits for the commands that pinned the page. An uncorrectable sector of it stays so in its new place (R203). -/
def execPageMigrate (ctx : Nat) (va : DWord) (facet frame : Nat) (s : State) : Host.Outcome State Fault Refusal :=
  match s.ctx? ctx with
  | none => .next s
  | some c =>
    match (if 2 ^ 56 ≤ va.toNat then .error 0x12 else walk s c va.toNat 4 c.root), leafKey s c va.toNat 4 c.root with
    | .ok (e, level), some key =>
      let span := leafSpan e level
      let size := 4096 * span
      let first := leafBase va.toNat e level / size * size
      let mcls := e / 2 ^ 10 % 4
      if e / 2 ^ 60 % 4 ≠ 0 || e / 2 ^ 48 % 4 ≠ 2 || look 0 s.migPass (first / 4096 * 4 + mcls) ≠ facet + 1 || homeFacet first = facet
          || !ctxOwns c facet then .next s
      else if homeFacet frame ≠ facet || frame % size ≠ 0 || 2 ^ 40 ≤ frame then .next (s.resetMig (first / 4096))
      else if s.pinnedBy ctx va.toNat then .next s
      else
        let s := s.recallRange first size
        let lost := s.bad.filter (fun x => first / 64 ≤ x && x < (first + size) / 64)
        let t := s.storeMain ctx frame (s.readBytes ctx first size)
        let s := { t with
          icache := s.icache
          bad := t.bad.filter (fun x => !lost.contains x) ++ lost.map (fun x => x - first / 64 + frame / 64)
          : State }.moveCode first frame size
        let s := (entryKeys key e level).foldl (fun (s : State) k =>
          s.storeMain ctx k (toBytes 8 (movedEntry (s.readNum ctx k 8) first frame))) s
        let s := { s with tlb := s.tlb.filter (fun (t : TlbEntry) => !(t.ctx = ctx && covers span t.vpage (va.toNat / 4096))) }
        .next ((s.moveKeys first frame size).resetMig (first / 4096))
    | _, _ => .next s

/-! ### Bias (R188, R259) -/

/-- Whether a device request that has been accepted for a 4 KiB page is not yet performed. -/
def State.pageBusy (s : State) (page : Nat) : Bool :=
  s.groups.any (fun g => g.waves.any (fun w => w.cmds.any (fun k => !k.done && k.pins.any (fun p => p.base / 4096 = page))))

/-- A page flipped to host bias: every L2 copy is written back and invalidated. -/
def State.flipHost (s : State) (page : Nat) : State :=
  { s with devBias := s.devBias.filter (· ≠ page) }.dropLines (fun l => l.sector / 64 = page)

/-- A page flipped to device bias: every host copy is recalled. What the host had changed in one is written back before, as a host
access of its own. -/
def State.flipDevice (s : State) (page : Nat) : State :=
  { s with devBias := page :: s.devBias.filter (· ≠ page), hostHeld := s.hostHeld.filter (fun sec => sec / 64 ≠ page) }

/-! ### Host accesses (R187, R258, R394, R435) -/

/-- The place in `State.mem` of a host access: a device physical address through CXL.mem; from 2^40 up, an offset in the BAR2 window
that WINBASE places (R434, R436); and from 2^48 up, memory outside the package, where the host writes its own memory and another
package its own (R258, R260, assumption 63). -/
def State.hostAddress (s : State) (pa : Nat) : Nat :=
  if pa < 2 ^ 40 || 2 ^ 48 ≤ pa then pa else s.host.winbase.toNat / 2 ^ 36 % 16 * 2 ^ 36 + (pa - 2 ^ 40) % 2 ^ 36

/-- The pages of a range that are in device bias. -/
def State.toFlip (s : State) (a n : Nat) : List Nat := ((pagesOf a n).map (· / 4096)).filter (fun p => s.devBias.contains p)

/-- A range as a host access finds it: its pages in host bias, and no copy in an L2; none while a device request accepted for a page
that must be flipped is not performed (R187, R259). -/
def State.forHost (s : State) (a n : Nat) : Option State :=
  if (s.toFlip a n).any s.pageBusy then none
  else some (((s.toFlip a n).foldl (fun s p => s.flipHost p) s).recallRange a n)

/-- The sectors of a range that the host may hold in its caches from now on (R259, assumption 83). -/
def State.hostTakes (s : State) (a n : Nat) : State :=
  { s with hostHeld := distinct ((List.range ((a + n - 1) / 64 - a / 64 + 1)).map (· + a / 64) ++ s.hostHeld) }

/-- HOST_MEM_ACCESS (R258, R259, R394): served at the home agent under key slot 0, after a flip to host bias of every page that is in
device bias. It waits while device requests accepted for such a page are not performed. A read leaves memory as it is. Device memory is
reached once the host port is trained (R447). -/
def execHostMemAccess (pa : Nat) (write : Bool) (bytes : List Byte) (s : State) : Host.Outcome State Fault Refusal :=
  let a := s.hostAddress pa
  let n := max 1 bytes.length
  if 2 ^ 48 ≤ a then .next (if write then (if 2 ^ 50 ≤ a then s.applyMain 0 a bytes 1 else s.storeMain 0 a bytes 1) else s)
  else if 2 ^ 40 < a + n || s.host.boot ≠ 2 then .next s
  else
    match s.forHost a n with
    | none => .next s
    | some t => .next ((if write then t.storeMain 0 a bytes 1 else t).hostTakes a n)

/-- HOST_RECALL (R187): the sector that holds an address leaves every L2, once the host port is trained (R447). -/
def execHostRecall (pa : Nat) (s : State) : Host.Outcome State Fault Refusal :=
  .next (if s.host.boot = 2 then s.recallRange (s.hostAddress pa) 1 else s)

/-- An aligned 8-byte write of the host under a context's key, with the flip that it needs (R259). Device memory is reached once the host
port is trained (R447). -/
def State.hostWord (s : State) (ctx key : Nat) (v : DWord) : State :=
  let o := s.under ctx key
  if isLocal key && s.host.boot ≠ 2 then s
  else if isLocal key then ((s.forHost key 8).map (fun t => t.storeMain o key (toBytes 8 v.toNat))).getD s
  else s.storeMain o key (toBytes 8 v.toNat)

/-- TAIL_WRITE (R259, R262, R264): an aligned 8-byte write of the host to a queue's TAIL word. -/
def execTailWrite (qid : Nat) (v : DWord) (s : State) : Host.Outcome State Fault Refusal :=
  match s.queue? qid with
  | none => .next s
  | some q => .next (s.hostWord q.ctx (q.key + 16) v)

/-- CANCEL_WORD_WRITE (R259, R290): a value written to the cancel word of a launch. -/
def execCancelWordWrite (lid : Nat) (v : DWord) (s : State) : Host.Outcome State Fault Refusal :=
  match s.launch? lid with
  | none => .next s
  | some l => .next (l.cancelKey.elim s (fun k => s.hostWord l.ctx k v))

end Sys2Proof.Machine
end

