-- ==== Sys2Proof/Machine/Convert.lean ====
section
/-! DEFINITION. Conversions (R134 to R138). -/

namespace Sys2Proof.Machine

open Sys2Proof

/-- The source type of CVT and CVTI, in IMM[3:0] (R134). -/
def srcTy (f : Form) : Ty := Ty.ofCode (BitVec.ofNat 4 f.imm.toNat)

/-- A source of CVT as a number (R135). -/
def Ctx.number (c : Ctx) (t : Ty) (o : Operand) (l : Nat) : FVal :=
  if t.isFloat then dec (fmtOf t) (c.read 1 t o l) else FVal.ofInt (c.readInt 1 t o l)

/-- CVT (R135). -/
def execCvt (f : Form) (s : State) : Host.Outcome State Fault Refusal :=
  issueInstr 0x60 f s (.dst false) (.src (wideTy (srcTy f))) .unused none (fun c => c.slotOk 1 5) (fun c =>
    .done (c.write c.st f.d false (fun l => roundF (c.number (srcTy f) f.a l) (fmtOf c.elemTy) c.mode c.sat)))

/-- CVTI of an integer source (R136). -/
def cvtInt (t : Ty) (sat : Bool) (x : Int) : Nat := wrapInt (if sat then satInt x t else x) (tyWidth t)

/-- CVTI (R136). -/
def execCvti (f : Form) (s : State) : Host.Outcome State Fault Refusal :=
  issueInstr 0x61 f s (.dst (wideTy f.ty)) (.src (wideTy (srcTy f))) .unused none (fun _ => true) (fun c =>
    .done (c.writeTy c.st (fun l =>
      extend f.ty (if (srcTy f).isFloat then
          wrapInt (toInt (dec (fmtOf (srcTy f)) (c.read 1 (srcTy f) f.a l)) f.ty (modeOf f.var)) (tyWidth f.ty)
        else cvtInt f.ty (4 ≤ f.var.toNat) (c.readInt 1 (srcTy f) f.a l)))))

/-- Whether an instruction in slot mode may have its IMM with a slot of 16-bit elements (R134). -/
def Ctx.wideSlotOk (c : Ctx) (limit : Nat) : Bool :=
  c.form.ty ≠ .slot || tyWidth c.elemTy ≠ 16 || c.form.imm.toNat ≤ limit

/-- The register that PACK leaves (R137): both 16-bit elements, or two bytes of the old D replaced. -/
def packed (t : Ty) (pos old ea eb : Nat) : Nat :=
  if tyWidth t = 16 then ea + eb * 2 ^ 16
  else if pos = 0 then ea + eb * 2 ^ 8 + old / 2 ^ 16 * 2 ^ 16
  else old % 2 ^ 16 + ea * 2 ^ 16 + eb * 2 ^ 24

/-- PACK (R137). An 8-bit PACK reads D, which must not be none. -/
def execPack (f : Form) (s : State) : Host.Outcome State Fault Refusal :=
  issueInstr 0x62 f s (.dst false) (.src false) (.src false) none
    (fun c => c.slotOk 2 5 && c.wideSlotOk 0 && (tyWidth c.elemTy = 16 || f.d ≠ .none)) (fun c =>
    .done (c.write c.st f.d false (fun l =>
      let e := fun (slot : Nat) (o : Operand) => roundF (f32 (c.read slot .f32 o l)) (fmtOf c.elemTy) c.mode c.sat
      packed c.elemTy f.imm.toNat (c.read 3 .b32 f.d l) (e 1 f.a) (e 2 f.b))))

/-- UNPK (R137). -/
def execUnpk (f : Form) (s : State) : Host.Outcome State Fault Refusal :=
  issueInstr 0x63 f s (.dst false) (.src false) .unused none (fun c => c.slotOk 2 5 && c.wideSlotOk 1) (fun c =>
    .done (c.write c.st f.d false (fun l =>
      let t := c.elemTy
      roundF (dec (fmtOf t) (elemOf (tyWidth t) (c.read 1 .b32 f.a l) f.imm.toNat)) .f32 .rn false)))

/-- A block of v registers written in the active lanes: register `i` of the block takes `val i lane`. -/
def Ctx.writeBlock (c : Ctx) (s : State) (base n : Nat) (val : Nat → Nat → Nat) : State :=
  (List.range n).foldl (fun s i => c.updWave s (fun w => w.writeV c.st.tick (base + i) c.act (fun l => word (val i l)))) s

/-- The registers of QBLK's block (R138). -/
def blockReg (blk : List Nat) (j : Nat) : Nat :=
  if j = 4 then blk.getD 16 0 + blk.getD 17 0 * 256
  else blk.getD (4 * j) 0 + blk.getD (4 * j + 1) 0 * 2 ^ 8 + blk.getD (4 * j + 2) 0 * 2 ^ 16 + blk.getD (4 * j + 3) 0 * 2 ^ 24

/-- The 18 bytes of a block held in five registers (R138). -/
def blockBytes (reg : Nat → Nat) : List Nat :=
  (List.range 16).map (fun j => reg (j / 4) / 2 ^ (8 * (j % 4)) % 256) ++ [reg 4 % 256, reg 4 / 256 % 256]

/-- QBLK (R138). -/
def execQblk (f : Form) (s : State) : Host.Outcome State Fault Refusal :=
  issueInstr 0x64 f s (.vblock 5 false) (.vblock 32 false) .unused none (fun c => c.slotOk 6 6) (fun c =>
    let a := vIndex f.a
    let blk := fun (l : Nat) => qblk ((List.range 32).map (fun i => f32 (c.lane (1 + i) false (a + i) l))) (slotExtra c.slot)
    .done (c.writeBlock c.st (vIndex f.d) 5 (fun j l => blockReg (blk l) j)))

/-- DQBLK (R138). -/
def execDqblk (f : Form) (s : State) : Host.Outcome State Fault Refusal :=
  issueInstr 0x65 f s (.vblock 32 false) (.vblock 5 false) .unused none (fun c => c.slotOk 6 6) (fun c =>
    let a := vIndex f.a
    let blk := fun (l : Nat) => blockBytes (fun j => c.lane (1 + j) false (a + j) l)
    .done (c.writeBlock c.st (vIndex f.d) 32 (fun i l => roundF (f4xDecode (blk l) i (slotExtra c.slot)) .f32 .rn false)))

end Sys2Proof.Machine
end

