-- ==== Sys2Proof/Machine/Matrix.lean ====
section
/-! DEFINITION. Matrix instructions at issue, OP 0x68 to 0x71, and what the engine does with each (R139 to R167). -/

namespace Sys2Proof.Machine

open Sys2Proof

/-! ### Formats of operands -/

/-- The ELEM code of a format: 1 F32, 2 F16, 3 BF16, 4 F8E4, 5 F8E5, 6 F4X; 0 for none. -/
def elemCode (slots : List (BitVec 16)) (t : Ty) (slot : Nat) : Nat :=
  match t with
  | .f32 => 1
  | .f16 => 2
  | .bf16 => 3
  | .f8e4 => 4
  | .f8e5 => 5
  | .slot => slotElem (slots.getD slot 0)
  | _ => 0

/-- The type of an ELEM code other than F4X. -/
def elemType : Nat → Ty
  | 2 => .f16
  | 3 => .bf16
  | 4 => .f8e4
  | 5 => .f8e5
  | _ => .f32

/-- The element size of an ELEM code in bytes; 0 for F4X. -/
def elemSize : Nat → Nat
  | 1 => 4
  | 2 | 3 => 2
  | 4 | 5 => 1
  | _ => 0

/-- The K of an ELEM code (R142). -/
def elemDepth (e : Nat) : Nat := depthOf (elemSize e)

/-- The registers of an A block (R142). -/
def blockRegs (e : Nat) : Nat := if e = 1 then 8 else if e = 6 then 20 else 16

/-- The ELEM code of a map's format (R147). -/
def mapElem (slots : List (BitVec 16)) (m : DWord) : Nat :=
  elemCode slots (Ty.ofCode (BitVec.ofNat 4 (mapFmt m))) (mapSlot m)

/-- The operands map, footprint and pairing of an MMA or MMAB (R148, R156); `a` is the ELEM code of A. -/
def mapOk (slots : List (BitVec 16)) (sh a : Nat) (m : DWord) : Bool :=
  let b := mapElem slots m
  mapFmt m ≠ 0 && 1 ≤ a && a ≤ 6 && 1 ≤ b && b ≤ 6 && elemDepth a = elemDepth b
    && (b ≠ 6 || mapKmaj m) && mapBase m + mapSpan slots m ≤ sh

/-! ### Issue -/

/-- A matrix command with nothing in it. -/
def MatCmd.empty (kind : MatKind) (f : Form) : MatCmd :=
  { kind := kind, reuse := f.hints.reuse, ty := f.ty, var := f.var.toNat, d := aIndex f.d, a := aIndex f.a, b := aIndex f.b,
    aval := [], map := 0, args := [], col := 0 }

/-- A matrix command issued to the engine of its core (R150, R153). -/
def Ctx.matrix (c : Ctx) (m : MatCmd) : Res := c.command 4 (.matrix m) (handleReg c.form.c)

/-- The wave's latch tag after an MMA or MMAB is issued (R144). -/
def Ctx.latches (c : Ctx) (m : MatCmd) : Res → Res
  | .done t => if m.reuse then .done t
      else .done (c.updWave t (fun w => { w with latchTag := some (m.kind, m.ty, m.var) }))
  | r => r

/-- An MMA or MMAB whose A has ELEM code `e` (R145, R148, R156). -/
def Ctx.multiply (c : Ctx) (m : MatCmd) (e : Nat) : Res :=
  let map := c.wave.m? (mIndex c.form.b)
  if !mapOk c.grp.slots c.grp.cur.sh e map then .fault codeOperand
  else if m.reuse && c.wave.latchTag ≠ some (m.kind, m.ty, m.var) then .fault codeOperand
  else c.latches m (c.matrix { m with map := map })

/-- The A block of an MMA as its registers stand in all 64 lanes (R143). -/
def Ctx.aBlock (c : Ctx) (n : Nat) : SMap Word :=
  (List.range n).foldl (fun m k => allLanes.foldl (fun m l =>
    put 0 m (k * 64 + l) (c.wave.readV c.st.tick 1 (vIndex c.form.a + k) l)) m) []

/-- MMA (R156). -/
def execMma (f : Form) (s : State) : Host.Outcome State Fault Refusal :=
  let slots := (s.issuer?.map (fun (g, _, _) => g.slots)).getD []
  let e := elemCode slots f.ty (f.var.toNat % 8)
  issueInstr 0x68 f s .tile (.vblock (blockRegs e) false) { m := true } (some .cmdHandle) (fun c => c.slotOk 1 6) (fun c =>
    c.multiply { MatCmd.empty .mma f with aval := if f.hints.reuse then [] else c.aBlock (blockRegs e) } e)

/-- MMAB (R157). -/
def execMmab (f : Form) (s : State) : Host.Outcome State Fault Refusal :=
  issueInstr 0x69 f s .tile .tile { m := true } (some .cmdHandle) (fun _ => true) (fun c =>
    c.multiply (MatCmd.empty .mmab f) (elemCode [] f.ty 0))

/-- MZERO (R158). -/
def execMzero (f : Form) (s : State) : Host.Outcome State Fault Refusal :=
  issueInstr 0x6A f s .tile .unused .unused (some .cmdHandle) (fun _ => true) (fun c => c.matrix (MatCmd.empty .mzero f))

/-- The row offsets of MLDA and MSTA in the active lanes, if each passes R160. -/
def Ctx.rowArgs (c : Ctx) : Option (SMap Word) :=
  let n := tySize c.form.ty
  let a := fun l => c.read 1 .n32 c.form.a l
  if (lanesOf c.act).any (fun l => a l % n ≠ 0 || c.grp.cur.sh < a l + 64 * n) then none
  else some ((lanesOf c.act).foldl (fun m l => put 0 m l (word (a l))) [])

/-- MLDA (R159). -/
def execMlda (f : Form) (s : State) : Host.Outcome State Fault Refusal :=
  issueInstr 0x6B f s .tile (.vreg false) .unused (some .cmdHandle) (fun _ => true) (fun c =>
    match c.rowArgs with
    | none => .fault codeOperand
    | some m => c.matrix { MatCmd.empty .mlda f with args := m })

/-- MSTA (R160). -/
def execMsta (f : Form) (s : State) : Host.Outcome State Fault Refusal :=
  issueInstr 0x6C f s .unused (.vreg false) .tile (some .cmdHandle) (fun _ => true) (fun c =>
    match c.rowArgs with
    | none => .fault codeOperand
    | some m => c.matrix { MatCmd.empty .msta f with args := m })

/-- The columns that MEMIT moves. -/
def emitCols (var : Nat) : Nat := 8 * 2 ^ (var / 4)

/-- MEMIT (R161). -/
def execMemit (f : Form) (s : State) : Host.Outcome State Fault Refusal :=
  let n := emitCols f.var.toNat
  issueInstr 0x6D f s (.vblock (if f.ty = .f32 then n else n / 2) false) .tile (.uni false) (some .cmdHandle) (fun _ => true)
    (fun c =>
      let col := c.uniform 2 .n32 f.b
      if 64 < col + n then .fault codeOperand
      else c.matrix { MatCmd.empty .memit f with d := vIndex f.d, col := col })

/-- MMAP (R163): executed at issue, it is no command of a matrix queue and does not count in counter 1 (assumption 105). -/
def execMmap (f : Form) (s : State) : Host.Outcome State Fault Refusal :=
  issueInstr 0x6E f s { m := true } (.uni false) (.uni false) none (fun c => c.slotOk 1 6) (fun c =>
    let base := c.uniform 1 .n32 f.a
    let stride := c.uniform 2 .n32 f.b
    let slot := if f.ty = .slot then f.var.toNat % 8 else 0
    let e := elemCode c.grp.slots f.ty slot
    let size := max 1 (elemSize e)
    let km := bit f.var 3
    if 2 ^ 19 ≤ base || 2 ^ 19 ≤ stride || base % size ≠ 0 || stride % size ≠ 0 || (e = 6 && !km) then .fault codeOperand
    else
      let x := base + stride * 2 ^ 19 + f.ty.code.toNat * 2 ^ 46 + slot * 2 ^ 50 + (if km then 2 ^ 53 else 0)
      .done (c.updWave c.st (fun w => w.setM (mIndex f.d) (BitVec.ofNat 64 x))))

/-- MRELA (R164): it counts in the MAT class and returns no handle. -/
def execMrela (f : Form) (s : State) : Host.Outcome State Fault Refusal :=
  issueInstr 0x6F f s .unused (.uni false) .unused none (fun _ => true) (fun c =>
    let mask := c.uniform 1 .n32 f.a
    let l := bit f.var 0
    if 2 ^ c.grp.cur.t ≤ mask then .fault codeOperand
    else
      match c.command 4 (.matrix { MatCmd.empty .mrela f with args := put 0 [] 0 (word mask), col := if l then 1 else 0 }) none with
      | .done t => .done (if l then c.updWave t (fun w => { w with latchTag := none }) else t)
      | r => r)

/-- MADDT (R162). -/
def execMaddt (f : Form) (s : State) : Host.Outcome State Fault Refusal :=
  issueInstr 0x70 f s .tile .tile .tile (some .cmdHandle) (fun _ => true) (fun c => c.matrix (MatCmd.empty .maddt f))

/-- The scale operand of MSCL (R162). -/
def Allow.scale : Allow := { v := true, s := true, g := true, imm := true, sys := 1 }

/-- MSCL (R162). -/
def execMscl (f : Form) (s : State) : Host.Outcome State Fault Refusal :=
  let col := bit f.var 3
  issueInstr 0x71 f s .tile .tile (if col then .vreg false else .scale) (some .cmdHandle) (fun _ => true) (fun c =>
    let scales := allLanes.foldl (fun m l =>
      put 0 m l (word (if col then c.lane 2 false (vIndex f.b) l else c.read 2 .f32 f.b l))) []
    c.matrix { MatCmd.empty .mscl f with args := scales })

/-! ### The engine -/

/-- The key of a tile's element (R139). -/
def tileKey (core t i j : Nat) : Nat := ((core * 32 + t) * 64 + i) * 64 + j

/-- An element of a tile; a released tile holds +0.0 in every element (R141). -/
def Group.tile (g : Group) (core t i j : Nat) : Nat := (look 0 g.tiles (tileKey core t i j)).toNat

/-- Rows of a tile written; the tile is in use then (R140, R141). -/
def Group.writeRows (g : Group) (core t : Nat) (m : Mask) (val : Nat → Nat → Nat) : Group :=
  { g with
    tiles := (lanesOf m).foldl (fun ts l => allLanes.foldl (fun ts j => put 0 ts (tileKey core t l j) (word (val l j))) ts) g.tiles,
    inUse := (core * 32 + t) :: g.inUse.filter (· ≠ core * 32 + t),
    badTiles := g.badTiles.filter (fun x => !(lanesOf m).any (fun l => x / 32 = (core * 32 + t) * 64 + l)) }

/-- A 4-byte or smaller element of shared memory. -/
def Group.sharedNum (g : Group) (a n : Nat) : Nat := g.shared.readNum a n

/-- `b_elem` of R147. -/
def bElem (g : Group) (m : DWord) (k n : Nat) : FVal :=
  let e := mapElem g.slots m
  if e = 6 then
    let blk := (List.range 18).map (fun i => g.sharedNum (mapBase m + n * mapStride m + 18 * (k / 32) + i) 1)
    f4xDecode blk (k % 32) (slotExtra (g.slots.getD (mapSlot m) 0))
  else
    let size := elemSize e
    let a := if mapKmaj m then mapBase m + n * mapStride m + k * size else mapBase m + k * mapStride m + n * size
    dec (fmtOf (elemType e)) (g.sharedNum a size)

/-- What element (k, n) of B is made of, as a number: the bytes of the element, or in an F4X block its code, the scale and the extra byte
(R86, R147). -/
def bBits (g : Group) (m : DWord) (k n : Nat) : Nat :=
  let e := mapElem g.slots m
  if e = 6 then
    let byte := fun i => g.sharedNum (mapBase m + n * mapStride m + 18 * (k / 32) + i) 1
    byte (k % 32 / 2) / 16 ^ (k % 2) % 16 + 16 * byte 16 + 4096 * byte 17
  else
    let size := elemSize e
    g.sharedNum (if mapKmaj m then mapBase m + n * mapStride m + k * size else mapBase m + k * mapStride m + n * size) size

/-- Element (k, n) of B as the engine takes it: what it has read of it before, or what stands there (R154). -/
def bSeen (g : Group) (sample : SMap Nat) (m : DWord) (k n : Nat) : FVal :=
  match look 0 sample (k * 64 + n) with
  | 0 => bElem g m k n
  | x + 1 =>
    let e := mapElem g.slots m
    if e = 6 then f4xDecode ((x % 16) :: List.replicate 15 0 ++ [x / 16 % 256, x / 4096]) 0 (slotExtra (g.slots.getD (mapSlot m) 0))
    else dec (fmtOf (elemType e)) x

/-- `a_elem` of R149 on an operand read from registers, with ELEM code `e`. -/
def aElem (aval : SMap Word) (e : Nat) (extra : Bool) (l k : Nat) : FVal :=
  let reg := fun i => (look 0 aval (i * 64 + l)).toNat
  match e with
  | 1 => dec .f32 (reg k)
  | 2 | 3 => dec (fmtOf (elemType e)) (elemOf 16 (reg (k / 2)) (k % 2))
  | 4 | 5 => dec (fmtOf (elemType e)) (elemOf 8 (reg (k / 4)) (k % 4))
  | _ => f4xDecode (blockBytes (fun i => reg (5 * (k / 32) + i))) (k % 32) extra

/-- The converted window of a tile that MMAB takes as its A: element k of row l at k * 64 + l (R157). -/
def Group.window (g : Group) (core : Nat) (m : MatCmd) : SMap Word :=
  let k := elemDepth (elemCode [] m.ty 0)
  let sat := m.ty = .f8e4 || m.ty = .f8e5
  (List.range k).foldl (fun acc i => allLanes.foldl (fun acc l =>
    put 0 acc (i * 64 + l) (word (roundF (dec .f32 (g.tile core m.a l (m.var * k + i))) (fmtOf m.ty) .rn sat))) acc) []

/-- The A operand of an MMA or MMAB: the latch's, the registers' or the window's (R144). -/
def MatCmd.operand (m : MatCmd) (g : Group) (w : Wave) : SMap Word :=
  if m.reuse then w.latch.elim [] Latch.aval
  else if m.kind = .mmab then g.window w.core m
  else m.aval

/-- The product of an MMA or MMAB accumulated (R156). -/
def Group.accumulate (g : Group) (core : Nat) (m : MatCmd) (aval : SMap Word) (mask : Mask) (sample : SMap Nat) : Group :=
  let e := elemCode g.slots m.ty (m.var % 8)
  let extra := slotExtra (g.slots.getD (m.var % 8) 0)
  let x := fun l k => if m.kind = .mmab then dec (fmtOf m.ty) (look 0 aval (k * 64 + l)).toNat else aElem aval e extra l k
  let ks := List.range (elemDepth e)
  g.writeRows core m.d mask (fun l n =>
    dotRound (ks.map (fun k => (x l k, bSeen g sample m.map k n))) (dec .f32 (g.tile core m.d l n)) .rn)

/-- The registers that MEMIT writes: register i of its block for a lane (R161). -/
def emitReg (g : Group) (core : Nat) (m : MatCmd) (i l : Nat) : Nat :=
  let x := fun j => roundF (dec .f32 (g.tile core m.a l (m.col + j))) (fmtOf m.ty) (modeOf (BitVec.ofNat 4 m.var)) false
  if m.ty = .f32 then x i else x (2 * i) + x (2 * i + 1) * 2 ^ 16

/-- The bytes of an element that MSTA stores (R160). -/
def MatCmd.stored (m : MatCmd) (g : Group) (core l j : Nat) : List Byte :=
  toBytes (tySize m.ty) (roundF (dec .f32 (g.tile core m.b l j)) (fmtOf m.ty) (modeOf (BitVec.ofNat 4 m.var)) (m.var / 4 % 2 = 1))

/-- Where element l * 64 + j of an MSTA goes (R160). -/
def MatCmd.outAt (m : MatCmd) (i : Nat) : Nat := (look 0 m.args (i / 64)).toNat + i % 64 * tySize m.ty

/-- The elements of MSTA that a test of l * 64 + j names and that are not stored yet, one by one; one over which a higher lane has stored
already is lost, since the highest lane gives the final value (R154, R160). -/
def MatCmd.storeOut (m : MatCmd) (g : Group) (core : Nat) (mask : Mask) (moved : List Nat) (t : Nat → Bool) : Group :=
  let todo := (List.range 4096).filter (fun i => mask.getLsbD (i / 64) && t i && !moved.contains i
    && !moved.any (fun k => i / 64 < k / 64 && m.outAt k = m.outAt i))
  todo.foldl (fun g' i => g'.storeShared (m.outAt i) (m.stored g core (i / 64) (i % 64))) g

/-- The elements of shared memory that a matrix command reads, by number: element (k, n) of B as k * 64 + n, and of MLDA the one for row l
and column j as l * 64 + j (R147, R159). -/
def MatCmd.sources (m : MatCmd) (g : Group) (mask : Mask) : List Nat :=
  match m.kind with
  | .mma | .mmab => List.range (elemDepth (elemCode g.slots m.ty (m.var % 8)) * 64)
  | .mlda => (List.range 4096).filter (fun i => mask.getLsbD (i / 64))
  | _ => []

/-- What an element that a matrix command reads is made of now, as a number. -/
def MatCmd.source (m : MatCmd) (g : Group) (i : Nat) : Nat :=
  match m.kind with
  | .mlda => g.sharedNum ((look 0 m.args (i / 64)).toNat + i % 64 * tySize m.ty) (tySize m.ty)
  | _ => bBits g m.map (i / 64) (i % 64)

/-- The effect of a matrix command on its group and wave, but for the latch. The elements of an MSTA that are moved already are not
stored again, and the elements that `sample` holds are read already (R154). -/
def MatCmd.run (m : MatCmd) (mask : Mask) (moved : List Nat) (sample : SMap Nat) (g : Group) (w : Wave) : Group :=
  let core := w.core
  let f := fun x => dec .f32 x
  match m.kind with
  | .mma | .mmab => g.accumulate core m (m.operand g w) mask sample
  | .mzero => g.writeRows core m.d mask (fun _ _ => 0)
  | .mlda =>
    let n := tySize m.ty
    let bits := fun l j => match look 0 sample (l * 64 + j) with
      | 0 => g.sharedNum ((look 0 m.args l).toNat + j * n) n
      | x + 1 => x
    g.writeRows core m.d mask (fun l j => roundF (dec (fmtOf m.ty) (bits l j)) .f32 .rn false)
  | .msta =>
    (if moved.isEmpty then
      (lanesOf mask).foldl (fun g' l => g'.storeShared (look 0 m.args l).toNat (allLanes.flatMap (m.stored g core l))) g
    else m.storeOut g core mask moved (fun _ => true)).replaced ((lanesOf mask).map (fun l => ((look 0 m.args l).toNat, 64 * tySize m.ty)))
  | .memit =>
    let n := if m.ty = .f32 then emitCols m.var else emitCols m.var / 2
    let w := (List.range n).foldl (fun w i => w.setV (m.d + i) mask (fun l => word (emitReg g core m i l))) w
    g.setWave { w with v := keepKeys (fun k => k < g.cur.v * 64) w.v }
  | .mrela => g.releaseMask core (look 0 m.args 0)
  | .maddt =>
    g.writeRows core m.d mask (fun l j =>
      let y := f (g.tile core m.b l j)
      dotRound [(f (g.tile core m.a l j), FVal.one)] (if 8 ≤ m.var then y.negate else y) (modeOf (BitVec.ofNat 4 m.var)))
  | .mscl =>
    g.writeRows core m.d mask (fun l j =>
      mulTo .f32 (f (g.tile core m.a l j)) (f (look 0 m.args (if 8 ≤ m.var then j else l)).toNat) (modeOf (BitVec.ofNat 4 m.var)))

/-- Whether a matrix command writes or releases the row of a tile that holds an element. -/
def MatCmd.renews (m : MatCmd) (core : Nat) (mask : Mask) (key : Nat) : Bool :=
  match m.kind with
  | .mrela => (List.range 32).any (fun t => bit (look 0 m.args 0) t && key / 4096 = core * 32 + t)
  | .msta | .memit => false
  | _ => key / 4096 = core * 32 + m.d && mask.getLsbD (key / 64 % 64)

/-- A group as a matrix command of a wave finds its tiles: what an MPOINT that the wave is not ordered after has released reads, per
element, as before it or as it stands now, as a free choice (R420, assumption 2). -/
def Group.blurred (g : Group) (tick wid : Nat) : Group :=
  let seen := g.faint.filter (fun f => g.points.any (fun p => p.1 = f.point && p.2.contains wid))
  { g with tiles := seen.foldl (fun ts f => f.old.foldl (fun ts x => if Config.freeBit tick 0x312 x.1 then put 0 ts x.1 x.2 else ts) ts) g.tiles }

/-- A group after a matrix command has run on what it found: what the command has not renewed stands as it was. -/
def Group.cleared (g old : Group) (renewed : Nat → Bool) : Group :=
  { g with
    tiles := old.faint.foldl (fun ts f => f.old.foldl (fun ts x => if renewed x.1 then ts else put 0 ts x.1 (look 0 old.tiles x.1)) ts) g.tiles
    faint := old.faint.map (fun f => { f with old := keepKeys (fun k => !renewed k) f.old }) }

/-- The latch after a matrix command, which a cancelled MMA or MMAB fills as well (R144, R164). -/
def MatCmd.latchAfter (m : MatCmd) (cancelled : Bool) (g : Group) (w : Wave) : Option Latch :=
  match m.kind with
  | .mma | .mmab => if m.reuse then w.latch else some ⟨m.kind, m.ty, m.var, m.operand g w⟩
  | .mrela => if m.col = 1 && !cancelled then none else w.latch
  | _ => w.latch

/-- A matrix command executed by the engine of its wave's core (R150). A command with a status other than success has been
cancelled, and only fills the latch. -/
def Group.engine (g : Group) (wid : Nat) (m : MatCmd) (mask : Mask) (cancelled : Bool) (moved : List Nat) (sample : SMap Nat) : Group :=
  match g.wave? wid with
  | none => g
  | some w =>
    let latch := m.latchAfter cancelled g w
    let g' := if cancelled then g
      else m.run mask moved sample g w
    { g' with waves := g'.waves.map (fun w => if w.id = wid then { w with latch := latch } else w) }

end Sys2Proof.Machine
end

