-- ==== Sys2Proof/Machine/Tiles.lean ====
section
/-! DEFINITION. Named-tile instructions, OP 0xC0 to 0xC4 (R374 to R381, R386). -/

namespace Sys2Proof.Machine

open Sys2Proof

/-- A name or descriptor block: four s registers, the first even (R374). -/
def Allow.quad : Allow := .sblock 4 true

/-- The name space of the issuing context (R363). -/
def Ctx.nspace (c : Ctx) : Word :=
  match c.st.ctx? c.grp.ctx with
  | some x => x.nspace
  | none => 0

/-- The register `k` of a block of s registers. -/
def Ctx.blk (c : Ctx) (slot : Nat) (o : Operand) (k : Nat) : Word := c.wave.readS c.st.tick slot (sIndex o + k)

/-- The key of the name block A and a length (R362, R363). -/
def Ctx.key (c : Ctx) (len : Nat) : TileKey :=
  { nspace := c.nspace,
    name := BitVec.ofNat 128 ((c.blk 1 c.form.a 0).toNat + (c.blk 1 c.form.a 1).toNat * 2 ^ 32
      + (c.blk 1 c.form.a 2).toNat * 2 ^ 64 + (c.blk 1 c.form.a 3).toNat * 2 ^ 96),
    len := len }

/-- Whether a tile length is one of R363. -/
def goodLength (n : Nat) : Bool := 256 ≤ n && n ≤ 65536 && n % 256 = 0

/-- The checks of R375 on the descriptor block B; `minLife` is the least LIFE or SHELF. A field outside its limits is found before a
misaligned LOCAL (assumption 67). -/
def Ctx.checkTile (c : Ctx) (minLife : Nat) (sp write : Bool) : Option Code :=
  let r := fun k => (c.blk 2 c.form.b k).toNat
  if !goodLength (r 1) || r 2 < minLife || r 3 ≠ 0 then some codeOperand
  else if r 0 % 64 ≠ 0 then some codeAlign
  else firstCode (rangeCodes c.st c.grp sp write (r 0) (r 1))

/-- NWANT (R376). -/
def execNwant (f : Form) (s : State) : Host.Outcome State Fault Refusal :=
  let sp := bit f.var 0
  issueInstr 0xC0 f s .unused .quad .quad (some .cmdHandle) (fun _ => true) (fun c =>
    let r := fun k => (c.blk 2 f.b k).toNat
    match c.checkTile 1 sp true with
    | some k => .fault k
    | none =>
      match c.command 5 (.nwant sp (c.key (r 1)) (r 0) (r 2)) (handleReg f.c) with
      | .done t => .done (t.count c.grp.facet c.grp.ctx 8 1)
      | x => x)

/-- NHAVE (R377, R386): a divisible task announces only from its own regions, and its announcement is held back. A source that it may read
and that lies in another's region breaks a rule that names no outcome: the illegal-use fault (R6, assumption 75). -/
def execNhave (f : Form) (s : State) : Host.Outcome State Fault Refusal :=
  let sp := bit f.var 0
  issueInstr 0xC1 f s .unused .quad .quad (some .cmdHandle) (fun _ => true) (fun c =>
    let r := fun k => (c.blk 2 f.b k).toNat
    match c.checkTile 0 sp false with
    | some k => .fault k
    | none =>
      if c.divisible && !sp then .fault codeDiv
      else if c.divisible && !(rangeCodes c.st c.grp sp true (r 0) (r 1)).isEmpty then .fault codeUse
      else c.command 5 (.nhave sp (c.key (r 1)) (r 0) (r 2)) (handleReg f.c) true)

/-- NDROP (R378). -/
def execNdrop (f : Form) (s : State) : Host.Outcome State Fault Refusal :=
  issueInstr 0xC2 f s .unused .quad (.uni false) (some .cmdHandle) (fun _ => true) (fun c =>
    let n := c.uniform 2 .n32 f.b
    if goodLength n then c.command 5 (.ndrop (c.key n)) (handleReg f.c) else .fault codeOperand)

/-- NPEEK (R379). -/
def execNpeek (f : Form) (s : State) : Host.Outcome State Fault Refusal :=
  issueInstr 0xC3 f s (.reg false) .quad (.uni false) (some .cmdHandle) (fun _ => true) (fun c =>
    let n := c.uniform 2 .n32 f.b
    if goodLength n then c.command 5 (.npeek (c.key n) f.d) (handleReg f.c) else .fault codeOperand)

/-! ### NROUTE (R380) -/

/-- A route block as it stands in registers, with its router. -/
structure RouteBlock where
  route  : Route
  router : Nat
  /-- Whether the bits that must be zero are zero. -/
  clean  : Bool

/-- The route block of an NROUTE. -/
def Ctx.routeBlock (c : Ctx) : RouteBlock :=
  let r := c.blk 1 c.form.a
  { route := ⟨r 2, r 0, bits (r 1) 0 6, bits (r 1) 8 4⟩, router := bits (r 1) 16 5,
    clean := bits (r 1) 6 2 = 0 && bits (r 1) 12 4 = 0 && bits (r 1) 21 11 = 0 && r 3 = 0 }

/-- The limits of a route block that every form keeps. -/
def RouteBlock.ok (b : RouteBlock) : Bool :=
  b.clean && b.router < 18 && b.route.length ≤ 32 && b.route.prefx.toNat % 2 ^ (32 - b.route.length) = 0

/-- Whether two routes have one space, prefix and length. -/
def sameRoute (a b : Route) : Bool := a.space = b.space && a.prefx = b.prefx && a.length = b.length

/-- An NROUTE: privileged, with its checks and its change of one router's table. User code raises the privilege fault, whatever its route
block holds (R380, assumption 67). -/
def routeInstr (f : Form) (s : State) (ok : RouteBlock → Bool) (change : RouteBlock → List Route → List Route × Bool) :
    Host.Outcome State Fault Refusal :=
  issueInstr 0xC4 f s .pred .quad .unused none (fun _ => true) (fun c =>
    let b := c.routeBlock
    if !c.firmware then .fault codePriv
    else if !(b.ok && ok b) then .fault codeOperand
    else
      let (rs, r) := change b (c.st.router b.router).routes
      .done (c.write (c.st.updRouter b.router (fun x => { x with routes := rs })) f.d false (fun _ => if r then 1 else 0)))

/-- NROUTE.ADD (R380). -/
def execNrouteAdd (f : Form) (s : State) : Host.Outcome State Fault Refusal :=
  routeInstr f s (fun b => faceExists b.router b.route.face && !(b.router < 16 && b.route.face < 4))
    (fun b rs =>
      if rs.any (sameRoute b.route) then (rs.map (fun x => if sameRoute b.route x then b.route else x), true)
      else if 1024 ≤ rs.length then (rs, false)
      else (rs ++ [b.route], true))

/-- NROUTE.DEL (R380). -/
def execNrouteDel (f : Form) (s : State) : Host.Outcome State Fault Refusal :=
  routeInstr f s (fun _ => true) (fun b rs => (rs.filter (fun x => !sameRoute b.route x), rs.any (sameRoute b.route)))

/-- NROUTE.CLR (R380). -/
def execNrouteClr (f : Form) (s : State) : Host.Outcome State Fault Refusal :=
  routeInstr f s (fun b => b.route.prefx = 0 && b.route.length = 0 && b.route.face = 0)
    (fun b rs => (rs.filter (fun x => x.space ≠ b.route.space), true))

end Sys2Proof.Machine
end

