-- ==== Sys2Proof/Machine/Perform.lean ====
section
/-! DEFINITION. COMMAND_COMPLETE: the order in which commands are performed, what each does when it is, and the signals of
completion (R203, R207, R212, R226 to R229, R245, R334, R376 to R379). -/

namespace Sys2Proof.Machine

open Sys2Proof

/-! ### What a command touches -/

/-- `n` bytes from a virtual address, cut at pages. -/
def rowPieces (a n : Nat) : List (Nat × Nat) :=
  (pagesOf a n).map (fun lo => (lo, min (a + n) ((lo / 4096 + 1) * 4096) - lo))

/-- The virtual ranges of main memory that an effect reads or writes, none across a page. -/
def Effect.mainPieces : Effect → List (Nat × Nat)
  | .bulkIn d _ | .bulkOut d _ | .bulkFill d _ => d.rowList.flatMap (fun (a, _) => rowPieces a.toNat d.len)
  | .gather ty _ _ ls | .scatter ty _ ls | .atomic _ ty _ ls | .cas ty _ ls => ls.map (fun x => (x.addr.toNat, tySize ty))
  | .xsum _ ls | .xrd _ _ _ ls | .xclr ls => ls.map (fun x => (x.addr.toNat, 64))
  | _ => []

/-- Whether an effect writes main memory, and whether it reads it. -/
def Effect.writesMain : Effect → Bool
  | .bulkOut _ _ | .bulkFill _ _ | .scatter _ _ _ | .atomic _ _ _ _ | .cas _ _ _ | .xsum _ _ | .xclr _ => true
  | _ => false
def Effect.readsMain : Effect → Bool
  | .bulkIn _ _ | .gather _ _ _ _ | .atomic _ _ _ _ | .cas _ _ _ | .xsum _ _ | .xrd _ _ _ _ => true
  | _ => false

/-- The keys of what an effect touches in main memory. -/
def Cmd.mainKeys (c : Cmd) : List (Nat × Nat) :=
  c.effect.mainPieces.filterMap (fun (a, n) => (pinned c.pins a).map (fun x => (x.1, n)))

/-- The local bytes that a command's operands name, as ranges of keys. -/
def Cmd.localRanges (c : Cmd) (g : Group) : List (Nat × Nat) :=
  (c.effect.sharedRanges g.slots c.mask).map (fun (a, n) => (localKey c.die false a, n))
    ++ c.effect.spadRanges.map (fun (a, n) => (localKey c.die true a, n))

/-- The bytes that a copy-engine command writes, as ranges of keys. -/
def Cmd.writes (c : Cmd) (g : Group) : List (Nat × Nat) :=
  (if c.effect.writesMain then c.mainKeys else []) ++
  (match c.effect with
   | .bulkIn _ _ | .gather _ _ _ _ =>
     c.localRanges g
   | _ => [])

/-! ### When a command may be performed -/

/-- Whether the units work on a group's commands of a class: while it holds slots, and on the object calls of a free wave that
stands down or is benched (R213, R341, R359, R383). -/
def Group.works (g : Group) (cls : Nat) : Bool :=
  match g.stat with
  | .resident | .exited => true
  | .stoodDown | .benched => cls = 6
  | .saved => false

/-- Whether a command stands behind another of its wave. A release waits for everything older (R245), and what comes after a release
waits for what came before it (R249), where a call that waits at its port counts as performed for later calls (R334); calls of one wave
are performed in issue order (R334); and of two copy-engine writes to one byte the older is first (R183). -/
def Cmd.behind (c k : Cmd) (g : Group) (w : Wave) : Bool :=
  k.order < c.order && !k.done &&
    (((c.rel || w.cmds.any (fun r => r.rel && k.order < r.order && r.order < c.order)) && !(c.cls = 6 && k.atPort))
      || (c.cls = 6 && k.cls = 6 && k.stage ≠ .waiting)
      || (c.cls ≤ 3 && k.cls ≤ 3 && (k.writes g).any (fun (a, n) => (c.writes g).any (fun (b, m) => meets a n b m))))

/-- Whether a command is at the head of the matrix queue of its core (R150). -/
def State.atMatHead (s : State) (g : Group) (w : Wave) (c : Cmd) : Bool :=
  match matHead g.facet w.core s.matq with
  | some (.cmd _ _ gid wid seq, _) => gid = g.id && wid = w.id && seq = c.seq
  | _ => false

/-- Whether a queued command may be performed now. -/
def State.mayPerform (s : State) (g : Group) (w : Wave) (c : Cmd) : Bool :=
  c.stage = .queued && g.works c.cls && !w.cmds.any (fun k => c.behind k g w) && (c.cls ≠ 4 || s.atMatHead g w c)

/-! ### Uncorrectable data errors (R203) -/

/-- The first uncorrectable word that a command consumes: its key in main memory, or where it lies in local storage (assumption 98). A matrix
instruction consumes what it reads of its tiles: the active rows, the columns it names, and the window of an MMAB, which a cancelled one
reads too (R144, R157, R167). -/
def State.consumes (s : State) (g : Group) (w : Wave) (c : Cmd) : Option Nat :=
  let main := if c.effect.readsMain then c.effect.mainPieces.findSome? (fun (a, n) => s.badPinned g.facet c.pins a n) else none
  let fromShared := (c.effect.sharedRanges g.slots c.mask).findSome? (fun (a, n) => s.badLocal g false a n)
  let fromSpad := c.effect.spadRanges.findSome? (fun (a, n) => s.badLocal g true a n (some c.die))
  let tiles := fun (t : Nat) (rows : Mask) (lo n : Nat) => (g.badTiles.find? (fun x =>
    x / 2048 = w.core * 32 + t && rows.getLsbD (x / 32 % 64) && meets (x % 32 * 2) 2 lo n)).map (· * 8)
  match c.effect with
  | .bulkIn _ _ | .gather _ _ _ _ | .nwant _ _ _ _ | .call (.precv _ _ _ _ _ _ _) => main
  | .matrix m =>
    let window := if m.kind = .mmab && !m.reuse then
        let k := elemDepth (elemCode [] m.ty 0)
        tiles m.a (BitVec.allOnes 64) (m.var * k) k
      else none
    if c.status ≠ 0 then window
    else
      (match m.kind with
       | .mma | .mmab => fromShared.or (window.or (tiles m.d c.mask 0 64))
       | .mlda => fromShared
       | .msta => tiles m.b c.mask 0 64
       | .memit => tiles m.a c.mask m.col (emitCols m.var)
       | .maddt => (tiles m.a c.mask 0 64).or (tiles m.b c.mask 0 64)
       | .mscl => tiles m.a c.mask 0 64
       | .mzero | .mrela => none)
  | _ => main.or (fromShared.or fromSpad)

/-! ### Main memory as commands reach it -/

/-- Whether a request of a command for a key reaches its home: it does not where the peer is not reached, whatever the answer, or where the
host supports no such atomic, which the answer UNREACHABLE says (R433, R435, R453). -/
def State.reaches (s : State) (ans : Byte) (c : Cmd) (key : Nat) : Bool :=
  if 2 ^ 50 ≤ key then s.reachesPeer c (key / 2 ^ 50) else !(ans = 0x14#8 && c.cls = 3 && 2 ^ 48 ≤ key && !s.host.cxl)

/-- Whether the bytes of a request that has not reached its peer are open there: it had left on a link (R433). -/
def Cmd.openAt (c : Cmd) (ans : Byte) (key : Nat) : Bool := 2 ^ 50 ≤ key && (c.posted || ans = 0x14#8)

/-- The bytes of a single-copy-atomic unit of a copy-engine command (R239). -/
def Effect.grain : Effect → Nat
  | .gather ty _ _ _ | .scatter ty _ _ | .atomic _ ty _ _ | .cas ty _ _ => tySize ty
  | .xsum _ _ | .xrd _ _ _ _ | .xclr _ => 64
  | _ => 4

/-- Bytes of a request that did not reach its peer: each unit of `n` bytes is written or not as a free choice (R239, R433,
assumption 2). -/
def State.storeLost (s : State) (owner key n : Nat) (bytes : List Byte) : State :=
  (unitsOf key bytes.length n).foldl (fun s (a, m) =>
    if Config.freeBit s.tick 0x300 a then s.storeMain owner a ((bytes.drop (a - key)).take m) else s) s

/-- Bytes of a command written to main memory, in one page. -/
def State.sendStore (s : State) (c : Cmd) (ans : Byte) (va : Nat) (bytes : List Byte) : State :=
  match pinned c.pins va with
  | none => s
  | some (k, o, _) =>
    if s.reaches ans c k then s.storePinned c.pins va bytes c.effect.grain
    else if c.openAt ans k then s.storeLost o k c.effect.grain bytes else s

/-- A row written to main memory. -/
def State.sendRow (s : State) (c : Cmd) (ans : Byte) (a : Nat) (bytes : List Byte) : State :=
  (rowPieces a bytes.length).foldl (fun s (va, n) => s.sendStore c ans va ((bytes.drop (va - a)).take n)) s

/-- A row read from main memory into local bytes, piece by piece; a piece that is not reached leaves its bytes. -/
def State.fetchRow (s : State) (g : Group) (c : Cmd) (ans : Byte) (sp : Bool) (a loc n : Nat) : State :=
  (rowPieces a n).foldl (fun s (va, m) =>
    match pinned c.pins va with
    | none => s
    | some (k, o, mode) =>
      if s.reaches ans c k then
        s.storeLocal g.id sp (loc + (va - a)) ((List.range m).map (fun i => s.readVia g.facet mode o (k + i) c.effect.grain)) (some c.die)
      else s) s

/-- The sectors of virtual addresses that effects touch, each once (R181). -/
def sectorsOf (es : List Effect) : List Nat :=
  let secs := (es.flatMap Effect.mainPieces).flatMap (fun (a, n) => (List.range ((a + n - 1) / 64 - a / 64 + 1)).map (· + a / 64))
  if secs.length ≤ 64 then distinct secs else squeeze secs

/-- An indivisible operation of one lane on `n` bytes at their home agent: copies in L2 are given up first (R186, R196). `new` is none
where nothing is written. The old value is kept by lane; a lane that is not reached reads none, and what a lost request leaves at the peer
is the old value or the new one (R433, assumption 2). -/
def State.atHome (s : State) (c : Cmd) (ans : Byte) (n : Nat) (x : LaneArg) (new : Nat → Option Nat) : State × Option Nat :=
  match pinned c.pins x.addr.toNat with
  | none => (s, none)
  | some (k, o, _) =>
    if !s.reaches ans c k then
      (match new (s.readNum o k n) with
       | some y => if c.openAt ans k then s.storeLost o k n (toBytes n y) else s
       | none => s, none)
    else
      let old := s.readNum o k n
      let s := (s.backInvalidate k n).recallRange k n
      match new old with
      | some y => (s.storeMain o k (toBytes n y), some old)
      | none => (s, some old)

/-- The lanes of a command one after another at their home agents, with what each found (R228, R229). -/
def State.lanesAtHome (c : Cmd) (ans : Byte) (n : Nat) (new : LaneArg → Nat → Option Nat) : State → List LaneArg → State × SMap Nat
  | s, [] => (s, [])
  | s, x :: xs =>
    let (t, r) := s.atHome c ans n x (new x)
    let (u, rs) := State.lanesAtHome c ans n new t xs
    (u, match r with
      | some old => (x.lane, old) :: rs
      | none => rs)

/-- The lanes that a list of results names. -/
def lanesIn (rs : SMap Nat) : Mask := maskWhere (fun l => rs.any (fun x => x.1 = l))

/-! ### The effects of copy-engine commands (R226 to R229) -/

/-- The effect of a copy-engine command, its status apart. -/
def State.copyEffect (s : State) (g : Group) (w : Wave) (c : Cmd) (ans : Byte) : State :=
  let give := fun (s : State) (ty : Ty) (d : Operand) (rs : SMap Nat) =>
    s.deliverTo g.id w.id d (wideTy ty) (lanesIn rs) (fun l => extend ty (look 0 rs l))
  match c.effect with
  | .bulkIn d sp => d.rowList.foldl (fun s (a, l) => s.fetchRow g c ans sp a.toNat l.toNat d.len) s
  | .bulkOut d sp => d.rowList.foldl (fun s (a, l) => s.sendRow c ans a.toNat (s.readLocal g.id sp l.toNat d.len (some c.die))) s
  | .bulkFill d x => d.rowList.foldl (fun s (a, _) => s.sendRow c ans a.toNat (patternBytes x d.len)) s
  | .gather ty 0 d ls =>
    let rs := ls.filterMap (fun x => match pinned c.pins x.addr.toNat with
      | some (k, o, mode) =>
        if s.reaches ans c k then
          some (x.lane, ofBytes ((List.range (tySize ty)).map (fun i => s.readVia g.facet mode o (k + i) (tySize ty))))
        else none
      | none => none)
    give s ty d rs
  | .gather ty dest _ ls => ls.foldl (fun s x => s.fetchRow g c ans (dest = 2) x.addr.toNat x.loc (tySize ty)) s
  | .scatter ty src ls => (scatterBytes s g.id ty src ls (some c.die)).foldl (fun s (a, bs) => s.sendStore c ans a.toNat bs) s
  | .atomic op ty d ls =>
    let (t, rs) := State.lanesAtHome c ans (tySize ty) (fun x old => some (atomOp op ty old x.val.toNat)) s ls
    if d = .none then t else give t ty d rs
  | .cas ty d ls =>
    let (t, rs) := State.lanesAtHome c ans (tySize ty)
      (fun x old => if old = x.loc then some x.val.toNat else none) s ls
    let hits := ls.filter (fun x => rs.any (fun r => r.1 = x.lane && r.2 = x.loc))
    give (t.count g.facet g.ctx 3 (hits.length * tySize ty)) ty d rs
  | .xsum ty ls =>
    (State.lanesAtHome c ans 64 (fun x old => some (cellAdd old (dec (fmtOf ty) x.val.toNat))) s ls).1
  | .xrd ty mode d ls =>
    let (t, rs) := State.lanesAtHome c ans 64 (fun _ _ => none) s ls
    give t ty d (rs.map (fun (l, x) => (l, cellRead x (fmtOf ty) mode)))
  | .xclr ls => (State.lanesAtHome c ans 64 (fun _ _ => some 0) s ls).1
  | _ => s

/-- The bytes of main memory that an effect reads or writes counted (R398). An MCAS counts what it writes as it writes it. -/
def State.countMain (s : State) (g : Group) (e : Effect) (keys : List (Nat × Nat)) : State :=
  let n := keys.foldl (fun acc x => acc + x.2) 0
  let s := if e.readsMain then s.count g.facet g.ctx 2 n else s
  match e with
  | .cas _ _ _ => s
  | e => if e.writesMain then s.count g.facet g.ctx 3 n else s

/-- Whether an effect goes through the coalescer and the L2, as all but the operations at a home agent do (R181, R186). -/
def Effect.cached : Effect → Bool
  | .bulkIn _ _ | .bulkOut _ _ | .bulkFill _ _ | .gather _ _ _ _ | .scatter _ _ _ => true
  | _ => false

/-- The requests for some pieces of a command: one for each sector that no earlier piece has asked for. They go through the L2, or, of an
operation at a home agent, arrive there (R181, R197). -/
def State.requests (s : State) (facet ctx : Nat) (c : Cmd) (ans : Byte) (es : List Effect) : State :=
  let before := sectorsOf ((c.effect.pieces.take c.sent).drop (c.sent - 64))
  ((sectorsOf es).filter (fun sec => !before.contains sec)).foldl (fun s sec =>
    match pinned c.pins (sec * 64) with
    | some (k, _, mode) =>
      if !s.reaches ans c k then s
      else if c.effect.cached then s.touchPinned facet ctx c.pins (sec * 64) c.effect.writesMain
      else s.countMig facet mode (pageOf c.pins (sec * 64)) k
    | none => s) s

/-- Without the errors of the units that ranges of keys, written by a command of a group, have replaced together (R203): sectors of HBM,
and words of the L2s, of the scratchpad and of shared memory. -/
def State.mendRanges (s : State) (gid : Nat) (rs : List (Nat × Nat)) : State :=
  let t := { s with
    bad := s.bad.filter (fun x => !rangesHold rs (x * 64) 64)
    l2 := s.l2.map (fun (l : L2Line) => { l with bad := l.bad.filter (fun i => !rangesHold rs (l.sector * 64 + i * 8) 8) })
    badSpad := s.badSpad.filter (fun x => !rangesHold rs (2 ^ 61 + x * 8) 8) }
  t.updGroup gid (fun x => { x with badShared := x.badShared.filter (fun i => !rangesHold rs (2 ^ 62 + i * 8) 8) })

/-- Without the errors of the units that some pieces of a command, and those before them, have replaced together (R203). -/
def State.mend (s : State) (g : Group) (c : Cmd) (ans : Byte) (es : List Effect) : State :=
  if s.bad.isEmpty && s.badSpad.isEmpty && (s.group? g.id).all (fun g => g.badShared.isEmpty) && s.l2.all (fun l => l.bad.isEmpty) then s
  else s.mendRanges g.id (((c.effect.pieces.take c.sent ++ es).flatMap (fun e => ({ c with effect := e } : Cmd).writes g)).filter (fun x => s.reaches ans c x.1))

/-- What is left of a command performed, or some of it: `es` are the pieces, and `ks` what is not moved of them. -/
def State.copyPieces (s : State) (g : Group) (w : Wave) (c : Cmd) (ans : Byte) (es : List Effect) (ks : List Cmd) : State :=
  let keys := (es.flatMap (fun e => ({ c with effect := e } : Cmd).mainKeys)).filter (fun x => s.reaches ans c x.1)
  let s := ((ks.foldl (fun s k => s.copyEffect g w k ans) s).writtenBy s (g.id, w.id, c.cls, c.seq)).countMain g c.effect keys
  (s.mend g c ans es).requests g.facet g.ctx c ans es

/-- The pieces of a command that are not performed. -/
def Cmd.rest (c : Cmd) : List Effect := if c.sent = 0 then [c.effect] else c.effect.pieces.drop c.sent

/-- A copy-engine command performed (R207): its effect, its bytes counted (R398), and UNREACHABLE where a part of it reached no
home, or a request of it was lost, whether its bytes are performed or not (R433). -/
def State.performCopy (s : State) (g : Group) (w : Wave) (c : Cmd) (ans : Byte) : State :=
  let st : Byte := if c.lost || (c.left.flatMap Cmd.mainKeys).any (fun x => !s.reaches ans c x.1) then 0x14#8 else 0
  (s.copyPieces g w c ans c.rest c.left).perform g.id w.id c.cls c.seq st

/-- The next piece of a command performed. With one that does not reach its home the command ends: what is left of it is performed where
it reaches, and it completes with UNREACHABLE (R433). -/
def State.performPiece (s : State) (g : Group) (w : Wave) (c : Cmd) (e : Effect) : State :=
  let ks := (c.unmoved e).map (fun x => { c with effect := x })
  let lost := (({ c with effect := e } : Cmd).mainKeys).any (fun x => !s.reaches 0 c x.1)
  match (if lost then c.left else ks).findSome? (s.consumes g w) with
  | some a => s.uncorrectable g.id w.id c.pc a
  | none =>
    if lost then s.performCopy g w c 0
    else (s.copyPieces g w c 0 [e] ks).updCmd g.id w.id c.cls c.seq (fun c => { c with sent := c.sent + 1, moved := [] })

/-- Whether the piece of a begun command that comes next is part of what has left: of the chunk in progress, or of a line request that
holds a lane performed already or comes before one that does (R181, R182, R213). -/
def Cmd.mustFinish (c : Cmd) : Bool :=
  let (done, rest) := (c.effect.pieces.take c.sent, c.effect.pieces.drop c.sent)
  !c.moved.isEmpty || done.isEmpty || (match c.effect with
    | .bulkIn _ _ | .bulkOut _ _ | .bulkFill _ _ => rest.head?.map Effect.unit = done.getLast?.map Effect.unit
    | _ => rest.any (fun e => done.any (fun x => x.unit = e.unit)))

/-- The boundary at which a save or the end of a launch stops a command that its unit has begun (R182, R213). The first number bounds
the pieces. -/
def State.finishUnit : Nat → State → Nat → Nat → Nat → Nat → State
  | 0, s, _, _, _, _ => s
  | n + 1, s, gid, wid, cls, seq =>
    match (s.group? gid).bind (fun g => (g.wave? wid).bind (fun w => (w.cmd? cls seq).map (fun c => (g, w, c)))) with
    | none => s
    | some (g, w, c) =>
      if !c.begun || c.done || c.status ≠ 0 || 3 < cls then s
      else
        match c.effect.pieces.drop c.sent with
        | [] => s.perform gid wid cls seq (if c.lost then 0x14#8 else 0)
        | e :: _ =>
          if c.mustFinish then
            let t := s.performPiece g w c e
            if ((t.group? gid).bind (fun g => g.wave? wid)).any (fun w => (w.cmd? cls seq).any (fun k => c.sent < k.sent)) then
              State.finishUnit n t gid wid cls seq
            else t
          else s

/-- Every copy-engine command of a group brought to its boundary. -/
def State.finishUnits (s : State) (gid : Nat) : State :=
  match s.group? gid with
  | none => s
  | some g => g.waves.foldl (fun s w => w.cmds.foldl (fun s c =>
      State.finishUnit (c.effect.pieces.length + 1) s gid w.id c.cls c.seq) s) s

/-! ### The effects of the other classes -/

/-- Some of the local bytes that a command reads, read now: which are is free (R212, assumption 2). -/
def State.sampleLocal (s : State) (g : Group) (w : Wave) (c : Cmd) : State :=
  let read := fun (key : Nat) => if key < 2 ^ 62 then s.spad.read (key - 2 ^ 61) else g.shared.read (key - 2 ^ 62)
  let keys := (c.localRanges g).flatMap (fun (a, m) => ((List.range m).filter (fun i =>
    Config.freeBit s.tick 0x320 (a + i))).map (· + a))
  s.updCmd g.id w.id c.cls c.seq (fun c => { c with
    sample := keys.foldl (fun m k => if look 0 m k = 0 then put 0 m k ((read k).toNat + 1) else m) c.sample })

/-- A matrix command at the head of its queue executed, and what stands behind it brought forward (R150, R420). -/
def State.performMatrix (s : State) (g : Group) (w : Wave) (c : Cmd) (m : MatCmd) : State :=
  let s := { s with matq := match matHead g.facet w.core s.matq with
    | some (_, rest) => rest
    | none => s.matq }
  let renewed := fun (k : Nat) => c.status = 0 && m.renews w.core c.mask k
  let s := (s.updGroup g.id (fun g =>
    ((g.blurred s.tick w.id).engine w.id m c.mask (c.status ≠ 0) c.moved c.sample).cleared g renewed)).endClock g.facet
  let s := s.count g.facet g.ctx 1 1
  (s.perform g.id w.id 4 c.seq c.status).drain g.facet w.core

/-- A matrix command that the engine has started and works on: it reads some of the shared elements that it reads, or stores some that
it stores; which are is free (R154, assumption 2). -/
def State.progressMatrix (s : State) (g : Group) (w : Wave) (c : Cmd) (m : MatCmd) : State :=
  match m.kind with
  | .msta =>
    let now := (List.range 4096).filter (fun i =>
      c.mask.getLsbD (i / 64) && !c.moved.contains i && Config.freeBit s.tick 0x322 i)
    (s.updGroup g.id (fun g =>
      (m.storeOut (g.blurred s.tick w.id) w.core c.mask c.moved (fun i => now.contains i)).cleared g (fun _ => false))).updCmd g.id w.id 4 c.seq (fun c => { c with
      moved := c.moved ++ now })
  | _ =>
    let now := (m.sources g c.mask).filter (fun i => Config.freeBit s.tick 0x328 i && look 0 c.sample i = 0)
    s.updCmd g.id w.id 4 c.seq (fun c => { c with sample := now.foldl (fun t i => put 0 t i (m.source g i + 1)) c.sample })

/-- A named-tile command applied by the router of its die (R376 to R379). An NHAVE that comes after a withdrawal or an expiry of the
router's cycle is applied in a later one, and so is an NDROP that comes after an expiry of it (R369). -/
def State.performName (s : State) (g : Group) (w : Wave) (c : Cmd) : State :=
  let r := g.die
  match c.effect with
  | .nwant sp key loc life =>
    let s := s.updCmd g.id w.id 5 c.seq (fun c => { c with stage := .waiting })
    s.record r key ⟨.localCmd g.id w.id c.seq, if sp then spadKey c.die loc else loc, sp, (s.router r).ref + BitVec.ofNat 64 life⟩
  | .nhave sp key loc shelf =>
    if (s.router r).closed then s
    else (s.perform g.id w.id 5 c.seq 0).tileAt r key (s.readLocal g.id sp loc key.len (some c.die)) shelf true
  | .ndrop key =>
    if (s.router r).expired then s
    else
    let mine := fun (x : IntRec) => match x.who with
      | .localCmd gid wid _ => gid = g.id && wid = w.id
      | .face _ => false
    let gone := ((s.router r).entries.filter (fun e => e.key = key)).flatMap (fun e => e.recs.filter mine)
    let s := s.updRouter r (fun rt => { rt with
      closed := rt.closed || !gone.isEmpty
      entries := (rt.entries.map (fun e =>
        if e.key = key then { e with recs := e.recs.filter (fun x => !mine x) } else e)).filter (fun e => !e.recs.isEmpty) })
    let s := gone.foldl (fun s x => match x.who with
      | .localCmd gid wid seq => s.cancelCmd gid wid 5 seq
      | .face _ => s) s
    s.perform g.id w.id 5 c.seq 0
  | .npeek key d =>
    let v := match (s.router r).shelf.find? (fun x => x.key = key) with
      | none => 0
      | some x => if x.home then 2 else 1
    (s.deliverTo g.id w.id d false c.mask (fun _ => v)).perform g.id w.id 5 c.seq 0
  | _ => s

/-- A command performed. One that has failed already has no effect, and one that consumes an uncorrectable word ends its launch
(R203, R209). -/
def State.performCmd (s : State) (g : Group) (w : Wave) (c : Cmd) (ans : Byte) : State :=
  match c.effect with
  | .matrix m =>
    (match s.consumes g w c with
     | some a => s.uncorrectable g.id w.id c.pc a
     | none => s.performMatrix g w c m)
  | e =>
    if c.status ≠ 0 then s.perform g.id w.id c.cls c.seq c.status
    else
      match c.left.findSome? (s.consumes g w) with
      | some a => s.uncorrectable g.id w.id c.pc a
      | none =>
        match e with
        | .call k =>
          let t := s.doCall g w c ans k
          if ((t.group? g.id).bind (fun g => g.wave? w.id)).any (fun w => (w.cmd? 6 c.seq).any (fun k => k.stage = .queued)) then t
          else t.count g.facet g.ctx 10 1
        | _ => if c.cls = 5 then s.performName g w c else s.performCopy g w c ans

/-- A command that its unit works on and does not finish: it is begun; then some of the words of the chunk in hand are moved, or the
next piece is performed, but for the last, as a free choice (R182, R183, R213, R235, assumption 2). A matrix instruction and a send read
some of their sources (R154, R212); an announcement takes its bytes at one moment (R255). -/
def State.progress (s : State) (g : Group) (w : Wave) (c : Cmd) : State :=
  match c.effect with
  | .call (.psend x _ _ _ _ _ _ held) =>
    if objType x = 5 then (match c.effect with
      | .call k => s.doCall g w c 0x01#8 k
      | _ => s)
    else if held.isNone then s.sampleLocal g w c else s
  | e =>
    if 4 < c.cls then s
    else if !c.begun then s.updCmd g.id w.id c.cls c.seq (fun c => { c with begun := true })
    else if c.status ≠ 0 then s
    else
      match e with
      | .matrix m => s.progressMatrix g w c m
      | e =>
        match e.pieces.drop c.sent with
        | [] => s
        | p :: rest =>
          if (!rest.isEmpty && Config.freeBit s.tick 0x321 c.sent) || (({ c with effect := p } : Cmd).mainKeys).any (fun x => !s.reaches 0 c x.1) then
            s.performPiece g w c p
          else
            let now := (p.words.mapIdx (fun i x => (i, x))).filter (fun x =>
              !c.moved.contains x.1 && Config.freeBit s.tick 0x322 x.1)
            let ks := if p.words.length ≤ 1 then [] else now.map (fun x => { c with effect := x.2 })
            match ks.findSome? (s.consumes g w) with
            | some a => s.uncorrectable g.id w.id c.pc a
            | none => ((ks.foldl (fun s k => s.copyEffect g w k 0) s).writtenBy s (g.id, w.id, c.cls, c.seq)).updCmd g.id w.id c.cls c.seq (fun c => { c with
                moved := if ks.isEmpty then c.moved else c.moved ++ now.map Prod.fst })

/-- Some more of the bytes of a landing command land; which do is free (R212, R255, assumption 2). -/
def State.progressLanding (s : State) (g : Group) (w : Wave) (c : Cmd) : State :=
  let (later, now) := c.late.partition (fun x => 2 ^ 63 ≤ x.1 || s.landsLater g x.1)
  (s.landBytes g.id now).updCmd g.id w.id c.cls c.seq (fun c => { c with late := later })

/-! ### Requests to other packages (R430, R431) -/

/-- The packages that a command sends requests to. -/
def State.peersOf (s : State) (c : Cmd) : List Nat :=
  if c.status ≠ 0 then []
  else
    match c.effect with
    | .call (.psend x _ _ _ _ _ _ _) =>
      (match s.obj? x with
       | some ⟨_, _, _, .proxy p _⟩ => [p]
       | _ => [])
    | .call (.olook _ name) => if s.localName name.toNat then [] else [name.toNat / 2 ^ 54]
    | .call _ => []
    | _ => distinct ((c.mainKeys.filter (fun x => 2 ^ 50 ≤ x.1)).map (fun x => x.1 / 2 ^ 50))

/-- The packages that a command's requests go to, of those that a route leads to, each with its link port. -/
def State.viaOf (s : State) (c : Cmd) : List (Nat × Nat) := (s.peersOf c).filterMap (fun p => (s.routeTo p).map (fun q => (p, q)))

/-- The link ports that a command's requests leave on: one for each package that a route leads to. -/
def State.portsOf (s : State) (c : Cmd) : List Nat := (s.viaOf c).map Prod.snd

/-- A command's requests given to their link ports, each a data flit that names the command (R430); they wait while a port is down or
is trained (R431). -/
def State.postRequests (s : State) (g : Group) (w : Wave) (c : Cmd) : State :=
  let via := s.viaOf c
  if via.any (fun x => (s.port x.2).state ≠ 2) then s
  else (via.foldl (fun s x => s.sendFlit x.2 (if c.cls = 6 then 3 else 0) (some (g.id, w.id, c.cls, c.seq)) x.1) s).updCmd g.id w.id c.cls c.seq
    (fun c => { c with posted := true, via := via, begun := c.begun || c.cls ≤ 3 })

/-- Whether the requests of a command have left and their answers can come: each link that they took is up, or, where its port has retired
since, the link that leads there now, and no flit of the command waits behind the 256 of the replay buffer (R430, R431). -/
def State.answered (s : State) (g : Group) (w : Wave) (c : Cmd) : Bool :=
  c.via.all (fun x =>
    match if (s.port x.2).state = 3 then s.routeTo x.1 else some x.2 with
    | none => true
    | some p => (s.port p).state = 2 && !((s.port p).replay.drop 256).any (fun y => y.tag = some (g.id, w.id, c.cls, c.seq)))

/-- Whether a copy-engine request of a group is on a link that is down or has no room: it has left, and is not performed yet (R213, R424,
R430, R431). -/
def State.copyOut (s : State) (g : Group) : Bool :=
  g.waves.any (fun w => w.cmds.any (fun c => c.posted && !c.done && c.cls ≤ 3 && c.mustFinish && !s.answered g w c))

/-! ### COMMAND_COMPLETE -/

/-- The facet whose object engine performs a call of a wave on a facet. -/
def Call.home (facet : Nat) : Call → Nat
  | .wspawn _ f _ => f
  | .wkill x _ | .psend x _ _ _ _ _ _ _ | .precv x _ _ _ _ _ _ | .sadd x _ _ | .sdel x _ | .tarm x _ _ | .tdis x | .obind x _ _ | .ofree x
  | .oinfo x _ _ => objFacet x
  | .pnew _ _ | .snew _ | .tnew _ | .olook _ _ | .ounb _ => facet

/-- The objects that a call acts on. -/
def Call.objects : Call → List Word
  | .wkill x _ | .psend x _ _ _ _ _ _ _ | .precv x _ _ _ _ _ _ | .tarm x _ _ | .tdis x | .obind x _ _ | .ofree x | .oinfo x _ _ => [x]
  | .sadd x y _ | .sdel x y => [x, y]
  | .wspawn _ _ _ | .pnew _ _ | .snew _ | .tnew _ | .olook _ _ | .ounb _ => []

/-- Whether the engine that performs a command has done with the calls of the current cycle (R335), or performs a send on its object
(R334), or the command takes an escalation while the firmware cores change images (R443). -/
def State.engineClosed (s : State) (g : Group) (c : Cmd) : Bool :=
  match c.effect with
  | .call k => (s.facet (k.home g.facet)).closed || (!c.sending && k.objects.any s.objBusy)
      || (s.host.fwNext.isSome && k.objects.any (fun x => isEsc (objFacet x) (objIdx x)))
  | _ => false

/-- COMMAND_COMPLETE (R207): a command of a wave is performed, if nothing holds it back, and the completions of its class are signalled in
order. A call whose engine has done with its cycle waits for the next (R335). A command that needs another package first gives its
requests to the links, and is answered over links that are up (R430, R431). A call that waits at its port is tried again (R345, R347,
R355). `ans` is what another package or the host answers;
PENDING stands for a command that is worked on and not finished (assumption 60). -/
def execCommandComplete (gid wid cls seq : Nat) (ans : Byte) (s : State) : Host.Outcome State Fault Refusal :=
  match (s.group? gid).bind (fun g => (g.wave? wid).bind (fun w => (w.cmd? cls seq).map (fun c => (g, w, c)))) with
  | none => .next s
  | some (g, w, c) =>
    if !g.works cls || (!c.done && s.engineClosed g c) || (c.posted && !c.done && !s.answered g w c) then .next s
    else
      let t :=
        if s.mayPerform g w c then
          (if !c.posted && !(s.portsOf c).isEmpty then s.postRequests g w c
           else if ans = 0x01#8 then s.progress g w c
           else s.performCmd g w c ans)
        else if c.stage = .landing then (if ans = 0x01#8 then s.progressLanding g w c else s.land g.id w.id cls seq)
        else if c.stage = .waiting then
          (match c.effect with
           | .call (.psend x sp nw loc len label pages held) =>
             if objType x = 5 then (if ans = 0x01#8 then s else s.doCall g w c ans (.psend x sp nw loc len label pages held))
             else if held.isSome && (s.obj? x).isNone then s.doCall g w c ans (.psend x sp nw loc len label pages held)
             else s.admitSender (objFacet x) (objIdx x)
           | .call (.precv x _ _ _ _ _ _) => State.serve 257 s (objFacet x) (objIdx x)
           | _ => s)
        else s
      .next (t.signal g wid cls)

end Sys2Proof.Machine
end

