-- ==== Sys2Proof/Machine/Traps.lean ====
section
/-! DEFINITION. Traps and returns, system registers, counters, and the privileged instructions TLBINV and KEYSEL, OP 0xD0 to 0xD8
(R237, R395, R401, R402, R415 to R423). -/

namespace Sys2Proof.Machine

open Sys2Proof

/-! ### Traps and yield points -/

/-- TRAP (R418). -/
def execTrap (f : Form) (s : State) : Host.Outcome State Fault Refusal :=
  issueInstr 0xD0 f s .unused .unused .unused none (fun _ => true) (fun c =>
    .moved ((c.goOn c.st).trapEntry c.grp.id c.wave.id c.path
      { lanes := c.act, code := codeTrap, pc := c.path.pc, rpc := c.path.pc + 12, info := BitVec.ofNat 64 (bits f.imm 0 16) }))

/-- An RTT: its path waits until every lane of the frame stands at one; in the main frontier it is illegal (R419). -/
def returnInstr (form : Nat) (f : Form) (s : State) : Host.Outcome State Fault Refusal :=
  settling s (issueInstr 0xD1 f s .unused .unused .unused none (fun _ => true) (fun c =>
    if c.path.fr = 0 then .fault codeInstr
    else .moved (c.updWave c.st (fun w => w.setWait c.path.id (.rtt form)))))

/-- RTT (R419). -/
def execRtt (f : Form) (s : State) : Host.Outcome State Fault Refusal := returnInstr 0 f s
/-- RTT.RPL (R419). -/
def execRttRpl (f : Form) (s : State) : Host.Outcome State Fault Refusal := returnInstr 1 f s
/-- RTT.ESC (R419). -/
def execRttEsc (f : Form) (s : State) : Host.Outcome State Fault Refusal := returnInstr 2 f s

/-- MPOINT (R420): the release enters the matrix queue of every core that holds waves of the group, at once on the other cores too
(assumption 95). -/
def execMpoint (f : Form) (s : State) : Host.Outcome State Fault Refusal :=
  issueInstr 0xD2 f s .unused (.uni false) .unused none (fun _ => true) (fun c =>
    let keep := c.uniform 1 .n32 f.a
    if 2 ^ c.grp.cur.t ≤ keep then .fault codeOperand
    else
      let others := (c.grp.waves.map Wave.id).filter (· ≠ c.wave.id)
      let t := if others.isEmpty then c.st else c.updGroup c.st (fun g => { g with points := (c.st.tick, others) :: g.points })
      let t := (distinct c.grp.cores).foldl (fun (s : State) core =>
        let after := if core = c.wave.core then s.laterEntry c.grp c.wave else fun _ => false
        { s with matq := insertMat after (.mpoint c.grp.facet core c.grp.id (word keep) c.st.tick) s.matq }.drain c.grp.facet core) t
      .done (if c.mayStop then c.parks t .stopped else t))

/-! ### Escalation answers and pre-emption requests -/

/-- A write of RESUME: the answer is applied now, or at restore where the group holds no slot. A token whose frame no longer waits
makes it do nothing (R415, R426). -/
def State.answer (s : State) (token : Nat) (retry : Bool) : State :=
  match s.waitingFrame token with
  | none => s
  | some (gid, _, _) =>
    if s.mayAnswer token retry then s.applyAnswer token retry
    else s.updGroup gid (fun g => { g with answers := g.answers ++ [(token, retry)] })

/-- A pre-emption request for one group, `n` reference cycles from now; of two deadlines the earlier governs (R423). -/
def State.postOne (s : State) (gid n : Nat) : State :=
  s.updGroup gid (fun g =>
    let d := (s.facet g.facet).ref + BitVec.ofNat 64 n
    if g.stat ≠ .resident then g
    else
      match g.preempt with
      | none => { g with preempt := some ⟨d, false⟩ }
      | some p => { g with preempt := some { p with deadline := if d.toNat < p.deadline.toNat then d else p.deadline } })

/-- A pre-emption request: for a group of a concurrent launch, it is one for every group of the launch (R281, R423). -/
def State.postPreempt (s : State) (gid n : Nat) : State :=
  match s.group? gid with
  | none => s
  | some g =>
    match g.launch.bind s.launch? with
    | some l =>
      if l.recd.pclass = 0 then
        (s.groups.filter (fun x => x.launch = some l.id)).foldl (fun s x => s.postOne x.id n) s
      else s.postOne gid n
    | none => s.postOne gid n

/-- The bits of a PREEMPT value that must be zero (R423). -/
def preemptClean (v : Nat) : Bool := v / 2 ^ 30 % 4 = 0 && v / 2 ^ 19 % 32 = 0 && v / 2 ^ 6 % 2 ^ 10 = 0

/-- A write of PREEMPT: a slot that holds no wave makes it do nothing (R423). -/
def State.writePreempt (s : State) (v : Nat) : State :=
  let facet := v / 2 ^ 24 % 64
  match (s.onFacet facet).find? (fun g => g.stat = .resident && g.waves.any (fun w => w.core = v / 2 ^ 16 % 8 && w.slot = v % 64 && w.holdsSlot)) with
  | some g => s.postPreempt g.id (v / 2 ^ 32)
  | none => s

/-! ### System registers -/

/-- SYSR (R421). An index that R39 does not let the code read faults whatever the guard, however it is given (R61). -/
def execSysr (f : Form) (s : State) : Host.Outcome State Fault Refusal :=
  let width := tyWidth f.ty
  let index := fun (c : Ctx) => match f.a with
    | .sys i => i.toNat
    | o => c.uniform 1 .n32 o
  issueInstr 0xD3 f s (.reg (wideTy f.ty)) { s := true, g := true, imm := true, long := true, sys := 2 } .unused none
    (fun c => index c < 512 && sysReadable c.firmware (index c) width)
    (fun c => .done (c.write c.st f.d (wideTy f.ty) (fun l => c.sysValue (index c) l % 2 ^ width)))

/-- Whether SYSW may write a register at a width: TRAP_VEC; in a sub-wave, TRAP_RPC and TRAP_PRIO; from privileged code, RESUME and
PREEMPT (R416, R421). -/
def sysWritable (firmware sub : Bool) (i width : Nat) : Bool :=
  match i with
  | 0x030 => width = 64
  | 0x034 => sub && width = 64
  | 0x037 => sub && width = 32
  | 0x100 | 0x101 => firmware && width = 64
  | _ => false

/-- The frame of the issuing sub-wave changed. -/
def Ctx.updFrame (c : Ctx) (s : State) (u : Frame → Frame) : State :=
  c.updWave s (fun w => { w with frames := w.frames.map (fun x => if x.id = c.path.fr then u x else x) })

/-- SYSW (R415, R416, R421, R423). What it may write is checked only where a lane is active (R61). An action of 2 or 3 faults also where
TOKEN names no frame any more (R415, assumption 112). A value of PREEMPT with a bit that must
be zero is a detected breach of a rule that names no outcome: the illegal-use fault (R6). -/
def execSysw (f : Form) (s : State) : Host.Outcome State Fault Refusal :=
  issueInstr 0xD4 f s { sys := 3 } (.uni (wideTy f.ty)) .unused none
    (fun _ => true)
    (fun c =>
      let v := c.uniform 1 f.ty f.a
      let x := BitVec.ofNat 64 v
      match f.d with
      | .sys i =>
        if !sysWritable c.firmware (c.path.fr ≠ 0) i.toNat (tyWidth f.ty) then .fault codeOperand
        else match i.toNat with
        | 0x030 => if goodTarget v then .done (c.updWave c.st (fun w => { w with trapVec := x })) else .fault codeOperand
        | 0x034 => if goodTarget v then .done (c.updFrame c.st (fun y => { y with rpc := x })) else .fault codeOperand
        | 0x037 => if v < 4096 then .done (c.updFrame c.st (fun y => { y with prio := BitVec.ofNat 12 v })) else .fault codeOperand
        | 0x100 =>
          match v % 4 with
          | 0 => .done (c.st.answer (v / 4) true)
          | 1 => .done (c.st.answer (v / 4) false)
          | _ => .fault codeOperand
        | 0x101 => if preemptClean v then .done (c.st.writePreempt v) else .fault codeUse
        | _ => .fault codeOperand
      | _ => .fault codeOperand)

/-! ### Counters and capture units (R397 to R403, R422) -/

/-- Whether the issuing code may read or program the bank of its facet (R397). -/
def Ctx.ownsBank (c : Ctx) : Bool :=
  let o := (c.st.facet c.grp.facet).bank.owner
  o = some c.grp.ctx || (o = none && c.firmware)

/-- CNTR (R422). -/
def execCntr (f : Form) (s : State) : Host.Outcome State Fault Refusal :=
  issueInstr 0xD5 f s (.reg true) (.uni false) .unused none (fun _ => true) (fun c =>
    let i := c.uniform 1 .n32 f.a
    if 11 < i then .fault codeOperand
    else if !c.ownsBank then .fault codePriv
    else
      let x := (look 0 (c.st.facet c.grp.facet).bank.counters i).toNat
      let t := if f.var = 1#4 then
          c.st.updFacet c.grp.facet (fun y => { y with bank := { y.bank with counters := put 0 y.bank.counters i 0 } })
        else c.st
      .done (c.write t f.d true (fun _ => x)))

/-- MONCTL.CLAIM (R401). -/
def execMonctlClaim (f : Form) (s : State) : Host.Outcome State Fault Refusal :=
  issueInstr 0xD6 f s (Allow.pred.orNone) .unused .unused none (fun _ => true) (fun c =>
    let o := (c.st.facet c.grp.facet).bank.owner
    if o = none || o = some c.grp.ctx then
      .done (c.write (c.st.updFacet c.grp.facet (fun y => { y with bank := { Bank.clear with owner := some c.grp.ctx } })) f.d
        false (fun _ => 1))
    else .done (c.write c.st f.d false (fun _ => 0)))

/-- MONCTL.FREE (R401): by a non-owner, the privilege fault. -/
def execMonctlFree (f : Form) (s : State) : Host.Outcome State Fault Refusal :=
  issueInstr 0xD6 f s .unused .unused .unused none (fun _ => true) (fun c =>
    if (c.st.facet c.grp.facet).bank.owner = some c.grp.ctx then
      .done (c.st.updFacet c.grp.facet (fun y => { y with bank := Bank.clear }))
    else .fault codePriv)

/-- MONCTL.SET (R399, R401): by a non-owner, the privilege fault, where the operands are in range (assumption 67). -/
def execMonctlSet (f : Form) (s : State) : Host.Outcome State Fault Refusal :=
  issueInstr 0xD6 f s .unused (.uni false) (.uni false) none (fun _ => true) (fun c =>
    let u := c.uniform 1 .n32 f.a
    let k := c.uniform 2 .n32 f.b
    if 3 < u || 7 < k then .fault codeOperand
    else if (c.st.facet c.grp.facet).bank.owner ≠ some c.grp.ctx then .fault codePriv
    else
      .done (c.st.updFacet c.grp.facet (fun y => { y with bank := { y.bank with
        units := y.bank.units.set u { Unit4.clear with code := k } } })))

/-- A word of a capture unit (R402); none for an index that names none. -/
def Unit4.wordAt (u : Unit4) (i : Nat) : Option Word :=
  match i with
  | 0 => some (word u.min.toNat)
  | 1 => some (word (u.min.toNat / 2 ^ 32))
  | 2 => some (word u.max.toNat)
  | 3 => some (word (u.max.toNat / 2 ^ 32))
  | 4 => some (word u.count.toNat)
  | 5 => some (word (u.count.toNat / 2 ^ 32))
  | i => if 8 ≤ i && i ≤ 71 then some (look 0 u.bins (i - 8)) else none

/-- MONCTL.READ (R401, R402). An operand out of range is found before the owner is looked at (assumption 67). -/
def execMonctlRead (f : Form) (s : State) : Host.Outcome State Fault Refusal :=
  issueInstr 0xD6 f s (.reg false) (.uni false) (.uni false) none (fun _ => true) (fun c =>
    let u := c.uniform 1 .n32 f.a
    if 3 < u then .fault codeOperand
    else
      match ((c.st.facet c.grp.facet).bank.units.getD u Unit4.clear).wordAt (c.uniform 2 .n32 f.b) with
      | none => .fault codeOperand
      | some x => if c.ownsBank then .done (c.write c.st f.d false (fun _ => x.toNat)) else .fault codePriv)

/-! ### TLBINV (R199, R237) -/

/-- Whether some command that is not performed pinned a translation that a test names. -/
def State.pinsLeft (s : State) (t : Nat → Pin → Bool) : Bool :=
  s.groups.any (fun g => g.waves.any (fun w => w.cmds.any (fun k => !k.done && k.pins.any (t g.ctx))))

/-- A privileged invalidation: the TLBs lose what `entry` names, and the wave waits until every command that pinned one of those
translations is performed. From user code the privilege fault is raised whatever the operands hold (assumption 67). -/
def invalidate (f : Form) (s : State) (a b : Allow) (ok : Ctx → Bool) (entry : Ctx → Nat → Nat → Nat → Bool) :
    Host.Outcome State Fault Refusal :=
  issueInstr 0xD7 f s .unused a b none (fun _ => true) (fun c =>
    if !c.firmware then .fault codePriv
    else if !ok c then .fault codeOperand
    else
      let t := { c.st with tlb := c.st.tlb.filter (fun e => !entry c e.ctx e.vpage e.span) }
      if t.pinsLeft (fun ctx p => entry c ctx p.vpage p.span) then .wait false t else .done t)

/-- TLBINV.VA (R237). -/
def execTlbinvVa (f : Form) (s : State) : Host.Outcome State Fault Refusal :=
  invalidate f s .pair (.uni false) (fun c => c.uniform 2 .n32 f.b < 2 ^ 16)
    (fun c ctx page span => ctx = c.uniform 2 .n32 f.b && covers span page (c.uniform 1 .n64 f.a / 4096))
/-- TLBINV.CTX (R237). -/
def execTlbinvCtx (f : Form) (s : State) : Host.Outcome State Fault Refusal :=
  invalidate f s .unused (.uni false) (fun c => c.uniform 2 .n32 f.b < 2 ^ 16) (fun c ctx _ _ => ctx = c.uniform 2 .n32 f.b)
/-- TLBINV.ALL (R237). -/
def execTlbinvAll (f : Form) (s : State) : Host.Outcome State Fault Refusal :=
  invalidate f s .unused .unused (fun _ => true) (fun _ _ _ _ => true)

/-! ### KEYSEL (R394, R395) -/

/-- KEYSEL.GEN (R395). User code raises the privilege fault, whatever the operands hold (assumption 67). -/
def execKeyselGen (f : Form) (s : State) : Host.Outcome State Fault Refusal :=
  issueInstr 0xD8 f s (Allow.pred.orNone) (.uni false) (.uni false) none (fun _ => true) (fun c =>
    let k := c.uniform 1 .n32 f.a
    let x := c.uniform 2 .n32 f.b
    if !c.firmware then .fault codePriv
    else if k = 0 || 1023 < k || x = 0 || 65535 < x then .fault codeOperand
    else if c.st.keys.any (fun y => y.1 = k || y.2 = x) then .done (c.write c.st f.d false (fun _ => 0))
    else .done (c.write { c.st with keys := c.st.keys ++ [(k, x)] } f.d false (fun _ => 1)))

/-- A context's key erased: what was written under it can no longer be decrypted, and its sectors stand under a key that no context
has (R202, R395). -/
def State.eraseKey (s : State) (slot : Nat) : State :=
  let gone := (s.keys.filter (fun y => y.1 = slot)).map (fun y => y.2 + 1)
  { s with keys := s.keys.filter (fun y => y.1 ≠ slot),
           keyed := s.keyed.map (fun (sec, k) => if gone.contains k then (sec, 2 ^ 17 + s.nextId) else (sec, k)),
           nextId := s.nextId + 1 }

/-- KEYSEL.DEL (R395). User code raises the privilege fault, whatever the operand holds (assumption 67). -/
def execKeyselDel (f : Form) (s : State) : Host.Outcome State Fault Refusal :=
  issueInstr 0xD8 f s (Allow.pred.orNone) (.uni false) .unused none (fun _ => true) (fun c =>
    let k := c.uniform 1 .n32 f.a
    if !c.firmware then .fault codePriv
    else if k = 0 || 1023 < k then .fault codeOperand
    else
      match c.st.keys.find? (fun y => y.1 = k) with
      | none => .done (c.write c.st f.d false (fun _ => 0))
      | some (_, x) =>
        if c.st.pinsLeft (fun _ p => p.owner = x) then .wait false c.st
        else .done (c.write (c.st.eraseKey k) f.d false (fun _ => 1)))

end Sys2Proof.Machine
end

