-- ==== Sys2Proof/Machine/Place.lean ====
section
/-! DEFINITION. Places for groups: a group written to its save area and put back, and whose turn a place is (R36, R37, R165, R213, R254,
R280 to R283, R329, R359, R383, R424 to R426). -/

namespace Sys2Proof.Machine

open Sys2Proof

/-- Cores for a group of some waves on a facet: the first core that a test accepts and that takes them all, or the cores in turn. -/
def State.coresFor (s : State) (facet waves : Nat) (cur full : Allot) (ok : Nat → Bool := fun _ => true) : List Nat :=
  if waves ≤ 64 then
    List.replicate waves (((List.range 8).find? (fun c => ok c && s.fitsCore facet (List.replicate waves c) cur full c)).getD 0)
  else
    let cs := (List.range 8).filter (fun c => bit (s.facet facet).cores c)
    (List.range waves).map (fun i => cs.getD (i % max 1 cs.length) 0)

/-- A facet of a context's partition that a test accepts, or the first. -/
def State.facetFor (s : State) (ctx : Nat) (ok : Nat → Bool) : Nat :=
  match s.ctx? ctx with
  | some c => ((partFacets c).find? ok).getD c.pbase
  | none => 0

/-! ### A save (R213, R254, R329, R359, R383, R424) -/

/-- A command as a save leaves it: one of the copy engine that is not performed is translated again at restore, a call that waits at
its port is taken back, and requests to other packages are made again. -/
def Cmd.saved (c : Cmd) : Cmd :=
  if c.done then c
  else if c.cls ≤ 3 then { c with pins := [], posted := false, via := [] }
  else if c.atPort then { c with stage := .queued, posted := false, via := [] }
  else c

/-- A wave as a save leaves it. A sleep keeps its remainder, and an instruction that was tried again is tried again after restore. -/
def Wave.saved (w : Wave) (ref : DWord) (calls : Bool) : Wave :=
  { w with
    fresh := []
    resvS := []
    resvP := []
    parkedAt := 0
    park := match w.park with
      | .sleep d => .sleep (if d.toNat ≤ ref.toNat then 0 else d - ref)
      | .wwait x d m => .wwait x d m
      | .retry p xs => if calls then .no else .retry p xs
      | .sfree f b => .sfree f b
      | _ => .no
    cmds := w.cmds.map (fun c => if c.cls = 6 && !calls then c else c.saved) }

/-- Whether a matrix engine has started an instruction of a group, which a save lets finish (R165). -/
def Group.started (g : Group) : Bool := g.waves.any (fun w => w.cmds.any (fun c => c.cls = 4 && c.begun && !c.done))

/-- The matrix instructions of a group that the engines have started: they finish, with their handle effects (R165). -/
def State.finishStarted (s : State) (g : Group) : State :=
  g.waves.foldl (fun s w => (w.cmds.filter (fun c => c.cls = 4 && c.begun && !c.done)).foldl (fun s c =>
    match (s.group? g.id).bind (fun g => (g.wave? w.id).map (fun w => (g, w))) with
    | some (g, w) => (s.performCmd g w c 0).signal g w.id 4
    | none => s) s) s

/-- A free wave saved by a pre-emption enters its bench level (R340, R357). -/
def State.toBench (s : State) (g : Group) : State :=
  match g.free with
  | some fw => s.updFacet g.facet (fun f => { f with bench := f.bench ++ [(fw.level, g.id)] })
  | none => s

/-- A group written to its save area, its copy-engine commands at the boundaries of R182 and R213, and its deliveries whole. `calls` tells
whether its calls are taken back, as a save for pre-emption does and standing down does not (R341, R359). -/
def State.saveGroup (s : State) (gid : Nat) (stat : GStat) (calls : Bool) : State :=
  match s.group? gid with
  | none => s
  | some g =>
    let s := (s.finishUnits gid).landAll gid
    let s := if calls then s.dropWaits (fun x => x.peer.isNone && x.group = gid) else s
    let s := if stat = .saved then s.toBench g else s
    let ref := (s.facet g.facet).ref
    let mine := s.matq.filter (MatEntry.ofGroup gid)
    let t := (s.takeMatrix gid).setSpills g.facet g.spillSize (g.waves.map (fun w => (w.spillAt, [])))
    t.updGroup gid (fun g => { g with
      stat := stat
      preempt := none
      stopAt := none
      acq := []
      savedMat := mine
      clock := []
      faint := []
      since := s.edges
      waves := g.waves.map (fun (w : Wave) => { w.saved ref calls with
        badSpill := badWithin (spillKey g.facet w.spillAt) g.spillSize s.badSpad }) })

/-! ### A restore (R165, R426) -/

/-- Whether two lists of cores give waves of one core one core and waves of different cores different ones (R34). -/
def coresMatch (old new : List Nat) : Bool :=
  (old.zip new).all (fun (a, b) => (old.zip new).all (fun (c, d) => decide (a = c) = decide (b = d)))

/-- The core that an old core of a group becomes. -/
def newCore (old new : List Nat) (core : Nat) : Nat := (((old.zip new).find? (fun x => x.1 = core)).map (fun x => x.2)).getD core

/-- Keys of which `unit` stand for each core, moved to the new cores. -/
def movedKeys {α : Type} (unit : Nat) (old new : List Nat) (m : SMap α) : SMap α :=
  (List.range 8).flatMap (fun c =>
    match (old.zip new).find? (fun x => x.2 = c) with
    | none => []
    | some (o, _) => (m.filter (fun x => x.1 / unit = o)).map (fun (k, v) => (c * unit + k % unit, v)))

/-- An entry of a matrix queue on its new core. -/
def MatEntry.moved (facet : Nat) (old new : List Nat) : MatEntry → MatEntry
  | .cmd _ c g w q => .cmd facet (newCore old new c) g w q
  | .mpoint _ c g k p => .mpoint facet (newCore old new c) g k p

/-- A wave as a restore places it. One that is still parked is parked from now on (R341). -/
def Wave.seated (w : Wave) (core slot spillAt : Nat) (ref : DWord) : Wave :=
  { w with
    core := core
    slot := slot
    spillAt := spillAt
    badSpill := []
    parkedAt := if w.parked then ref else 0
    park := match w.park with
      | .sleep n => .sleep (ref + n)
      | p => p }

/-- A saved command of the copy engine translated again; a failure is its status (R209, R427), but the key fault and the uncorrectable
data error, which no status carries, are raised (R203, R394). -/
def State.repin (s : State) (gid wid : Nat) (c : Cmd) : State :=
  match s.group? gid with
  | none => s
  | some g =>
    if c.done || 3 < c.cls || c.status ≠ 0 then s
    else
      let vas := c.left.flatMap (fun k => k.effect.access.1)
      let acc := c.effect.access.2
      match s.translateAll g.facet ((g.wave? wid).elim 9 Wave.core) g.ctx acc vas [] with
      | (.ok pins, s) => s.updCmd gid wid c.cls c.seq (fun c => { c with pins := pins })
      | (.error (e, va), s) =>
        if e = 0xFE#8 then s.uncorrectable gid wid c.pc va
        else if e = 0xFD#8 then s.raiseFault gid wid codeKey c.pc
        else s.updCmd gid wid c.cls c.seq (fun c => { c with status := e, info := BitVec.ofNat 64 va })

/-- Whether a partition has a core cooler than a junction state. -/
def State.cooler (s : State) (ctx level : Nat) : Bool :=
  match s.ctx? ctx with
  | some c => (partFacets c).any (fun f => (List.range 8).any (fun k => bit (s.facet f).cores k && look 0 (s.facet f).therm k < level))
  | none => false

/-- Whether a core may take the waves of a group that moves for heat away from another: it is cooler, unless that one has cooled down
or no core of the partition is cooler (R298). -/
def State.coolEnough (s : State) (g : Group) (facet core : Nat) : Bool :=
  match g.hot with
  | none => true
  | some (f, c) =>
    let t := look 0 (s.facet f).therm c
    t = 0 || look 0 (s.facet facet).therm core < t || !s.cooler g.ctx t

/-- A group put back on cores of a facet with its saved state; none where it has no room. What it saved of the matrix queues enters
those of its new cores, and its copy-engine commands are translated again. Answers that arrived meanwhile are applied last. -/
def State.seat (s : State) (gid facet : Nat) (cores : List Nat) : Option State :=
  match s.group? gid with
  | none => none
  | some g =>
    let old := g.cores
    if !s.owns g.ctx facet || !coresMatch old cores || !g.hot.all (fun x => s.coolEnough g facet (newCore old cores x.2)) then none
    else
      match s.room facet g.waves.length cores g.cur g.full g.spillSize 0 with
      | none => none
      | some (slots, spills) =>
        let ref := (s.facet facet).ref
        let place := s.nextId
        let s := { s with nextId := place + 1 }.updGroup gid (fun g => { g with
          facet := facet
          stat := .resident
          placed := place
          since := s.edges
          gPrev := g.g
          gBy := []
          tiles := movedKeys 131072 old cores g.tiles
          inUse := g.inUse.map (fun k => newCore old cores (k / 32) * 32 + k % 32)
          badTiles := g.badTiles.map (fun k => newCore old cores (k / 65536) * 65536 + k % 65536)
          savedMat := []
          hot := none
          waves := g.waves.map (fun (w : Wave) => w.seated (cores.getD w.id 0) (slots.getD w.id 0) (spills.getD w.id 0) ref) })
        let s := s.setSpills facet g.spillSize (g.waves.map (fun w => (spills.getD w.id 0, w.badSpill)))
        let s := { s with matq := s.matq ++ g.savedMat.map (MatEntry.moved facet old cores) }
        let s := (distinct cores).foldl (fun s c => s.drain facet c) s
        let s := g.waves.foldl (fun s w => w.cmds.foldl (fun s c => s.repin gid w.id c) s) s
        some (s.takeAnswers gid)

/-! ### Order of admission (R273, R280, R281, R339, R340) -/

/-- The priority class of a bench level: 0 realtime to 3 background (R339). -/
def benchClass (level : Nat) : Nat := 3 - level / 2

/-- The head of the most urgent bench level of a facet that holds a wave (R340). -/
def State.benchHead (s : State) (facet : Nat) : Option (Nat × Group) :=
  let bench := (s.facet facet).bench
  match [7, 6, 5, 4, 3, 2, 1, 0].findSome? (fun n => bench.find? (fun x => x.1 = n)) with
  | none => none
  | some (n, gid) => (s.group? gid).map (fun g => (n, g))

/-- Whether the bench head of a facet can be placed on it. -/
def State.benchFits (s : State) (facet : Nat) (g : Group) : Bool := s.placeable facet 1 g.cur g.full g.spillSize 0

/-- Whether a launch has a group to place: it is accepted, no facet has its cancel bit set, and its task list is not empty. -/
def Launch.pending (l : Launch) : Bool := l.stat = .accepted && l.bits = 0 && !l.tasks.isEmpty

/-- Whether a concurrent launch awaits admission. -/
def Launch.waits (l : Launch) : Bool := l.stat = .presented && l.recd.pclass = 0 && l.bits = 0

/-- Whether one launch stands before another in admission: it is more urgent, or as urgent and earlier. -/
def State.before (s : State) (a b : Launch) : Bool :=
  let at_ := fun (l : Launch) => s.launches.findIdx (fun x => x.id = l.id)
  a.level < b.level || (a.level = b.level && at_ a < at_ b)

/-- The launches of a context's partition. -/
def State.partLaunches (s : State) (ctx : Nat) : List Launch := s.launches.filter (fun l => s.samePart l.ctx ctx)

/-- Whether a waiting concurrent launch at the head of admission keeps new groups of a level out of a partition; `but` is that
launch itself. -/
def State.closed (s : State) (ctx level but : Nat) : Bool :=
  let ls := s.partLaunches ctx
  ls.any (fun p => p.id ≠ but && p.waits && p.level ≤ level
    && !ls.any (fun x => x.id ≠ p.id && (x.pending || x.waits) && s.before x p))

/-- The priority class of a group (R273, R339). -/
def State.levelOf (s : State) (g : Group) : Nat :=
  match g.free, g.launch.bind s.launch? with
  | some fw, _ => benchClass fw.level
  | none, some l => l.level
  | none, none => 3

/-- Whether a saved group, which is no free wave, could be restored somewhere. -/
def State.restorable (s : State) (g : Group) : Bool :=
  g.stat = .saved && g.free.isNone &&
  (match s.ctx? g.ctx with
   | some c => (partFacets c).any (fun f => s.placeable f g.waves.length g.cur g.full g.spillSize 0)
   | none => false)

/-- Whether a new group of a launch may be placed on a facet now: no group that stands before it could be placed first, no bench wave of
its class or a more urgent one waits there that could be placed, and no concurrent launch keeps it out. What R274 promised a place when
its record was checked is not kept out by what came later. -/
def State.turnOf (s : State) (l : Launch) (facet : Nat) : Bool :=
  s.awaited.any (fun x => x.id = l.id) ||
  (!(s.partLaunches l.ctx).any (fun x => x.id ≠ l.id && x.pending && s.before x l && s.launchFitsAny x)
    && !s.groups.any (fun g => s.samePart g.ctx l.ctx && s.levelOf g < l.level && s.restorable g)
    && !(match s.benchHead facet with
         | some (n, g) => benchClass n ≤ l.level && s.benchFits facet g
         | none => false)
    && !s.closed l.ctx l.level l.id)

/-- Places for up to `n` groups of a launch on the facets of its partition where its turn has come. -/
def State.placesFor (s : State) (l : Launch) (n : Nat) : List (Nat × List Nat) := s.placesIn l (s.turnOf l) (s.launchFacets l) n

/-- Whether a place in start order comes before another. -/
def placeBefore : List Nat → List Nat → Bool
  | [], [] => false
  | [], _ :: _ => true
  | _ :: _, [] => false
  | a :: as, b :: bs => a < b || (a = b && placeBefore as bs)

/-- Whether a saved task of a parallel launch stands before a place in start order (R283). -/
def State.savedBefore (s : State) (l : Launch) (order : List Nat) : Bool :=
  l.recd.pclass = 1 && s.groups.any (fun g => g.launch = some l.id && g.stat = .saved && placeBefore g.task.order order)

end Sys2Proof.Machine
end

