-- ==== Sys2Proof/Machine/Queues.lean ====
section
/-! DEFINITION. Queues: registration, slots, TAIL writes, and the packets that a fetcher processes (R261 to R272, R275, R278,
R282). -/

namespace Sys2Proof.Machine

open Sys2Proof

/-- A field of a little-endian number: `n` bits from bit `lo` up. -/
def field (x lo n : Nat) : Nat := x / 2 ^ lo % 2 ^ n

/-- Whether every 1 bit of a number lies in one of the named fields. -/
def onlyIn (fields : List (Nat × Nat)) (x : Nat) : Bool :=
  x = fields.foldl (fun acc (lo, n) => acc + field x lo n * 2 ^ lo) 0

/-! ### The launch record (R275) -/

/-- The fields of a launch record; every other bit is reserved. -/
def recordFields : List (Nat × Nat) :=
  [(0, 64), (64, 32), (96, 13), (109, 13), (128, 13), (144, 2), (146, 1), (147, 2), (160, 32), (192, 96), (288, 96), (384, 96),
   (480, 21), (512, 19), (544, 12), (576, 9), (585, 9), (594, 6), (608, 11), (640, 9), (649, 9), (658, 6), (672, 11), (704, 128),
   (832, 64), (896, 64), (960, 64), (1024, 12)]

/-- Three 32-bit words from bit `lo` up. -/
def triple (x lo : Nat) : Nat × Nat × Nat := (field x lo 32, field x (lo + 32) 32, field x (lo + 64) 32)

/-- A launch record read from its 2,048 bits (R275). -/
def parseRecord (x : Nat) : LaunchRec :=
  { code := BitVec.ofNat 64 (field x 0 64), entry := field x 64 32,
    shape := (field x 96 13 + 1, field x 109 13 + 1, field x 128 13 + 1), pclass := field x 144 2, div := x.testBit 146,
    level := field x 147 2, allow := field x 160 32, ext := triple x 192, init := triple x 288, min := triple x 384,
    defer := field x 480 21, spill := field x 512 19, sceil := field x 544 12,
    pro := ⟨field x 576 9, field x 585 9, 256 * field x 608 11, field x 594 6⟩,
    full := ⟨field x 640 9, field x 649 9, 256 * field x 672 11, field x 658 6⟩,
    slots := (List.range 8).map (fun k => BitVec.ofNat 16 (field x (704 + 16 * k) 16)),
    compl := BitVec.ofNat 64 (field x 832 64), cancel := BitVec.ofNat 64 (field x 896 64), tag := BitVec.ofNat 64 (field x 960 64),
    entryPrio := BitVec.ofNat 12 (field x 1024 12) }

/-- Whether an allotment keeps the units and ranges of R29. -/
def Allot.ok (a : Allot) : Bool :=
  8 ≤ a.v && a.v ≤ 256 && a.v % 8 = 0 && 8 ≤ a.s && a.s ≤ 384 && a.s % 8 = 0 && a.sh ≤ 393216 && a.sh % 256 = 0 && a.t ≤ 32

/-- Whether a format slot holds a content that R91 allows. -/
def slotLegal (x : BitVec 16) : Bool :=
  let elem := bits x 12 4
  let rest := bits x 0 12
  match elem with
  | 0 | 1 | 2 | 3 => rest = 0
  | 4 | 5 => rest = 0 || rest = 64
  | 6 => rest = 0x500 || rest = 0x580
  | _ => false

/-- The pieces that an extent is cut into (R276). -/
def pieces (ext init : Nat) : Nat := (ext + init - 1) / init

/-- The number of tasks that a record starts with (R276). -/
def LaunchRec.count (r : LaunchRec) : Nat :=
  pieces r.ext.1 r.init.1 * (pieces r.ext.2.1 r.init.2.1 * pieces r.ext.2.2 r.init.2.2)

/-- The pieces of one axis: origin and extent, the last keeping the remainder (R276). -/
def cuts (ext init : Nat) : List (Nat × Nat) := (List.range (pieces ext init)).map (fun i => (i * init, min init (ext - i * init)))

/-- The tasks of a launch, x fastest, then y, then z (R276). -/
def LaunchRec.tasks (r : LaunchRec) : List Task :=
  (cuts r.ext.2.2 r.init.2.2).flatMap (fun (oz, ez) =>
    (cuts r.ext.2.1 r.init.2.1).flatMap (fun (oy, ey) =>
      (cuts r.ext.1 r.init.1).map (fun (ox, ex) => ⟨ox, oy, oz, ex, ey, ez, 0, [], none⟩)))

/-- Whether the grain of one axis is legal (R275). -/
def grainOk (div : Bool) (ext init min : Nat) : Bool :=
  0 < min && min ≤ init && init ≤ ext && (div || min = init)

/-- Whether a record is not rejected by R275. `x` is the record's bits. -/
def LaunchRec.ok (r : LaunchRec) (x : Nat) : Bool :=
  onlyIn recordFields x
    && r.shape.1 * r.shape.2.1 * r.shape.2.2 ≤ 8192
    && r.pro.ok && r.full.ok && r.pro.v ≤ r.full.v && r.pro.s ≤ r.full.s && r.pro.sh ≤ r.full.sh && r.pro.t ≤ r.full.t
    && r.slots.all slotLegal
    && r.pclass ≠ 3 && !(r.div && r.pclass = 0)
    && grainOk r.div r.ext.1 r.init.1 r.min.1 && grainOk r.div r.ext.2.1 r.init.2.1 r.min.2.1
    && grainOk r.div r.ext.2.2 r.init.2.2 r.min.2.2
    && (r.div || (r.defer = 0 && r.allow = 0))
    && r.code.toNat % 256 = 0 && r.entry % 4 = 0 && r.compl.toNat % 64 = 0 && r.cancel.toNat % 8 = 0
    && r.defer % 64 = 0 && r.defer ≤ 1048576 && r.spill % 256 = 0 && r.spill ≤ 262144
    && r.count ≤ 0xFFFFFFFF

/-! ### Launches that can never be admitted (R282) -/

/-- The groups whose reserved storage an empty facet takes (R37). -/
def State.emptyStorage (s : State) (facet : Nat) (r : LaunchRec) : Nat :=
  let f := s.facet facet
  let spill := r.waves * r.spill
  let save := saveSize r.waves r.full r.spill + r.defer
  min (if spill = 0 then 512 else f.spadUnits * 65536 / spill) (f.reserve / save)

/-- How many groups of a record, up to `k`, an empty facet takes. -/
def State.emptyFacet (s : State) (facet : Nat) (r : LaunchRec) (k : Nat) : Nat :=
  min (groupsIn r.pro r.full r.waves k (s.emptyRooms facet)).length (s.emptyStorage facet r)

/-- Whether a launch could never be placed (R282). -/
def State.neverAdmissible (s : State) (c : CtxDesc) (r : LaunchRec) : Bool :=
  let need := if r.pclass = 0 then r.count else 1
  (List.range (2 ^ c.plog2)).foldl (fun acc i => acc + s.emptyFacet (c.pbase + i) r need) 0 < need

/-! ### The completion record (R277, R278) -/

/-- The bytes of a completion record with DONE = 1 and the given STATUS, or, with no status, as it is initialised. -/
def Launch.complBytes (l : Launch) (status : Option Nat) (endRef : DWord) : List Byte :=
  let sat := fun n => min n 0xFFFFFFFF
  let head := l.recd.tag.toNat * 2 ^ 192 + l.startRef.toNat * 2 ^ 256
  match status with
  | none => toBytes 64 head
  | some st =>
    toBytes 64 (1 + st * 2 ^ 8 + l.exitMax % 256 * 2 ^ 16 + l.exitOr.toNat * 2 ^ 24
      + (l.fault.elim 0 (fun x => x.1.toNat)) * 2 ^ 32 + sat l.retired * 2 ^ 64 + sat l.dropped * 2 ^ 96 + sat l.aborted * 2 ^ 128
      + sat l.splits * 2 ^ 160 + head + endRef.toNat * 2 ^ 320 + (l.fault.elim 0 (fun x => x.2.toNat)) * 2 ^ 384)

/-! ### What a fetcher does with a packet -/

/-- The facet whose fetcher serves a queue: it is mapped and ACTIVE and has a packet at READ (R263). -/
def State.serving (s : State) (q : Queue) : Option Nat :=
  match q.slot with
  | some (f, _, _) => if s.qState q = 1 && s.qRead q < s.qTail q && (s.facet f).runs then some f else none
  | none => none

/-- A page that a fetcher needs and does not find, named to the firmware core of its die: a page request with TOKEN 0 in the
escalation port, once while it stands there (R265, R278). Whether the firmware core can meet it is free; where it cannot, it is posted to
the host (R442, assumptions 2 and 74). -/
def State.nameFault (s : State) (facet ctx : Nat) (va : DWord) : State :=
  let e : Escalation := ⟨facet / 4, 0, va, 0, facet, 0, ctx, codePage, none⟩
  if s.esc.contains e then s
  else { s with esc := s.esc ++ [e] }.servePage e 0x304 facet

/-- A translation failed in a fetcher: page-not-present stalls the queue and is named to the firmware core, anything else is an error
(R264, R265). A launch that awaits admission is abandoned (R267). -/
def State.queueFault (s : State) (q : Queue) (facet : Nat) (x : Byte × DWord) (err : Nat) : State :=
  if x.1 = 0x10#8 then ((s.cbWrite q 32 1 2).abandon { q with missing := some x.2 }).nameFault facet q.ctx x.2 else s.queueError q err

/-- Addresses translated for a fetcher in order; the first failure that is no page-not-present decides, and else the first
page-not-present, each with its address. The keys come in the order of the addresses. -/
def State.fetchKeys (s : State) (facet ctx : Nat) : List (DWord × Access) → Except (Byte × DWord) (List Nat) × State
  | [] => (.ok [], s)
  | (va, acc) :: rest =>
    match s.translate facet 9 ctx acc va.toNat with
    | (.error e, s) =>
      (match State.fetchKeys s facet ctx rest with
       | (.error x, s) => (.error (if e = 0x10#8 && x.1 ≠ 0x10#8 then x else (e, va)), s)
       | (.ok _, s) => (.error (e, va), s))
    | (.ok p, s) =>
      (match State.fetchKeys s facet ctx rest with
       | (.error e', s) => (.error e', s)
       | (.ok ks, s) => (.ok ((p.base + va.toNat % 4096) :: ks), s))

/-- The virtual address of the packet at READ (R261). -/
def State.packetVa (s : State) (q : Queue) : DWord := q.ring + BitVec.ofNat 64 (64 * (s.qRead q % 2 ^ q.log2size))

/-- The units written over a packet that a re-reading finds, and those that it does not find yet: a free choice for each (R448,
assumptions 2 and 84). -/
def foundNew (tick : Nat) (upon : List Rewrite) : List Rewrite × List Rewrite :=
  let xs := upon.mapIdx (fun i u => (Config.freeBit tick 0x325 i, u))
  ((xs.filter Prod.fst).map Prod.snd, (xs.filter (fun x => !x.1)).map Prod.snd)

/-- A packet read again: what the fetcher holds of it, with the units in `found` as they were written. A byte that no unit was written over
stands as it is in memory. -/
def rereadPacket (old now : Nat) (upon found : List Rewrite) : Nat :=
  ofBytes ((List.range 64).map (fun j =>
    let at_ := fun (u : Rewrite) => decide (u.off ≤ j) && decide (j < u.off + u.len)
    if !upon.any at_ then BitVec.ofNat 8 (field now (8 * j) 8)
    else ((found.filter at_).getLast?).elim (BitVec.ofNat 8 (field old (8 * j) 8)) (fun u => BitVec.ofNat 8 (field u.val (8 * (j - u.off)) 8))))

/-- What the fetcher holds of the packet at READ, which stands at `key`, once it has read it in full or again; `now` is what stands in memory
(R448). -/
def State.holds (s : State) (q : Queue) (key now : Nat) : Held :=
  match q.held with
  | some h =>
    if h.rd = s.qRead q && h.key = key then
      let (found, left) := foundNew s.tick h.upon
      ⟨h.rd, key, rereadPacket h.pkt now h.upon found, left⟩
    else ⟨s.qRead q, key, now, []⟩
  | none => ⟨s.qRead q, key, now, []⟩

/-- The packet at READ as the fetcher reads it, or the state in which the fetch ended (R263, ERR 0x08). -/
def State.packetAt (s : State) (q : Queue) (facet : Nat) : Except State (State × Held) :=
  match s.fetchKeys facet q.ctx [(s.packetVa q, .write)] with
  | (.error e, s) => .error (s.queueFault q facet e 8)
  | (.ok (k :: _), s) => .ok (s, s.holds q k (s.readNum (s.under q.ctx k) k 64))
  | (.ok [], s) => .error s

/-- The bits that a packet of a type may set (R266 to R269). -/
def packetFields : Nat → List (Nat × Nat)
  | 1 => [(0, 9), (64, 64)]
  | 2 => [(0, 9), (32, 3), (64, 384)]
  | 3 => [(0, 12), (32, 11), (64, 128)]
  | _ => [(0, 9)]

/-- A packet consumed: its header word is cleared, and then READ advances (R263). -/
def State.consume (s : State) (q : Queue) (key : Nat) : State :=
  let rd := s.qRead q + 1
  let s := (s.storeMain (s.under q.ctx key) key (List.replicate 4 0#8)).cbWrite q 24 8 rd
  s.setQueue { q with stage := .idle, held := none, idleFrom := s.edges, tails := q.tails.filter (fun x => rd < x.1) }

/-- The edge of the TAIL write that published the packet at an index, and the edge from which the fetcher could take it: the queue was
mapped then, and the packet was the first (R274). -/
def Queue.published (q : Queue) (rd now : Nat) : Nat := ((q.tails.find? (fun x => rd < x.1)).map Prod.snd).getD now
def Queue.from_ (q : Queue) (rd now : Nat) : Nat := max (q.published rd now) q.idleFrom

/-- A packet of a type processed, if it stands at READ, nothing of it has been processed before, and its FENCE allows it (R266). -/
def State.processing (s : State) (qid ty : Nat) (body : State → Queue → Nat → Held → State) : State :=
  match s.queue? qid with
  | none => s
  | some q =>
    match s.serving q with
    | none => s
    | some f =>
      if q.stage ≠ .idle then s
      else
        match s.packetAt q f with
        | .error t => t
        | .ok (t, h) =>
          if h.pkt % 256 ≠ ty then s
          else if h.pkt.testBit 8 && s.launches.any (fun l => l.queue = qid) then s
          else if !onlyIn (packetFields ty) h.pkt then t.queueError q 2
          else body t q f h

/-- PACKET_HEADER_REREAD (R263): an EMPTY header is awaited, a TYPE that is no code is an error, and any other packet is held as it is read
(R448). -/
def execPacketHeaderReread (qid : Nat) (s : State) : Host.Outcome State Fault Refusal :=
  match s.queue? qid with
  | none => .next s
  | some q =>
    match s.serving q with
    | none => .next s
    | some f =>
      if q.stage ≠ .idle then .next s
      else
        match s.packetAt q f with
        | .error t => .next t
        | .ok (t, h) =>
          .next (if 4 < h.pkt % 256 then t.queueError q 1 else t.setQueue { q with held := if h.pkt % 256 = 0 then none else some h })

/-- NOPKT (R266). -/
def execNopkt (qid : Nat) (s : State) : Host.Outcome State Fault Refusal :=
  .next (s.processing qid 4 (fun s q _ h => s.consume q h.key))

/-- SIGNAL (R269): a read-modify-write at the home agent, as a release. -/
def execSignalPacket (qid : Nat) (s : State) : Host.Outcome State Fault Refusal :=
  .next (s.processing qid 3 (fun s q f h =>
    let addr := field h.pkt 64 64
    let v := field h.pkt 128 64
    let op := field h.pkt 10 2
    if addr % 8 ≠ 0 then s.queueError q 3
    else if op = 3 then s.queueError q 4
    else
      match s.fetchKeys f q.ctx [(BitVec.ofNat 64 addr, .write)] with
      | (.ok (k :: _), s) =>
        let o := s.under q.ctx k
        let old := s.readNum o k 8
        let new := match op with
          | 0 => v
          | 1 => (old + v) % 2 ^ 64
          | _ => max old v
        let s := s.storeMain o k (toBytes 8 new)
        let s := if h.pkt.testBit 9 then { s with irqs := s.irqs ++ [field h.pkt 32 11] } else s
        (match s.queue? q.id with
         | some q => s.consume q h.key
         | none => s)
      | (.ok [], s) => s
      | (.error e, s) => s.queueFault q f e 6))

/-- The processing of a DEPEND (R268). The alignment is that of the first COUNT address fields; any nonzero field after them is a
reserved field (assumption 88). -/
def dependBody (s : State) (q : Queue) (f : Nat) (h : Held) : State :=
  let n := field h.pkt 32 3
  let deps := (List.range 6).map (fun k => field h.pkt (64 + 64 * k) 64)
  if (deps.take n).any (fun a => a % 64 ≠ 0) then s.queueError q 3
  else if n = 0 || 6 < n || (deps.drop n).any (· ≠ 0) then s.queueError q 4
  else
    match s.fetchKeys f q.ctx ((deps.take n).map (fun a => (BitVec.ofNat 64 a, Access.read))) with
    | (.error e, s) => s.queueFault q f e 6
    | (.ok ks, s) =>
      if ks.all (fun k => (s.readByte (s.under q.ctx k) k).getLsbD 0) then s.consume q h.key
      else s.setQueue { q with stage := .depend, held := some h }

/-- DEPEND (R268). -/
def execDependPacket (qid : Nat) (s : State) : Host.Outcome State Fault Refusal := .next (s.processing qid 2 dependBody)

/-- The re-reading of a waiting DEPEND (R268). A packet that is found to be of another type is processed as what it is (R448). -/
def execDependRecheck (qid : Nat) (s : State) : Host.Outcome State Fault Refusal :=
  match s.queue? qid with
  | none => .next s
  | some q =>
    match s.serving q, q.stage with
    | some f, .depend =>
      (match s.packetAt q f with
       | .error t => .next t
       | .ok (t, h) =>
         .next (if h.pkt % 256 ≠ 2 then t.setQueue { q with stage := .idle, held := if h.pkt % 256 = 0 then none else some h }
           else if !onlyIn (packetFields 2) h.pkt then t.queueError q 2
           else dependBody t q f h))
    | _, _ => .next s

/-! ### LAUNCH (R267, R275, R278, R282) -/

/-- The completion record of a launch translated afresh and written whole (R278): page-not-present waits, and any other failure
leaves the record unwritten with an error-log entry of KIND 8. Where the walk finds no key, or an uncorrectable word, R209 has no status:
which of the other failures the entry names is free (assumption 97). The second part tells whether the launch is done with. -/
def State.writeCompl (s : State) (l : Launch) (status : Nat) : State × Bool :=
  match s.translate l.facet 9 l.ctx .write l.recd.compl.toNat with
  | (.ok p, s) =>
    (s.storeMain p.owner (p.base + l.recd.compl.toNat % 4096) (l.complBytes (some status) (s.facet l.facet).ref), true)
  | (.error e, s) =>
    if e = 0x10#8 then (s.nameFault l.facet l.ctx l.recd.compl, false)
    else
      let st := if e = 0xFD#8 || e = 0xFE#8 then 0x11 + (Config.freeWord s.tick 0x205).toNat % 4 else e.toNat
      (s.logEntry 8 st l.ctx l.facet 0xFF l.recd.compl.toNat 0 (s.facet l.facet).ref.toNat, true)

/-- A launch as a checked record gives it. -/
def newLaunch (id ctx queue facet level : Nat) (r : LaunchRec) (start : DWord) (complKey : Nat) (cancelKey : Option Nat) : Launch :=
  { id := id, ctx := ctx, queue := queue, facet := facet, level := level, recd := r, stat := .presented, tasks := r.tasks,
    total := r.count, cancel := false, cancelAt := 0, bits := 0, fault := none, retired := 0, dropped := 0, aborted := 0, splits := 0,
    exitMax := 0, exitOr := 0, startRef := start, started := 0, headFrom := 0, complKey := complKey, cancelKey := cancelKey, tailAt := 0,
    issued := false, due := none }

/-! ### The promise of R274 -/

/-- Whether the second-level TLB of a facet holds a translation of an address. -/
def State.warm (s : State) (facet ctx : Nat) (va : DWord) : Bool :=
  s.tlb.any (fun t => t.facet = facet && t.core = 9 && t.ctx = ctx && covers t.span t.vpage (va.toNat / 4096))

/-- Whether admission would accept a launch at once and place its first group: the groups that R36 and its class must place fit where
none stands before them, beside the groups that are promised already. -/
def State.placesNow (s : State) (l : Launch) : Bool := l.firstGroups ≤ ((s.foresee l).placesFor l l.firstGroups).length

/-- Whether the promise of R274 holds for a launch whose record lies at `addr`: the pages of its record and of its entry code are
translated in the second-level TLB of the facet, and admission accepts it at once. -/
def State.promised (s : State) (l : Launch) (addr : Nat) : Bool :=
  s.warm l.facet l.ctx (BitVec.ofNat 64 addr) && s.warm l.facet l.ctx (l.recd.code + BitVec.ofNat 64 l.recd.entry) && s.placesNow l

/-- The launch that a checked record at `addr` makes, presented: a cancel word that is already nonzero counts as one that becomes
nonzero now (R290, assumption 71). -/
def State.launchFrom (s : State) (q : Queue) (facet addr : Nat) (r : LaunchRec) (complKey : Nat) (cancelKey : Option Nat) : Launch :=
  let rd := s.qRead q
  let l := { newLaunch s.nextId q.ctx q.id facet (max r.level q.level) r (s.facet facet).ref complKey cancelKey with
    headFrom := s.edges
    tailAt := q.published rd s.edges
    cancel := cancelKey.any (fun k => s.readNum (s.under q.ctx k) k 8 ≠ 0)
    cancelAt := s.edges }
  { l with due := if s.promised l addr then some (q.from_ rd s.edges + 120) else none }

/-- A checked launch: its completion record is initialised, and it is presented to admission, or, never admissible, consumed with
STATUS 0x03 (R267, R278, R282). -/
def State.present (s : State) (q : Queue) (key : Nat) (l : Launch) : State :=
  let s := { s with nextId := s.nextId + 1 }
  let o := s.under q.ctx l.complKey
  let s := s.storeMain o l.complKey (l.complBytes none 0)
  let never := match s.ctx? q.ctx with
    | some c => s.neverAdmissible c l.recd
    | none => true
  if never then (s.storeMain o l.complKey (l.complBytes (some 3) (s.facet l.facet).ref)).consume q key
  else ({ s with launches := s.launches ++ [l] }).setQueue { q with stage := .presented l.id }

/-- LAUNCH (R267). The promise of R274 is judged by the translations that stand before the record is fetched. -/
def execLaunchPacket (qid : Nat) (s : State) : Host.Outcome State Fault Refusal :=
  .next (s.processing qid 1 (fun s q f h =>
    let addr := field h.pkt 64 64
    if addr % 256 ≠ 0 then s.queueError q 3
    else
      let tlb := s.tlb
      match s.fetchKeys f q.ctx [(BitVec.ofNat 64 addr, .read)] with
      | (.error e, s) => s.queueFault q f e 6
      | (.ok [], s) => s
      | (.ok (k :: _), s) =>
        let x := s.readNum (s.under q.ctx k) k 256
        let r := parseRecord x
        if !r.ok x then s.queueError q 5
        else
          match s.fetchKeys f q.ctx ((r.compl, Access.write) :: (if r.cancel = 0 then [] else [(r.cancel, Access.read)])) with
          | (.error e, s) => s.queueFault q f e 6
          | (.ok (ck :: ks), s) => s.present q h.key ({ s with tlb := tlb }.launchFrom q f addr r ck ks.head?)
          | (.ok [], s) => s))

/-- Whether the promise of R274 for the packet at READ of a queue, which is not presented yet, has run out. -/
def State.promiseDue (s : State) (q : Queue) : Bool :=
  match s.serving q with
  | none => false
  | some f =>
    q.stage = .idle && q.from_ (s.qRead q) s.edges + 120 ≤ s.edges &&
      (match s.packetAt q f with
       | .error _ => false
       | .ok (_, h) =>
         h.pkt % 256 = 1 && !(h.pkt.testBit 8 && s.launches.any (fun l => l.queue = q.id)) && onlyIn (packetFields 1) h.pkt &&
           (match s.fetchKeys f q.ctx [(BitVec.ofNat 64 (field h.pkt 64 64), .read)] with
            | (.ok (k :: _), _) =>
              let x := s.readNum (s.under q.ctx k) k 256
              (parseRecord x).ok x && s.promised (s.launchFrom q f (field h.pkt 64 64) (parseRecord x) 0 none) (field h.pkt 64 64)
            | _ => false))

/-! ### TAIL, stalls, slots and registration -/

/-- Whether the page of an address is present for a context (R191, R265). -/
def State.present? (s : State) (ctx : Nat) (va : DWord) : Bool :=
  match s.ctx? ctx with
  | none => true
  | some c => match walk s c va.toNat 4 c.root with
    | .error e => e ≠ 0x10#8
    | .ok _ => true

/-- QUEUE_STALL_RESUME (R265): once the page that the fetcher did not find is present, the queue is ACTIVE again at the same READ. -/
def execQueueStallResume (qid : Nat) (s : State) : Host.Outcome State Fault Refusal :=
  match s.queue? qid with
  | none => .next s
  | some q =>
    .next (if s.qState q = 2 && q.slot.isSome && q.missing.all (s.present? q.ctx) then (s.cbWrite q 32 1 1).setQueue { q with missing := none }
      else s)

/-- The reserved minimum of a class (R270). -/
def classMin : Nat → Nat
  | 0 => 2
  | 1 => 4
  | 2 => 6
  | _ => 2

/-- The queues that a facet's slots map. -/
def State.mapped (s : State) (facet : Nat) : List Queue := s.queues.filter (fun q => q.slot.any (fun x => x.1 = facet))

/-- Whether a queue's context may use a facet. -/
def State.queueOn (s : State) (q : Queue) (facet : Nat) : Bool :=
  match s.ctx? q.ctx with
  | some c => ctxOwns c facet && !c.ending
  | none => false

/-- Whether a queue waits for a slot: it is unmapped, in no error, and has a packet (R270, R272). -/
def State.queueWaits (s : State) (q : Queue) : Bool := q.slot.isNone && s.qState q ≠ 3 && s.qRead q < s.qTail q

/-- QUEUE_MAP (R270, R272): an idle slot of the facet takes the queue whose turn it is in its class. -/
def execQueueMap (qid facet : Nat) (s : State) : Host.Outcome State Fault Refusal :=
  match s.queue? qid with
  | none => .next s
  | some q =>
    let first := s.queues.find? (fun x => x.level = q.level && s.queueWaits x && s.queueOn x facet)
    let here := s.mapped facet
    if s.queueWaits q && s.queueOn q facet && (s.facet facet).runs && here.length < 16 && first = some q then
      let borrowed := decide (classMin q.level ≤ (here.filter (fun x => x.level = q.level)).length)
      let s := s.cbWrite q 32 1 1
      .next { s with queues := s.queues.filter (fun x => x.id ≠ qid)
                ++ [{ q with slot := some (facet, borrowed, s.edges), stage := .idle, idleFrom := s.edges }] }
    else .next s

/-- A queue unmapped (R271): a launch that awaits admission is abandoned, STATE becomes IDLE unless it is ERROR, and READ stays. A
DEPEND that still waits is left unconsumed too, since its wait has no limit (assumption 70). -/
def State.unmap (s : State) (q : Queue) : State :=
  let s := s.abandon q
  let s := if s.qState q = 3 then s else s.cbWrite q 32 1 0
  s.setQueue { q with slot := none, stage := .idle, held := none }

/-- The slot that a forced unmapping takes: of the least urgent class that holds more than its minimum, the borrowed one mapped
longest (R270). -/
def State.unmapVictim (s : State) (facet : Nat) : Option Queue :=
  let here := s.mapped facet
  let above := fun (c : Nat) => decide (classMin c < (here.filter (fun q => q.level = c)).length)
  match [3, 2, 1, 0].find? above with
  | none => none
  | some c =>
    let mine := here.filter (fun q => q.level = c && q.slot.any (fun x => x.2.1))
    let oldest := minList (2 ^ 64) (mine.map (fun q => (q.slot.map (fun x => x.2.2)).getD 0))
    mine.find? (fun q => q.slot.any (fun x => x.2.2 = oldest))

/-- FORCED_UNMAP (R270, R271), for a class below its minimum that has a waiting queue and finds no idle slot. -/
def execForcedUnmap (facet cls : Nat) (s : State) : Host.Outcome State Fault Refusal :=
  let here := s.mapped facet
  let below := decide ((here.filter (fun q => q.level = cls)).length < classMin cls)
  let wants := s.queues.any (fun q => q.level = cls && s.queueWaits q && s.queueOn q facet)
  match s.unmapVictim facet with
  | some v => .next (if below && wants && 16 ≤ here.length then s.unmap v else s)
  | none => .next s

/-- QUEUE_IDLE_UNMAP (R272). -/
def execQueueIdleUnmap (qid : Nat) (s : State) : Host.Outcome State Fault Refusal :=
  match s.queue? qid with
  | none => .next s
  | some q =>
    match q.slot with
    | none => .next s
    | some (f, _, _) =>
      let idle := s.qRead q = s.qTail q && q.idleFrom + 10000 ≤ s.edges
      let wants := s.queues.any (fun x => x.level = q.level && s.queueWaits x && s.queueOn x f)
      .next (if idle && wants then s.unmap q else s)

/-- QUEUE_REGISTER (R261, R272, R396): the control block at a virtual address of a live context, aligned to 64 bytes in this
package's HBM, with a ring that keeps its limits. -/
def execQueueRegister (ctx : Nat) (cb : DWord) (s : State) : Host.Outcome State Fault Refusal :=
  match s.descOf ctx with
  | none => .next s
  | some c =>
    match walk s c cb.toNat 4 c.root with
    | .error _ => .next s
    | .ok (e, level) =>
      let key := leafBase cb.toNat e level + cb.toNat % 4096
      let o := s.under ctx key
      let x := s.readNum o key 9
      let ring := field x 0 64
      let logSize := field x 64 5
      let mine := (s.queues.filter (fun q => match s.ctx? q.ctx with
        | some d => d.pbase = c.pbase && d.plog2 = c.plog2
        | none => false)).length
      if c.ending || 2 ^ 56 ≤ cb.toNat || cb.toNat % 64 ≠ 0 || !isLocal key || ring % 4096 ≠ 0 || logSize < 3 || 16 < logSize
          || 65536 ≤ mine || s.queues.any (fun q => q.key = key) then .next s
      else
        let q : Queue := ⟨s.nextId, ctx, key, cb, BitVec.ofNat 64 ring, logSize, field x 69 2, none, .idle, s.edges,
          [(s.readNum o (key + 16) 8, s.edges)], none, none⟩
        .next { s with nextId := s.nextId + 1, queues := s.queues ++ [q] }

end Sys2Proof.Machine
end

