-- ==== Sys2Proof/Machine/Tasks.lean ====
section
/-! DEFINITION. Admission, the life of a task and of a launch, and the waiting of waves: LAUNCH_ACCEPT to LAUNCH_END, FAIRNESS_RUN,
SLEEP_WAKE and TIMER_EXPIRE (R184, R278 to R292, R296, R318, R320, R321, R353, R413). -/

namespace Sys2Proof.Machine

open Sys2Proof

/-! ### Acceptance and placement (R267, R280 to R283) -/

/-- A launch accepted: it stands last in launch admission order, its context's code is fetched afresh (R48), and its packet is
consumed. -/
def State.accepted (s : State) (l : Launch) (q : Queue) (key : Nat) : State :=
  let l := { l with stat := .accepted, headFrom := s.edges }
  let s := { s with launches := s.launches.filter (fun (x : Launch) => x.id ≠ l.id) ++ [l] }
  (s.dropCode l.ctx).consume q key

/-- LAUNCH_ACCEPT (R267, R280, R281): a parallel or weakly parallel launch is accepted at once, and a concurrent one when `places`
gives each of its tasks room, which all then take in one step, or when a cancel bit of it is set, so that its tasks are dropped. -/
def execLaunchAccept (lid : Nat) (places : List (Nat × List Nat)) (s : State) : Host.Outcome State Fault Refusal :=
  match s.launch? lid with
  | none => .next s
  | some l =>
    match s.queue? l.queue with
    | none => .next s
    | some q =>
      if l.stat ≠ .presented || q.stage ≠ .presented lid || q.slot.isNone || s.qState q ≠ 1 then .next s
      else
        match s.packetAt q l.facet with
        | .error t => .next t
        | .ok (t, h) =>
          let t' := t.accepted l q h.key
          if l.recd.pclass ≠ 0 || l.bits ≠ 0 then .next t'
          else if !places.all (fun p => t.turnOf l p.1) then .next t
          else
            match State.placeEach lid t' l.tasks places with
            | none => .next t
            | some u => .next (t.unless (u.updLaunch lid (fun l => { l with tasks := [] })))

/-- The running task of a parallel launch that stands latest in start order and later than a place (R283). -/
def State.latestRunning (s : State) (l : Launch) (order : List Nat) : Option Group :=
  let gs := s.groups.filter (fun g => g.launch = some l.id && g.stat = .resident && placeBefore order g.task.order)
  gs.find? (fun g => gs.all (fun x => !placeBefore g.task.order x.task.order))

/-- Capacity taken back for the head of a parallel launch's task list: one request at a time, to the latest running task that stands
later (R283, R423). -/
def State.takeBack (s : State) (l : Launch) (t : Task) : State :=
  let order := if t.order.isEmpty then [l.started] else t.order
  if l.recd.pclass ≠ 1 || s.launchFitsAny l || s.groups.any (fun g => g.launch = some l.id && g.preempt.isSome) then s
  else
    match s.latestRunning l order with
    | some g => s.postPreempt g.id 10000
    | none => s

/-- GROUP_PLACE (R276, R280, R283, R291): the head of a launch's task list is placed, or dropped under the set cancel bit of the facet. A
concurrent launch lists tasks only where it was accepted under a set cancel bit. Where the head of a parallel launch has no room in its
partition, capacity is taken back for it. -/
def execGroupPlace (lid facet : Nat) (cores : List Nat) (s : State) : Host.Outcome State Fault Refusal :=
  match s.launch? lid with
  | none => .next s
  | some l =>
    match l.tasks with
    | [] => .next s
    | t :: ts =>
      if l.stat ≠ .accepted then .next s
      else if l.bits.getLsbD facet || l.recd.pclass = 0 then
        .next (s.updLaunch lid (fun l => { l with tasks := ts, dropped := l.dropped + 1 }))
      else
        let order := if t.order.isEmpty then [l.started] else t.order
        if s.savedBefore l order then .next s
        else if !s.turnOf l facet then .next s
        else
          match s.placeTask l t facet cores with
          | some t => .next (s.unless (t.updLaunch lid (fun l => { l with tasks := ts, headFrom := t.edges })))
          | none => .next (s.takeBack l t)

/-! ### Allotments, allowances (R285, R320, R321) -/

/-- ACQ_GRANT (R36, R320): the first request of a group that fits is granted. -/
def execAcqGrant (gid : Nat) (s : State) : Host.Outcome State Fault Refusal :=
  match s.group? gid with
  | none => .next s
  | some g =>
    match g.acq.find? (fun (t, m) => s.acqFits g t m) with
    | some (_, m) => .next (if g.stat = .resident then s.unless (s.grant gid m) else s)
    | none => .next s

/-- REL_LOWER (R321): the components that every wave has given up, and that nothing holds back, are lowered. -/
def execRelLower (gid : Nat) (s : State) : Host.Outcome State Fault Refusal :=
  match s.group? gid with
  | none => .next s
  | some g => .next (if g.stat = .resident && g.lowerable ≠ 0 then s.lower gid none g.lowerable else s)

/-- Whether a task that still has a lane has been resident for its allowance (R285). -/
def State.allowDue (s : State) (g : Group) : Bool :=
  g.div && g.stat = .resident && !g.liveWaves.isEmpty
    && (g.launch.bind s.launch?).any (fun l => l.recd.allow ≠ 0 && l.recd.allow ≤ g.resident)

/-- A task whose allowance has run out exhausts it (R285). -/
def State.expireAllow (s : State) (g : Group) : State :=
  match g.liveWaves.head? with
  | some w => if s.allowDue g then s.exhaust g.id w.id ((bestPath w.paths).elim 0 Path.pc) else s
  | none => s

/-- ALLOW_EXPIRY (R285): a task that still has a lane and has been resident for its allowance exhausts it. -/
def execAllowExpiry (gid : Nat) (s : State) : Host.Outcome State Fault Refusal :=
  .next ((s.group? gid).elim s s.expireAllow)

/-! ### Retirement (R184, R253, R288) -/

/-- The main-memory addresses of a held-back record, and what it writes there as a command (R184). -/
def Deferred.access : Deferred → List Nat × Access
  | .store _ cells => (cells.flatMap (fun (a, bs) => pagesOf a.toNat bs.length), .write)
  | .atomic _ _ ls | .xsum _ ls => (lanePages ls, .write)
  | _ => ([], .read)

/-- The effect of a record as that of a command; for bytes, of a command that writes such units and has none of its own (R184, R239). -/
def Deferred.effect : Deferred → Effect
  | .atomic op ty ls => .atomic op ty .none ls
  | .xsum ty ls => .xsum ty ls
  | .store 1 _ => .scatter .n8 0 []
  | .store 2 _ => .scatter .n16 0 []
  | .store 4 _ => .scatter .b32 0 []
  | .store 8 _ => .scatter .b64 0 []
  | _ => .xclr []

/-- The packages that requests for some keys go to, each with its link; none where one has no route left (R433). -/
def State.linksFor (s : State) (keys : List Nat) : Option (List (Nat × Nat)) :=
  (distinct ((keys.filter (fun k => 2 ^ 50 ≤ k)).map (fun k => k / 2 ^ 50))).mapM (fun p => (s.routeTo p).map (fun q => (p, q)))

/-- The requests of held-back records given to their links: none while one is down, is trained or has no room in its replay buffer, and the
records wait (R430, R431). -/
def State.sendHeld (s : State) (ports : List Nat) : Option State :=
  if ports.any (fun p => (s.port p).state ≠ 2 || 256 ≤ (s.port p).replay.length) then none
  else some (ports.foldl (fun s p => s.sendFlit p 0 none) s)

/-- One held-back record performed under the translations in force, its requests made as those of any command; the second part says
whether it was, or is none where it must wait: an announcement for the next cycle of a router that has done with the arrivals of this one
(R369), and a request to another package for its link (R181, R238, R288, R398, R430). -/
def State.retireOne (s : State) (g : Group) (w : Wave) (pc : DWord) (d : Deferred) : State × Option Bool :=
  let (vas, acc) := d.access
  match s.translateAll g.facet w.core g.ctx acc vas [] with
  | (.error (e, va), s) =>
    if e = 0xFE#8 then (s.uncorrectable g.id w.id pc va, some false)
    else if e = 0xFD#8 then (s.raiseFault g.id w.id codeKey pc, some false)
    else (s.raiseFault g.id w.id ((statusCode e).getD codeFetch) pc (BitVec.ofNat 64 va), some false)
  | (.ok pins, s) =>
    let keys := vas.filterMap (fun va => (pinned pins va).map (fun x => x.1))
    let c : Cmd := { cls := 3, seq := 0, pc := pc, mask := 0, effect := d.effect, pins := pins, status := 0, stage := .queued,
                     begun := false, sent := 0, reported := false, rel := false, order := 0, info := 0, since := 0, moved := [],
                     sample := [], asked := false, posted := true, via := (s.linksFor keys).getD [], lost := false,
                     die := g.die, late := [] }
    match s.linksFor keys with
    | none => (s.raiseFault g.id w.id codeReach pc, some false)
    | some via =>
      match s.sendHeld (via.map Prod.snd) with
      | none => (s, none)
      | some t =>
        match d with
        | .store _ cells =>
          let t := cells.foldl (fun (s : State) (a, bs) => s.sendRow c 0 a.toNat bs) t
          let t := t.mendRanges g.id ((cells.flatMap (fun (a, bs) => rowPieces a.toNat bs.length)).filterMap (fun (a, n) =>
            (pinned pins a).map (fun x => (x.1, n))))
          let secs := distinct (cells.flatMap (fun (a, bs) =>
            (List.range ((a.toNat + bs.length - 1) / 64 - a.toNat / 64 + 1)).map (· + a.toNat / 64)))
          let t := secs.foldl (fun s sec => s.touchPinned g.facet g.ctx pins (sec * 64) true) t
          (t.count g.facet g.ctx 3 (cells.foldl (fun acc x => acc + x.2.length) 0), some true)
        | .announce die sp key loc shelf =>
          if (s.router g.die).closed then (s, none)
          else
            match s.badLocal g sp loc key.len (some die) with
            | some a => (s.uncorrectable g.id w.id pc a, some false)
            | none => (s.tileAt g.die key (s.readLocal g.id sp loc key.len (some die)) shelf true, some true)
        | .spawn _ => (s, some true)
        | _ =>
          match s.consumes g w c with
          | some a => (s.uncorrectable g.id w.id pc a, some false)
          | none =>
            let refused := !s.host.cxl && c.mainKeys.any (fun x => 2 ^ 48 ≤ x.1 && x.1 < 2 ^ 50) && Config.freeBit s.tick 0x324 pc.toNat
            if refused then
              (s.raiseFault g.id w.id codeReach pc, some false)
            else (t.copyPieces g w c 0 [c.effect] [c], some true)

/-- The held-back records of a task performed in issue order, up to the first that faults or must wait; those that are left are from that
one on. -/
def State.retireAll (s : State) (g : Group) (w : Wave) : List (DWord × Deferred) → State × List (DWord × Deferred) × Option Bool
  | [] => (s, [], some true)
  | (pc, d) :: ds =>
    match s.retireOne g w pc d with
    | (s, some true) => State.retireAll s g w ds
    | (s, r) => (s, (pc, d) :: ds, r)

/-- The child of a held-back TSPAWN. -/
def Deferred.child : Deferred → Option Task
  | .spawn t => some t
  | _ => none

/-- Whether a task may retire: its last thread has left, every command of its waves is complete, and no fault has been raised
(R288, R316). -/
def Group.retires (g : Group) : Bool :=
  g.stat = .resident && g.waves.all (fun w => !w.alive && !w.dead && w.cmds.all (fun c => c.stage = .signalled))

/-- The retirement of a task (R288): statuses, held-back records, children, regions and the count, in that order. A launch that a fault
or its context's end has ended takes no children. Where a record must wait, the task retires later, from that record on. -/
def State.retireTask (s : State) (g : Group) : State :=
  match g.launch, g.waves.head? with
  | some l, some w =>
    let s := s.updLaunch l (fun l => { l with exitMax := max l.exitMax g.exitMax, exitOr := l.exitOr ||| g.exitOr })
    let (s, left, ok) := s.retireAll g w g.deferred
    let kids := g.deferred.filter (fun x => x.2.child.isSome)
    if ok.isNone then s.updGroup g.id (fun x => { x with deferred := (kids.filter (fun y => !left.contains y)) ++ left })
    else
      let enter := if ok = some true && !(s.launch? l).any (fun l => l.fault.isSome || (s.descOf l.ctx).any CtxDesc.ending) then kids.filterMap (fun x => x.2.child) else []
      let s := (s.updLaunch l (fun l => { l with
        headFrom := if l.tasks.isEmpty then s.edges else l.headFrom
        tasks := l.tasks ++ enter
        total := l.total + enter.length
        retired := l.retired + 1 })).dropGroup g.id
      s.count g.facet g.ctx 6 1
  | _, _ => s

/-- TASK_RETIRE (R288). -/
def execTaskRetire (gid : Nat) (s : State) : Host.Outcome State Fault Refusal :=
  match s.group? gid with
  | none => .next s
  | some g => .next (if g.retires then s.retireTask g else s)

/-! ### The end of a launch (R278, R290, R292, R412, R413) -/

/-- The STATUS of a complete launch (R278). -/
def Launch.status (l : Launch) : Nat := if l.fault.isSome then 2 else if l.dropped + l.aborted ≠ 0 then 1 else 0

/-- Whether a task retires or waits to: its last thread has left (R288). -/
def Group.leaving (g : Group) : Bool := g.waves.all (fun w => !w.alive && !w.dead)

/-- A complete launch's record written; the launch is done with, unless the write waits (R278). -/
def State.finishLaunch (s : State) (l : Launch) : State :=
  match s.writeCompl l l.status with
  | (s, true) => { s with launches := s.launches.filter (fun x => x.id ≠ l.id) }
  | (s, false) => s

/-- LAUNCH_COMPLETE (R278): the task list is empty, no task runs or retires, and no fault is on its way. -/
def execLaunchComplete (lid : Nat) (s : State) : Host.Outcome State Fault Refusal :=
  match s.launch? lid with
  | none => .next s
  | some l =>
    if l.stat = .accepted && l.tasks.isEmpty && !s.groups.any (fun g => g.launch = some lid)
        && !s.faults.any (fun f => f.launch = lid) then .next (s.finishLaunch l)
    else .next s

/-- Whether one fault reaches a firmware core before another: at an earlier edge, or, at one edge, from the lower facet, core and
slot (R413). -/
def PendingFault.first (a b : PendingFault) : Bool :=
  a.edge < b.edge || (a.edge = b.edge && (a.facet < b.facet || (a.facet = b.facet && (a.core < b.core
    || (a.core = b.core && a.slot < b.slot)))))

/-- The first of a list of faults; of two that no order tells apart, the one raised first. -/
def firstFault : List PendingFault → Option PendingFault
  | [] => none
  | f :: fs =>
    match firstFault fs with
    | none => some f
    | some x => some (if x.first f then x else f)

/-- Every group of a launch that is not retiring aborted (assumption 81); the copy-engine requests that have left are performed yet
(R213, R288, R292). -/
def State.abortRunning (s : State) (l : Nat) : State :=
  (s.groups.filter (fun g => g.launch = some l && !g.leaving)).foldl (fun s g => (s.finishUnits g.id).abortTask g.id) s

/-- Whether a copy-engine request of a running task of a launch is on a link that is down or has no room: it is performed before the launch
ends (R213, R430, R431). -/
def State.launchOut (s : State) (l : Nat) : Bool := s.groups.any (fun g => g.launch = some l && !g.leaving && s.copyOut g)

/-- LAUNCH_END (R288, R292, R412, R413): the first fault of a launch ends it. Its running tasks are aborted, its listed tasks are
dropped, its other faults are discarded, the log takes it, and its record is written once the tasks that retire have retired. It is an
escalation that the firmware cores serve, and waits while they change images (R443). -/
def execLaunchEnd (lid : Nat) (s : State) : Host.Outcome State Fault Refusal :=
  match firstFault (s.faults.filter (fun f => f.launch = lid)) with
  | none => .next s
  | some f =>
    if s.host.fwNext.isSome || s.launchOut lid then .next s
    else
    let s := (s.abortRunning lid)
    let s := { s with faults := s.faults.filter (fun x => x.launch ≠ lid) }
    let s := s.updLaunch lid (fun l => { l with
      dropped := l.dropped + l.tasks.length
      tasks := []
      fault := some (f.code, f.pc) })
    let s := s.logEntry 0 f.code.toNat f.ctx f.facet 0xFF 0 f.pc.toNat (s.facet f.facet).ref.toNat
    match s.launch? lid with
    | some l => .next (if s.groups.any (fun g => g.launch = some lid) then s else s.finishLaunch l)
    | none => .next s

/-! ### Waves that wait (R296, R318, R353) -/

/-- FAIRNESS_RUN (R296): the counter of a wave has reached 4,096, and a run begins. -/
def execFairnessRun (gid wid : Nat) (s : State) : Host.Outcome State Fault Refusal :=
  .next (s.updWave gid wid Wave.startRun)

/-- SLEEP_WAKE (R318): a sleep whose cycles have passed ends. -/
def execSleepWake (gid wid : Nat) (s : State) : Host.Outcome State Fault Refusal :=
  match (s.group? gid).bind (fun g => (g.wave? wid).map (fun w => (g, w))) with
  | none => .next s
  | some (g, w) =>
    match w.park with
    | .sleep d =>
      .next (if g.stat = .resident && d.toNat ≤ (s.facet g.facet).ref.toNat
        then s.updWave gid wid (fun w => { w with park := .no, parkedAt := 0 }) else s)
    | _ => .next s

/-- TIMER_EXPIRE (R335, R353): a timer whose deadline has come expires. The calls of the cycle have been performed by then, and the
wait sets are evaluated at its clock edge (assumption 77). -/
def execTimerExpire (facet idx : Nat) (s : State) : Host.Outcome State Fault Refusal :=
  match s.objAt facet idx with
  | none => .next s
  | some o =>
    if timerDue (s.facet facet).ref o then
      .next ((s.updObj facet idx (fun o => match o.kind with
        | .timer d _ _ => { o with kind := .timer d true true }
        | _ => o)).updFacet facet (fun f => { f with closed := true }))
    else .next s

end Sys2Proof.Machine
end

