-- ==== Sys2Proof/Machine/Save.lean ====
section
/-! DEFINITION. Escalation answers, pre-emption, saves and restores, and the bench: RESUME_RETRY to GROUP_RESTORE, BENCH_PLACE,
STAND_DOWN and STOOD_DOWN_WAKE (R340 to R342, R415, R423 to R428). -/

namespace Sys2Proof.Machine

open Sys2Proof

/-! ### Answers and requests (R415, R423) -/

/-- RESUME_RETRY (R415). -/
def execResumeRetry (token : Nat) (s : State) : Host.Outcome State Fault Refusal := .next (s.answer token true)

/-- RESUME_END (R415). -/
def execResumeEnd (token : Nat) (s : State) : Host.Outcome State Fault Refusal := .next (s.answer token false)

/-- PREEMPT_WRITE (R423): a value with a bit outside its fields does nothing here (assumption 75); the SYSW that writes one raises the
illegal-use fault. -/
def execPreemptWrite (v : DWord) (s : State) : Host.Outcome State Fault Refusal :=
  .next (if preemptClean v.toNat then s.writePreempt v.toNat else s)

/-- The level of what has waited 1,000 edges for a place that a facet of its partition does not have: a launch, by its head, or a
benched or saved group (R423). -/
def State.overdue (s : State) (id facet : Nat) : Option Nat :=
  match s.launch? id, s.group? id with
  | some l, _ =>
    if (l.pending || l.waits) && l.headFrom + 1000 ≤ s.edges && s.owns l.ctx facet && !s.launchFits l facet then some l.level else none
  | none, some g =>
    if (g.stat = .benched || g.stat = .saved) && g.since + 1000 ≤ s.edges && s.owns g.ctx facet && (g.free.isNone || g.facet = facet)
        && !s.placeable facet g.waves.length g.cur g.full g.spillSize 0 then some (s.levelOf g) else none
  | none, none => none

/-- PRIORITY_PREEMPT (R423): for a realtime or high group unplaced for 1,000 reference cycles, a request to the most recently placed
group of a less urgent level on the facet. -/
def execPriorityPreempt (id facet : Nat) (s : State) : Host.Outcome State Fault Refusal :=
  match s.overdue id facet with
  | none => .next s
  | some level =>
    let gs := s.groups.filter (fun g => g.stat = .resident && g.facet = facet && !g.firmware && level < s.levelOf g)
    let last := gs.foldl (fun acc g => max acc g.placed) 0
    match gs.find? (fun g => g.placed = last) with
    | some g => .next (if level ≤ 1 then s.postPreempt g.id 5000 else s)
    | none => .next s

/-- SAVE_DEADLINE (R317, R424): at the deadline of a request every wave of the group that still runs stops at its next instruction
boundary. A task whose allowance runs out in the same cycle exhausts it instead (R427). -/
def execSaveDeadline (gid : Nat) (s : State) : Host.Outcome State Fault Refusal :=
  match s.group? gid with
  | none => .next s
  | some g =>
    match g.preempt with
    | some p =>
      .next (if s.allowDue g then s.expireAllow g
        else if g.stat = .resident && p.deadline.toNat ≤ (s.facet g.facet).ref.toNat
        then s.updGroup gid (fun g => { g with preempt := some { p with forced := true } }) else s)
    | none => .next s

/-! ### Saves and restores (R281, R424 to R426) -/

/-- Whether a group can be saved now: its waves have all stopped, no matrix instruction of it is started, no call of it that its home
engine has begun is unfinished, no region operation of it waits, and it does not retire (R288, R329, R359, R424). -/
def Group.stopped (g : Group) : Bool :=
  g.stat = .resident && g.allStopped && !g.started && !g.waves.any (fun w => w.cmds.any Cmd.calling) && !g.liveWaves.isEmpty && !g.waves.any (fun w => match w.park with
    | .sfree _ _ => true
    | _ => false)

/-- The groups that are saved and restored with a group: those of a concurrent launch together (R281). -/
def State.together (s : State) (g : Group) : List Group :=
  match g.launch.bind s.launch? with
  | some l => if l.recd.pclass = 0 then s.groups.filter (fun x => x.launch = some l.id) else [g]
  | none => [g]

/-- The place of a save among all saves: that of the stop of its group, or of the last group of a concurrent launch to stop, since its
groups are saved together (R281, R424, assumption 91). -/
def State.stopPlace (s : State) (g : Group) : Option Nat :=
  let gs := s.together g
  if gs.all (fun x => x.stopAt.isSome) then some ((gs.filterMap Group.stopAt).foldl max 0) else none

/-- Whether the collector of a facet has no group to save before a stop at a place: the saves of a facet follow the order of the stops
(R424). -/
def State.nextAt (s : State) (facet place : Nat) (gs : List Group) : Bool :=
  !s.groups.any (fun x => x.stat = .resident && x.facet = facet && !gs.any (fun y => y.id = x.id) && (s.stopPlace x).any (· < place))

/-- Whether the collector of a group's facet has no group to save before it. -/
def State.nextSaved (s : State) (gs : List Group) (g : Group) : Bool := (s.stopPlace g).all (fun n => s.nextAt g.facet n gs)

/-- Whether the cancel bit of a group's facet is set for its launch (R290). -/
def State.cancelled (s : State) (g : Group) : Bool := (g.launch.bind s.launch?).any (fun l => l.bits.getLsbD g.facet)

/-- GROUP_SAVE (R424, R425, R427): under a set cancel bit it is a check point, and the task aborts (R291). A task whose allowance has run
out exhausts it instead, and a fault that ends the launch ends the save. -/
def execGroupSave (gid : Nat) (s : State) : Host.Outcome State Fault Refusal :=
  match s.group? gid with
  | none => .next s
  | some g =>
    let gs := s.together g
    if !gs.all (fun x => x.stopped && !s.copyOut x && s.nextSaved gs x && (x.free.isNone || s.benchRoom x.facet))
        || s.faults.any (fun f => g.launch = some f.launch) then .next s
    else if gs.any s.allowDue then .next (gs.foldl (fun s x => s.expireAllow x) s)
    else .next (gs.foldl (fun t x => if s.cancelled x then t.abortTask x.id else t.saveGroup x.id .saved true) s)

/-- Groups put back, each at its place; none where one has no room. -/
def State.seatAll : State → List Group → List (Nat × List Nat) → Option State
  | s, [], [] => some s
  | s, g :: gs, (f, cores) :: ps =>
    match s.seat g.id f cores with
    | none => none
    | some s => State.seatAll s gs ps
  | _, _, _ => none

/-- Whether a saved group may be restored on a facet now: it is no free wave, which its bench restores, a task of a parallel launch comes
after those before it in start order, and no more urgent new group could be placed there (R280, R283, R340, R426). -/
def State.mayRestore (s : State) (g : Group) (facet : Nat) : Bool :=
  g.stat = .saved && g.free.isNone
    && (match g.launch.bind s.launch? with
        | some l => !s.savedBefore l g.task.order
        | none => true)
    && !(s.partLaunches g.ctx).any (fun x => x.pending && x.level < s.levelOf g && s.launchFits x facet)

/-- GROUP_RESTORE (R281, R283, R426). `places` has a facet and cores for each group that is restored together. -/
def execGroupRestore (gid : Nat) (places : List (Nat × List Nat)) (s : State) : Host.Outcome State Fault Refusal :=
  match s.group? gid with
  | none => .next s
  | some g =>
    let gs := s.together g
    if !(gs.zip places).all (fun (x, p) => s.mayRestore x p.1) then .next s
    else .next (s.unless ((s.seatAll gs places).getD s))

/-! ### The bench (R340 to R342) -/

/-- BENCH_PLACE (R340): the head of the most urgent level of a facet's bench is placed on a core, unless a more urgent group is placed
first or a concurrent launch keeps a new wave out. -/
def execBenchPlace (facet core : Nat) (s : State) : Host.Outcome State Fault Refusal :=
  match s.benchHead facet with
  | none => .next s
  | some (n, g) =>
    let level := benchClass n
    let urgent := (s.partLaunches g.ctx).any (fun x => x.pending && x.level < level && s.launchFits x facet)
    if (g.stat ≠ .benched && g.stat ≠ .saved) || g.facet ≠ facet || urgent || (g.placed = 0 && s.closed g.ctx level 0) then .next s
    else
      match s.seat g.id facet [core] with
      | none => .next s
      | some t => .next (s.unless (t.updFacet facet (fun f => { f with bench := f.bench.filter (fun x => x.2 ≠ g.id) })))

/-- Whether a free wave's park can stand it down: it waits on a wait set, or on commands of the PORT class only (R341). -/
def Wave.eligible (w : Wave) : Bool :=
  !w.dead && (match w.park with
    | .wwait _ _ _ => true
    | .retry true (some _) => true
    | _ => false)

/-- Whether a resident free wave can be stood down. -/
def Group.eligible (g : Group) : Bool := g.free.isSome && g.stat = .resident && !g.started && g.waves.all Wave.eligible

/-- The cycle since which a free wave is parked. -/
def Group.parkedAt (g : Group) : Nat := (g.waves.head?.map (fun w => w.parkedAt.toNat)).getD 0

/-- STAND_DOWN (R341): a parked free wave gives up its slot, after 1,000,000 reference cycles, or when the bench head has no room and no
eligible wave of the facet has been parked longer; the facet must have room for one more that holds no slot (R340), and its collector no
earlier stop to save (R424). -/
def execStandDown (gid : Nat) (s : State) : Host.Outcome State Fault Refusal :=
  match s.group? gid with
  | none => .next s
  | some g =>
    let old := g.parkedAt + 1000000 ≤ (s.facet g.facet).ref.toNat
    let needed := (match s.benchHead g.facet with
      | some (_, x) => !s.benchFits g.facet x
      | none => false) && s.groups.all (fun x => !(x.facet = g.facet && x.eligible) || g.parkedAt ≤ x.parkedAt)
    .next (if g.eligible && !s.copyOut g && (old || needed) && s.benchRoom g.facet && s.nextAt g.facet s.tick [g] then
      (s.saveGroup gid .stoodDown false).count g.facet g.ctx 11 1
    else s)

/-- Whether the park of a stood-down wave has ended (R342). -/
def Wave.woken (w : Wave) : Bool :=
  match w.park with
  | .no => true
  | .retry _ (some seqs) => seqs.all (fun q => match w.cmd? 6 q with
    | some c => c.stage = .signalled
    | none => true)
  | _ => false

/-- STOOD_DOWN_WAKE (R342). -/
def execStoodDownWake (gid : Nat) (s : State) : Host.Outcome State Fault Refusal :=
  match s.group? gid with
  | none => .next s
  | some g =>
    match g.free with
    | none => .next s
    | some fw =>
      .next (if g.stat = .stoodDown && g.waves.all Wave.woken then
        (s.updGroup gid (fun g => { g with stat := .benched, since := s.edges })).updFacet g.facet
          (fun f => { f with bench := f.bench ++ [(fw.level, gid)] })
        else s)

end Sys2Proof.Machine
end

