-- ==== Sys2Proof/Machine/HostPort.lean ====
section
/-! DEFINITION. BAR0 and the driver's commands, the host port and bring-up: HOST_PORT_TRAIN to DRVCMD_BAD_OP, and COLD_RESET (R19, R35,
R404, R405, R434 to R447). -/

namespace Sys2Proof.Machine

open Sys2Proof

/-! ### What BAR0 reads (R436, R438, R440) -/

/-- 1 for true. -/
def flag (b : Bool) : Nat := if b then 1 else 0

/-- Whether a port that is up runs below 4 lanes or 224 Gb/s (LDEG). -/
def Port.degraded (x : Port) : Bool := x.state = 2 && (x.lanes ≠ 15#4 || x.speed ≠ 0)

/-- HEALTH (R436). A count that its field cannot hold reads as the greatest that it can (assumption 76). -/
def State.health (s : State) : DWord :=
  let h := s.host
  BitVec.ofNat 64 (h.uncorr * 2 ^ 48 + h.linksRet * 2 ^ 40 + min 255 h.coresOut * 2 ^ 32 + min 4095 h.banksOut * 2 ^ 20 + h.therm * 2 ^ 12
    + flag h.drained * 2 ^ 11 + flag h.fwBusy * 2 ^ 10 + flag (s.ports.any Port.degraded) * 2 ^ 9 + flag h.qerr * 2 ^ 8
    + flag h.lognew * 2 ^ 7 + flag h.replace)

/-- LINK_STAT of a port (R440). -/
def Port.stat (x : Port) : DWord :=
  BitVec.ofNat 64 (x.retrains * 2 ^ 32 + x.bucket * 2 ^ 28 + x.lanes.toNat * 2 ^ 20 + x.speed * 2 ^ 18 + x.state * 2 ^ 16)

/-- What an offset of BAR0 reads; an unlisted one reads 0 (R434, R436). -/
def State.bar0 (s : State) (off : Nat) : DWord :=
  let h := s.host
  match off with
  | 0x00 => s.health
  | 0x08 => h.winbase
  | 0x40 => h.drvcmd.setWidth 64
  | 0x48 => BitVec.ofNat 64 (h.result.toNat * 2 ^ 8 + flag h.overrun * 2 + flag h.busy)
  | 0x50 => h.args.getD 0 0
  | 0x58 => h.args.getD 1 0
  | 0x60 => h.args.getD 2 0
  | 0x68 => h.args.getD 3 0
  | 0x70 => BitVec.ofNat 64 h.logTail
  | off => if 0x1000 ≤ off && off < 0x10C0 && off % 8 = 0 then (s.port ((off - 0x1000) / 8)).stat else 0

/-- The host registers changed. -/
def State.updHost (s : State) (f : HostRegs → HostRegs) : State := { s with host := f s.host }

/-! ### Registers without a command (R434 to R438) -/

/-- What the host does takes place only once the host port is trained (R447). -/
def State.trained (s : State) (t : State) : State := if s.host.boot = 2 then t else s

/-- A read of BAR0: it gets no completion before the host port is trained (R447). -/
def State.readBar0 (s : State) (off : Nat) : Option DWord := if s.host.boot = 2 then some (s.bar0 off) else none

/-- HOST_PORT_TRAIN (R434, R435, R447): rate and width change bandwidth only; whether the host negotiates CXL decides R435. The host port is
trained after the firmware has started. -/
def execHostPortTrain (rate width : Nat) (cxl : Bool) (s : State) : Host.Outcome State Fault Refusal :=
  .next (if s.host.boot = 0 then s else s.updHost (fun h => { h with rate := rate, width := width, cxl := cxl, boot := 2 }))

/-- HEALTH_WRITE (R436): QERR and LOGNEW are cleared by a 1. -/
def execHealthWrite (v : DWord) (s : State) : Host.Outcome State Fault Refusal :=
  .next (s.trained (s.updHost (fun h => { h with qerr := h.qerr && !v.getLsbD 8, lognew := h.lognew && !v.getLsbD 7 })))

/-- DRVSTAT_WRITE (R438): OVER is cleared by a 1. -/
def execDrvstatWrite (v : DWord) (s : State) : Host.Outcome State Fault Refusal :=
  .next (s.trained (s.updHost (fun h => { h with overrun := h.overrun && !v.getLsbD 1 })))

/-- REGISTER_WRITE (R434, R436): WINBASE keeps bits [39:36], DRVARG0 to DRVARG3 keep the value, and every other offset ignores it. -/
def execRegisterWrite (off : Nat) (v : DWord) (s : State) : Host.Outcome State Fault Refusal :=
  .next (s.trained (s.updHost (fun h =>
    match off with
    | 0x08 => { h with winbase := v &&& 0xF000000000#64 }
    | 0x50 => { h with args := h.args.set 0 v }
    | 0x58 => { h with args := h.args.set 1 v }
    | 0x60 => { h with args := h.args.set 2 v }
    | 0x68 => { h with args := h.args.set 3 v }
    | _ => h)))

/-! ### Device commands (R438) -/

/-- An argument of the command. -/
def State.arg (s : State) (i : Nat) : Nat := (s.host.args.getD i 0).toNat

/-- A RESULT written: BUSY is then 0. -/
def State.result (s : State) (r : Byte) : State := s.updHost (fun h => { h with result := r, busy := false })

/-- A DRVCMD write: discarded with OVER while a command runs, and refused with RESULT 3 after a DRAIN has begun or after a trip, unless
it is DRAIN (R438, R446); so is an OP that is no command (assumption 111). -/
def State.command (s : State) (op : BitVec 4) (body : State → State) : State :=
  if s.host.boot ≠ 2 then s
  else if s.host.busy then s.updHost (fun h => { h with overrun := true })
  else
    let s := s.updHost (fun h => { h with drvcmd := op })
    if (s.host.draining || s.host.therm = 3) && op ≠ 5#4 then s.result 3#8 else body s

/-- DRVCMD_BAD_OP (R438). -/
def execDrvcmdBadOp (op : BitVec 4) (s : State) : Host.Outcome State Fault Refusal :=
  .next (if op = 0#4 || 9#4 ≤ op then s.command op (fun s => s.result 1#8) else s)

/-- A queue in ERROR cleared: skip consumes the packet at READ, retry keeps it, and discard empties the queue (R441). -/
def State.clearQueue (s : State) (q : Queue) (action : Nat) : State :=
  let skipTo := fun (s : State) (rd : Nat) => (s.cbWrite q 24 8 rd).setQueue { q with
    idleFrom := s.edges
    tails := q.tails.filter (fun x => rd < x.1) }
  let s := match action with
    | 0 =>
      (match s.fetchKeys (q.slot.elim (homeFacet q.key) (fun x => x.1)) q.ctx [(s.packetVa q, .write)] with
       | (.ok (k :: _), s) => s.consume q k
       | (_, s) => skipTo s (s.qRead q + 1))
    | 2 => skipTo s (s.qTail q)
    | _ => s
  ((s.cbWrite q 33 1 0).cbWrite q 40 8 0).cbWrite q 32 1 1

/-- QCLEAR (R441). -/
def execQclear (s : State) : Host.Outcome State Fault Refusal :=
  .next (s.command 1#4 (fun s =>
    match s.queues.find? (fun q => q.ctx = s.arg 1 % 2 ^ 16 && q.va.toNat = s.arg 0) with
    | some q => if s.qState q ≠ 3 || 2 < s.arg 2 || 2 ^ 16 ≤ s.arg 1 then s.result 1#8 else (s.clearQueue q (s.arg 2)).result 0#8
    | none => s.result 1#8))

/-- A host address that a command may name: `n` bytes within 48 bits (R193). -/
def hostRange (a n : Nat) : Bool := a + n ≤ 2 ^ 48

/-- A BIAS that runs goes on: pages are flipped in ascending order up to the first that must wait for device requests accepted for it, and
after the last the command is done (R259, R442, assumption 45). What is left of it stays in its arguments. -/
def State.runBias (s : State) : State :=
  if !(s.host.busy && s.host.drvcmd = 2#4) then s
  else
    let arg := fun (i : Nat) => (s.host.runArgs.getD i 0).toNat
    let pages := (List.range (arg 1)).map (fun i => arg 0 / 4096 + i)
    let now := pages.takeWhile (fun p => arg 2 = 1 || !s.pageBusy p)
    let t := now.foldl (fun s p => if arg 2 = 1 then s.flipDevice p else s.flipHost p) s
    if now.length = pages.length then t.result 0#8
    else t.updHost (fun h => { h with
      runArgs := [BitVec.ofNat 64 (arg 0 + 4096 * now.length), BitVec.ofNat 64 (arg 1 - now.length), BitVec.ofNat 64 (arg 2), 0] })

/-- BIAS (R259, R442): BUSY until every page of the range is flipped. -/
def execBias (s : State) : Host.Outcome State Fault Refusal :=
  .next (s.command 2#4 (fun s =>
    if s.arg 0 % 4096 ≠ 0 || s.arg 1 = 0 || 262144 < s.arg 1 || 1 < s.arg 2 || 2 ^ 40 < s.arg 0 + 4096 * s.arg 1 then s.result 1#8
    else (s.updHost (fun h => { h with busy := true, runArgs := h.args })).runBias))

/-- PAGEANS (R415, R442): the firmware core writes RESUME with the driver's answer. -/
def execPageans (s : State) : Host.Outcome State Fault Refusal :=
  .next (s.command 3#4 (fun s => if 1 < s.arg 1 then s.result 1#8 else (s.answer (s.arg 0) (s.arg 1 = 0)).result 0#8))

/-- FWUPD (R404, R443): the image is read from device memory and verified. One that is refused leaves everything else as it was; for one
that is accepted, the dies change images next. A Length of 0 is a bad argument (assumption 111). An event that names another verdict or
version than the image's bytes give is not due. -/
def execFwupd (accepted : Bool) (version : Nat) (s : State) : Host.Outcome State Fault Refusal :=
  .next (s.command 4#4 (fun t =>
    if t.arg 0 % 4096 ≠ 0 || t.arg 1 = 0 || 2 ^ 40 < t.arg 0 + t.arg 1 then t.result 1#8
    else
      let image := t.readBytes 0 (t.arg 0) (t.arg 1)
      if accepted ≠ Config.imageVerifies image || version ≠ Config.imageVersion image then s
      else if !accepted || version < t.host.fwMin || version < t.host.fwVersion then t.result 2#8
      else t.updHost (fun h => { h with fwBusy := true, busy := true, fwNext := some version, fwNew := image })))

/-- FWUPD_SWITCH (R443): every die has switched; the log takes it, the escalations that have waited are served on the new image, and the
command is done. -/
def execFwupdSwitch (s : State) : Host.Outcome State Fault Refusal :=
  match s.host.fwNext with
  | none => .next s
  | some v =>
    let held := s.host.fwHeld
    let s := s.updHost (fun h => { h with fwVersion := v, fwImage := h.fwNew, fwNext := none, fwNew := [], fwHeld := [] })
    let s := s.logEntry 7 0 0 0 0xFF 0 0 (s.facet 0).ref.toNat
    let s := held.zipIdx.foldl (fun s x => s.servePage x.1 0x305 x.2) s
    .next ((s.result 0#8).updHost (fun h => { h with fwBusy := false }))

/-- Whether a vector and a number of entries suit a ring of LOGSET or PRSET (R438). Every ring has a vector (assumption 106). -/
def ringOk (n v : Nat) : Bool := (List.range 11).any (fun k => n = 64 * 2 ^ k) && v < 2048

/-- LOGSET (R438, R439): LOGTAIL counts from here. -/
def execLogset (s : State) : Host.Outcome State Fault Refusal :=
  .next (s.command 7#4 (fun s =>
    if !ringOk (s.arg 1) (s.arg 2) || !hostRange (s.arg 0) (32 * s.arg 1) then s.result 1#8
    else (s.updHost (fun h => { h with
      logBase := BitVec.ofNat 64 (s.arg 0)
      logSize := s.arg 1
      logVec := s.arg 2
      logTail := 0 })).result 0#8))

/-- PRSET (R438, R442). -/
def execPrset (s : State) : Host.Outcome State Fault Refusal :=
  .next (s.command 8#4 (fun s =>
    if !ringOk (s.arg 1) (s.arg 2) || !hostRange (s.arg 0) (32 * s.arg 1) then s.result 1#8
    else (s.updHost (fun h => { h with
      prBase := BitVec.ofNat 64 (s.arg 0)
      prSize := s.arg 1
      prVec := s.arg 2
      prTail := 0 })).result 0#8))

/-- A list of bytes cut or filled to a length. -/
def sized (n : Nat) (l : List Byte) : List Byte := (List.range n).map (fun i => l.getD i 0)

/-- The attestation report of this moment (R405). -/
def State.report (s : State) (nonce : List Byte) : List Byte :=
  toBytes 256 (ofBytes nonce * 2 ^ 1536 + ofBytes (sized 64 (Config.firmwareHash s.host.fwImage)) * 2 ^ 1024
    + ofBytes (sized 64 (Config.partitionHash s.parts (s.facets.map Facet.cores) (s.facets.map Facet.vbanks)
      ((List.range s.ports.length).filter (fun p => (s.port p).state = 3)))) * 2 ^ 512 + Config.serial.toNat * 2 ^ 448
    + s.host.fwVersion % 2 ^ 32 * 2 ^ 416 + s.peerId * 2 ^ 406 + flag s.host.replace * 2 ^ 405)

/-- ATTEST (R405, R438): the report and its signature are written to the host. -/
def execAttest (s : State) : Host.Outcome State Fault Refusal :=
  .next (s.command 6#4 (fun s =>
    if !hostRange (s.arg 0) 64 || !hostRange (s.arg 1) 388 then s.result 1#8
    else
    let r := s.report (s.readBytes 0 (hostKey (s.arg 0)) 64)
    (s.writeRaw 0 (hostKey (s.arg 1)) (r ++ sized 132 (Config.signature r))).result 0#8))

/-! ### Drain (R444) -/

/-- The facets of a mask, ascending. -/
def facetsOf (mask : Nat) : List Nat := (List.range 64).filter (fun f => mask.testBit f)

/-- Whether an engine has still to acknowledge the save of a group: a request of it to another package is out, or a call of it is begun
(R359, R424, R431). -/
def State.engineOut (s : State) (g : Group) : Bool := s.copyOut g || g.waves.any (fun w => w.cmds.any Cmd.calling)

/-- Every group and free wave of a facet saved with a deadline of 0; under a set cancel bit the task aborts, and one that retires is left
to (R288, R291, R424). What an engine has not acknowledged stands at its deadline and is saved later. -/
def State.saveFacet (s : State) (facet : Nat) : State :=
  (s.groups.filter (fun g => g.facet = facet && g.stat = .resident && !g.firmware)).foldl (fun s g =>
    let gs := s.together g
    gs.foldl (fun s x =>
      if x.stat ≠ .resident || x.leaving then s
      else if gs.any s.engineOut then s.updGroup x.id (fun y => { y with preempt := some ⟨(s.facet x.facet).ref, true⟩ })
      else if s.cancelled x then s.abortTask x.id
      else (s.finishStarted x).saveGroup x.id .saved true) s) s

/-- Whether work of a facet is not saved yet. -/
def State.unsaved (s : State) (facet : Nat) : Bool := s.groups.any (fun g => g.facet = facet && g.stat = .resident && !g.firmware && !g.leaving)

/-- DRAIN (R444), its first two steps: the fetchers of the facets stop with their queues IDLE, and all work there is saved, once the
engines have acknowledged. An empty mask is a bad argument (assumption 111). -/
def execDrain (s : State) : Host.Outcome State Fault Refusal :=
  .next (s.command 5#4 (fun s =>
    let fs := facetsOf (s.arg 1)
    if s.arg 0 % 2 ^ 21 ≠ 0 || fs.isEmpty || !hostRange (s.arg 0) (2 ^ 34 * (fs.foldl max 0 + 1 - fs.headD 0)) || !hostRange (s.arg 2) 64 then
      s.result 1#8
    else
      let s := s.updHost (fun h => { h with busy := true, draining := true, runArgs := h.args })
      let s := fs.foldl (fun s f => (s.mapped f).foldl (fun s q => s.unmap q) s) s
      let s := fs.foldl (fun s f => s.saveFacet f) s
      fs.foldl (fun s f => s.updFacet f (fun x => { x with stopped := true })) s))

/-- Whether a sector lies in the part of its quarter that the firmware has set aside for save areas, deferred areas and context blocks, or
for the object table: the highest bytes of the quarter, as the model places them (R37, R333, R425, assumption 25). -/
def State.setAside (s : State) (sec : Nat) : Bool :=
  2 ^ 34 ≤ sec % 2 ^ 28 * 64 + 64 + (s.facet (sec / 2 ^ 28)).reserve + 2 ^ 25

/-- A sector decrypted under its owner's key, encrypted under the drain key, and written to the host. What is saved of groups, free waves
and objects stands in the part of the quarter that is set aside, in a form that no rule gives: the bytes there are free, but for those
that an agent has written. Free too is what stands under a key that has been destroyed (R202, R444, assumption 25). -/
def State.drainSector (s : State) (key : List Byte) (dest base sec : Nat) : State :=
  let mark := look 0 s.keyed sec
  let bytes := if (mark = 0 && s.setAside sec) || 2 ^ 17 ≤ mark then (List.range 8).flatMap (fun i => toBytes 8 (Config.freeWord s.tick (2 ^ 41 + sec * 8 + i)).toNat)
    else s.readBytes (mark - 1) (sec * 64) 64
  s.writeRaw 0 (hostKey (dest + (sec * 64 - base))) (sized 64 (Config.xtsEncrypt key (sec * 64) bytes))

/-- DRAIN_COMPLETE (R444): the rest of the second step, and the last two. -/
def execDrainComplete (s : State) : Host.Outcome State Fault Refusal :=
  let h := s.host
  let arg := fun (i : Nat) => (h.runArgs.getD i 0).toNat
  let fs := facetsOf (arg 1)
  let s := if h.draining && h.busy then fs.foldl (fun s f => s.saveFacet f) s else s
  if !h.draining || !h.busy || fs.any s.unsaved then .next s
  else
    let base := fs.headD 0 * 2 ^ 34
    let key := s.readBytes 0 (hostKey (arg 2)) 64
    let s := fs.foldl (fun s f => (List.range (2 ^ 28)).foldl (fun s i => s.drainSector key (arg 0) base (f * 2 ^ 28 + i)) s) s
    .next ((s.updHost (fun h => { h with drained := true })).result 0#8)

/-! ### Bring-up (R19, R35, R447) -/

/-- The failing cores of a die in the order of the boot test. -/
def bootFailing (b : Boot) (die : Nat) : List (Nat × Nat) :=
  (List.range 32).filterMap (fun i =>
    let x := (die * 4 + i / 8, i % 8)
    if b.failed.contains x then some x else none)

/-- The cores that are mapped out: the spare takes the place of the first failing core of a die (R19). -/
def bootOut (b : Boot) : List (Nat × Nat) := (List.range 16).flatMap (fun die => (bootFailing b die).drop 1)

/-- The register-file banks that are mapped out, on cores that remain (R35). A faulty bank of a core that is itself mapped out is not
counted (assumption 99). -/
def bootBanks (b : Boot) : List (Nat × Nat × Nat) :=
  (distinct b.badBanks).filter (fun (f, c, k) => f < 64 && c < 8 && k < 32 && !(bootOut b).contains (f, c))

/-- A facet after the boot test. -/
def bootFacet (b : Boot) (f : Nat) : Facet :=
  { Facet.reset with
    ref := BitVec.ofNat 64 (b.skew.getD f 0)
    cores := BitVec.ofNat 8 ((List.range 8).foldl (fun acc c => if (bootOut b).contains (f, c) then acc else acc + 2 ^ c) 0)
    vbanks := (List.range 8).map (fun c => BitVec.ofNat 32 ((List.range 32).foldl (fun acc k =>
      if (bootBanks b).contains (f, c, k) then acc else acc + 2 ^ k) 0)) }

/-- The wave that starts on the firmware core of a die, with the largest allotments of a free wave (R338, R447, assumption 65). -/
def bootGroup (id : Nat) (start : Nat × DWord) : Group :=
  let a : Allot := ⟨256, 384, 393216, 32⟩
  let w := newWave 0 8 0 (BitVec.allOnes 64) start.2 0 0
  newGroup id 0 (start.1 % 16 * 4) none ⟨0, 0, 0, 0, 0, 0, 0, [], none⟩ (64, 1, 1) [w] a a (List.replicate 8 0#16) 0 4095 false 0

/-- The image in flash verified and started: the firmware cores run from then on; an image that fails leaves them stopped, and bring-up
goes no further (R404, R447). -/
def State.startFirmware (s : State) (b : Boot) : State :=
  if !Config.imageVerifies b.flash || Config.imageVersion b.flash < s.host.fwMin then s.updHost (fun h => { h with boot := 0 })
  else
    let s := (b.load.filter (fun x => x.1 + x.2.length ≤ 2 ^ 40)).foldl (fun (s : State) x => s.writeRaw 0 x.1 x.2) s
    { s.updHost (fun h => { h with boot := 1, fwImage := b.flash, fwVersion := Config.imageVersion b.flash }) with
      fwRoot := some b.root
      nextId := s.nextId + b.start.length
      groups := b.start.mapIdx (fun i x => bootGroup (s.nextId + i) x) }

/-- COLD_RESET (R19, R35, R436, R447): the machine after reset with what the fuses and the boot test bring, and with the firmware of the
flash started, up to the training of the host port. Each counter has come as far as `skew` says, since none is synchronised with another
(R43, R364, assumption 72). Memory outside the package, and what has left it, stay as they are. -/
def execColdReset (b : Boot) (s : State) : Host.Outcome State Fault Refusal :=
  let cores := (bootOut b).length
  let banks := (bootBanks b).length
  let t : State := { State.reset with
    tick := s.tick
    edges := s.edges
    nextId := s.nextId
    agenda := s.agenda
    peerId := b.peer
    mem := s.mem.filter (fun c => 2 ^ 48 ≤ c.1)
    facets := (List.range 64).map (bootFacet b)
    routers := (List.range 18).map (fun r => { Router.reset with ref := BitVec.ofNat 64 (b.skew.getD (64 + r) 0) })
    outbox := s.outbox
    irqs := s.irqs
    host := { HostRegs.reset with
      coresOut := cores
      banksOut := banks
      replace := decide (0 < cores) || decide (0 < banks)
      fwMin := s.host.fwMin } }
  .next (t.startFirmware b)

end Sys2Proof.Machine
end

