-- ==== Sys2Proof/Machine/Network.lean ====
section
/-! DEFINITION. What arrives at a Finsel router and what runs out there: INTEREST_ARRIVE, TILE_ARRIVE, INTEREST_EXPIRE,
SHELF_COPY_EXPIRE and EXPIRY_NOTICE (R366 to R373, R385). -/

namespace Sys2Proof.Machine

open Sys2Proof

/-- The message at a place of the network, taken out of it. -/
def State.takeNet (s : State) (i : Nat) : Option (NetMsg × State) :=
  (s.net[i]?).map (fun m => (m, { s with net := s.net.eraseIdx i }))

/-- INTEREST_ARRIVE (R367, R368): an interest makes a record of the face it arrives on, which lives for the lifetime it carries. -/
def execInterestArrive (i : Nat) (s : State) : Host.Outcome State Fault Refusal :=
  match s.takeNet i with
  | some (⟨r, face, .interest key n⟩, t) =>
    .next (t.record r key ⟨.face face, 0, false, (t.router r).ref + BitVec.ofNat 64 n⟩)
  | _ => .next s

/-- TILE_ARRIVE (R370, R371, R373). Once a router has applied a withdrawal or an expiry of its cycle, a tile arrives in a later one
(R369). -/
def execTileArrive (i : Nat) (s : State) : Host.Outcome State Fault Refusal :=
  match s.takeNet i with
  | some (⟨r, _, .tile key bytes shelf announced⟩, t) => .next (if (s.router r).closed then s else t.tileAt r key bytes shelf announced)
  | _ => .next s

/-- The records of an entry whose deadline has come end: a local one completes with EXPIRED, and an entry left with none is removed.
They end after the tiles and the withdrawals of the cycle, so no more of it are applied (R369). -/
def State.expireDue (s : State) (r : Nat) (key : TileKey) : State :=
  match (s.router r).entries.find? (fun e => e.key = key) with
  | none => s
  | some e =>
    let now := (s.router r).ref.toNat
    let due := fun (x : IntRec) => decide (x.deadline.toNat ≤ now)
    let s := s.updRouter r (fun rt => { rt with
      closed := rt.closed || e.recs.any due
      expired := rt.expired || e.recs.any due
      entries := (rt.entries.map (fun e =>
        if e.key = key then { e with recs := e.recs.filter (fun x => !due x) } else e)).filter (fun e => !e.recs.isEmpty) })
    (e.recs.filter due).foldl (fun s x => s.expireRec x) s

/-- INTEREST_EXPIRE (R369). -/
def execInterestExpire (r : Nat) (key : TileKey) (s : State) : Host.Outcome State Fault Refusal := .next (s.expireDue r key)

/-- Whether the shelf lifetime of a home copy has run out (R373). -/
def Shelf.due (c : Shelf) (ref : DWord) : Bool := c.home && c.expires.toNat ≤ ref.toNat

/-- SHELF_COPY_EXPIRE (R373). -/
def execShelfCopyExpire (r : Nat) (key : TileKey) (s : State) : Host.Outcome State Fault Refusal :=
  .next (s.updRouter r (fun rt => { rt with shelf := rt.shelf.filter (fun c => !(c.key = key && c.due rt.ref)) }))

/-- EXPIRY_NOTICE (R385): the entry whose interest was forwarded on the face that the notice arrives on expires, and the notice goes
on. -/
def execExpiryNotice (i : Nat) (s : State) : Host.Outcome State Fault Refusal :=
  match s.takeNet i with
  | some (⟨r, face, .notice key⟩, t) =>
    match (t.router r).entries.find? (fun e => e.key = key && e.fwd.any (fun x => x.1 = face)) with
    | some e => .next (t.expireEntry r e)
    | none => .next t
  | _ => .next s

/-- Everything of a router that runs out at its counter: records and home copies (R369, R373). -/
def State.expireRouter (s : State) (r : Nat) : State :=
  let s := (s.router r).entries.foldl (fun s e => s.expireDue r e.key) s
  s.updRouter r (fun rt => { rt with shelf := rt.shelf.filter (fun c => !c.due rt.ref) })

end Sys2Proof.Machine
end

