-- ==== Sys2Proof/Machine/Links.lean ====
section
/-! DEFINITION. Brodone Link ports: flits, replays, training, the bucket of retrains and retirement (R385, R429 to R433). -/

namespace Sys2Proof.Machine

open Sys2Proof

/-! ### Retirement and retrains (R432, R433) -/

/-- The router of a port's link die, and its counter. -/
def portRouter (p : Nat) : Nat := (portFace p).1
def State.portRef (s : State) (p : Nat) : DWord := (s.router (portRouter p)).ref

/-- An error-log entry about a port (R439). -/
def State.portLog (s : State) (kind p : Nat) : State := s.logEntry kind 0 0 0 p 0 0 (s.portRef p).toNat

/-- A command whose requests' flits for some packages are discarded with a retired port: it completes with UNREACHABLE or OPEER, once what
it reaches elsewhere can be performed (R431, R433). -/
def State.loseRequest (s : State) (tag : Nat × Nat × Nat × Nat) (peers : List Nat) : State :=
  s.updCmd tag.1 tag.2.1 tag.2.2.1 tag.2.2.2 (fun c =>
    if c.posted && !c.done then { c with via := c.via.filter (fun x => !peers.contains x.1), lost := true } else c)

/-- A port retired: it carries nothing until cold reset, its replay buffer is discarded, its face goes down, no fabric route leads over
it, and its final training flit says so to the other end (R432, R433). -/
def State.retirePort (s : State) (p : Nat) : State :=
  if (s.port p).state = 3 then s
  else
    let lost := (s.port p).replay.filterMap (fun y => y.tag.map (fun t => (t, y.peer)))
    let s := s.updPort p (fun x => { x with state := 3, lanes := 0, speed := 3, replay := [], asked := none, final := true })
    let s := { s with host := { s.host with linksRet := s.host.linksRet + 1, replace := true } }
    let s := (distinct (lost.map Prod.fst)).foldl (fun s t => s.loseRequest t ((lost.filter (fun x => x.1 = t)).map Prod.snd))
      { s with fabric := s.fabric.filter (fun x => x.2 ≠ p) }
    (s.faceDown (portFace p).1 (portFace p).2).portLog 4 p

/-- The tokens that an hour of a router's counter drains, one from each port of the router that holds any (R432). -/
def State.drainHour (s : State) (r : Nat) : State :=
  let hour := (s.router r).ref.toNat / 360000000000
  if hour ≤ (s.router r).hour then s
  else
    let s := s.updRouter r (fun rt => { rt with hour := hour })
    { s with ports := s.ports.mapIdx (fun p x => if portRouter p = r then { x with bucket := x.bucket - 1 } else x) }

/-- A retrain begun, or a failed training attempt: it counts, a drain that is due comes first, and a token is added; at 8 the port is
retired (R432). -/
def State.addToken (s : State) (p : Nat) : State :=
  let s := (s.drainHour (portRouter p)).updPort p (fun x => { x with bucket := min 8 (x.bucket + 1) })
  if (s.port p).bucket = 8 then s.retirePort p else s

/-- The retrains of a port counted, saturating (R440). -/
def Port.counted (x : Port) : Port := { x with retrains := min 0xFFFFFFFF (x.retrains + 1) }

/-- A retrain: unless it fills the bucket, the port is trained again, and afterwards sends from the oldest flit that no ACK covers
(R430, R432). -/
def State.retrain (s : State) (p : Nat) : State :=
  let s := s.addToken p
  if (s.port p).state = 3 then s
  else
    (s.updPort p (fun x => { x.counted with
      state := 1
      lanes := 0
      speed := 3
      asked := none
      replay := x.replay.map (fun y => { y with fails := 0 }) })).portLog 3 p

/-! ### Flits (R429, R430) -/

/-- The flits that an ACK leaves in a replay buffer. A flit that enters the first 256 is sent now. -/
def Port.acked (x : Port) (ack : Nat) (now : DWord) : Port :=
  let sent := x.replay.take 256
  if sent.any (fun y => y.seq = ack) then
    let n := sent.findIdx (fun y => y.seq = ack) + 1
    { x with replay := (x.replay.drop n).mapIdx (fun i y => if 256 - n ≤ i then { y with at_ := now } else y) }
  else x

/-- One step of CRC-32, least significant bit first. -/
def crcStep (c : BitVec 32) : BitVec 32 := if c.getLsbD 0 then (c >>> 1) ^^^ 0xEDB88320#32 else c >>> 1

/-- CRC-32 of bytes with the polynomial of IEEE 802.3, as that standard computes it (R429, assumption 66). -/
def crc32 (bytes : List Byte) : BitVec 32 :=
  ~~~(bytes.foldl (fun c b => (List.range 8).foldl (fun c _ => crcStep c) (c ^^^ b.setWidth 32)) 0xFFFFFFFF#32)

/-- The trailer of a flit, and its fields (R429). -/
def flitTrailer (f : Flit) : Nat := ofBytes (f.bytes.drop 240)
def flitVc (f : Flit) : Nat := field (flitTrailer f) 2 2
def flitKind (f : Flit) : Nat := field (flitTrailer f) 4 4
def flitAck (f : Flit) : Nat := field (flitTrailer f) 8 12
def flitSeq (f : Flit) : Nat := field (flitTrailer f) 20 12

/-- Whether the CRC and the TAG of a flit are right under the key of a port (R429). -/
def flitGood (f : Flit) (key : Nat) : Bool :=
  field (flitTrailer f) 96 32 = (crc32 (f.bytes.take 252)).toNat && field (flitTrailer f) 32 64 = (Config.linkTag key (f.bytes.take 244)).toNat

/-- The lender of `n` bytes at a physical address that lie in a frame lent to another package (R349). -/
def State.lentTo (s : State) (peer pa n : Nat) : Option Nat :=
  if 4096 < pa % 4096 + n then none
  else (s.lends.find? (fun l => l.frame = pa / 4096 * 4096 && l.dest = 2 ^ 16 + peer)).map Lend.owner

/-- A read, changed or not, of `n` bytes of a lent frame for another package, indivisible at the home agent (R239, R349). -/
def State.forPeer (s : State) (peer pa n : Nat) (new : Nat → Nat) : State :=
  match s.lentTo peer pa n with
  | some o => s.storeMain o pa (toBytes n (new (s.readNum o pa n)))
  | none => s

/-- The bytes of a lent frame that an answer to another package brings (R349, R453). -/
def State.lentBytes (s : State) (peer pa n : Nat) : List Byte := (s.lentTo peer pa n).elim [] (fun o => s.readBytes o pa n)

/-- A message that another package sends to a port by its identity (R345, R349, R355): it is enqueued, or waits for a place unless it
must not. A port that has been freed, or that is not public any more, takes nothing. -/
def State.fromPeer (s : State) (x : Word) (nw : Bool) (m : Msg) : State :=
  match s.findObj m.ctx true x with
  | .ok ⟨_, _, _, .port d q ss _⟩ =>
    if q.length < d && ss.isEmpty then s.deposit (objFacet x) (objIdx x) m
    else if nw then s
    else s.updPort' (objFacet x) (objIdx x) (fun q ss rs => (q, ss ++ [⟨0, 0, 0, some m⟩], rs))
  | _ => s

/-- Whether a request cannot be applied in this cycle: the object engine of the port it is for has done with it, or performs another
call on the port (R334, R335). -/
def State.peerWaits (s : State) : PeerReq → Bool
  | .send x _ _ _ _ _ => (s.facet (objFacet x)).closed || s.objBusy x
  | _ => false

/-- What a flit of another package brings (R349, R355, R371, R430): a named-tile message; a request for a frame lent to it, which is served
under the lender's key, while no other frame is served (assumption 66); a message for a port; or a lent frame that returns. An answer
leaves as a flit of the responses, with the bytes that were read there or the handle word of the port that a name is bound to publicly. -/
def State.peerRequest (s : State) (p peer : Nat) (r : PeerReq) : State :=
  let reply := fun (t : State) (data : List Byte) => t.sendFlit p 1 none 0 data
  match r with
  | .net body => { s with net := s.net ++ [⟨(portFace p).1, (portFace p).2, body⟩] }
  | .load pa n => reply s (s.lentBytes peer pa n)
  | .store pa bytes => reply (match s.lentTo peer pa bytes.length with
    | some o => s.storeMain o pa bytes (if bytes.length ≤ 8 then 8 else 4)
    | none => s) []
  | .atomic op ty pa val => reply (s.forPeer peer pa (tySize ty) (fun old => atomOp op ty old val.toNat)) (s.lentBytes peer pa (tySize ty))
  | .cas ty pa old new =>
    reply (s.forPeer peer pa (tySize ty) (fun x => if x = old.toNat then new.toNat else x)) (s.lentBytes peer pa (tySize ty))
  | .xsum ty pa val => reply (s.forPeer peer pa 64 (fun x => cellAdd x (dec (fmtOf ty) val.toNat))) []
  | .look name => reply s ((s.names.find? (fun b => b.name = nameKey name && b.pub)).elim [] (fun b => toBytes 4 b.obj.toNat))
  | .send port nw label sender bytes frames => reply (s.fromPeer port nw
      { label := label, bytes := bytes, grants := frames.map (fun (f, w) => (peerKey peer f, w)), sender := sender, ctx := 2 ^ 16 + peer }) []
  | .giveBack frame => { s with lends := s.lends.filter (fun (l : Lend) => !(l.frame = frame && l.dest = 2 ^ 16 + peer)) }

/-- The flits of a port that is up sent again from a place in its replay buffer on, where the send of those that `failed` holds of has failed:
after three replays of one flit have failed the port retrains (R430). -/
def State.resend (s : State) (p from_ : Nat) (failed : Nat → Sent → Bool) : State :=
  if (s.port p).state ≠ 2 then s
  else
    let now := s.portRef p
    let again := fun (i : Nat) (y : Sent) =>
      if i < from_ then y else { y with fails := if failed i y then y.fails + 1 else y.fails, at_ := now }
    let tired := ((s.port p).replay.mapIdx (fun i y => decide (from_ ≤ i) && failed i y && decide (3 ≤ y.fails))).any id
    let s := s.updPort p (fun x => { x with replay := x.replay.mapIdx again })
    if tired then s.retrain p else s

/-- A send of a flit that failed, as a replay request for it says: every flit from it on is sent again (R430). -/
def State.sendFailed (s : State) (p seq : Nat) : State :=
  let at_ := (s.port p).replay.findIdx (fun y => y.seq = seq)
  if 256 ≤ at_ || (s.port p).replay.length ≤ at_ then s else s.resend p at_ (fun i _ => i = at_)

/-- The virtual channel that a message travels on (R429). -/
def peerVc : PeerReq → Nat
  | .net _ => 2
  | .look _ | .send _ _ _ _ _ _ => 3
  | .load _ _ | .store _ _ | .atomic _ _ _ _ | .cas _ _ _ _ | .xsum _ _ _ | .giveBack _ => 0

/-- A flit at a port that is up (R429, R430): one with a wrong CRC or TAG is discarded, and its ACK is not read. A data flit is accepted
with the SEQ that is expected next, and what it brings on its own channel takes place; any other data flit is answered by a replay request
that names that SEQ. A replay request makes the flits from the SEQ that it names be sent again. -/
def State.takeFlit (s : State) (p : Nat) (f : Flit) : State :=
  let x := s.port p
  if x.state ≠ 2 || f.msg.any (fun m => s.peerWaits m.2) then s
  else
    let good := flitGood f x.key
    let s := if good then s.updPort p (fun x => x.acked (flitAck f) (s.portRef p)) else s
    match flitKind f with
    | 1 =>
      if good && flitSeq f = x.expected then
        let s := s.updPort p (fun x => { x with expected := (x.expected + 1) % 4096, asked := none })
        f.msg.elim s (fun m => if peerVc m.2 = flitVc f then s.peerRequest p m.1 m.2 else s)
      else s.updPort p (fun x => { x with asked := some x.expected })
    | 3 => if good then s.sendFailed p f.names else s
    | _ => s

/-- FLIT_RECEIVE (R429, R430). -/
def execFlitReceive (p : Nat) (f : Flit) (s : State) : Host.Outcome State Fault Refusal := .next (s.takeFlit p f)

/-- REPLAY_REQUEST (R429, R430): a flit of KIND 3 that the other end has sent. -/
def execReplayRequest (p : Nat) (f : Flit) (s : State) : Host.Outcome State Fault Refusal :=
  .next (if flitKind f = 3 then s.takeFlit p f else s)

/-- ACK_TIMEOUT (R430): no ACK covers the oldest flit within 1,000 reference cycles of its last send. The send of every flit that is as old
has failed. -/
def execAckTimeout (p : Nat) (s : State) : Host.Outcome State Fault Refusal :=
  let due := fun (y : Sent) => decide (y.at_.toNat + 1000 ≤ (s.portRef p).toNat)
  .next (if (s.port p).replay.head?.any due then s.resend p 0 (fun i y => decide (i < 256) && due y) else s)

/-! ### Training (R431) -/

/-- The lowest-numbered lanes of a mask, `n` of them. -/
def lowestLanes (m : BitVec 4) (n : Nat) : BitVec 4 :=
  ((List.range 4).foldl (fun (acc : BitVec 4 × Nat) i =>
    if m.getLsbD i && 0 < acc.2 then (acc.1 ||| 1#4 <<< i, acc.2 - 1) else acc) (0#4, n)).1

/-- The configuration that both ends use: lanes and speed, 0 for 224 Gb/s to 2 for 56; none where they have no width or no speed. Bit k
of a set of speeds stands for speed k. -/
def linkConfig (maskA maskB : BitVec 4) (speedsA speedsB : BitVec 3) : Option (BitVec 4 × Nat) :=
  let common := maskA &&& maskB
  let n := popCount 4 common.toNat
  let width := if 4 ≤ n then 4 else if 2 ≤ n then 2 else n
  let both := speedsA &&& speedsB
  if width = 0 then none
  else ((List.range 3).find? (fun k => both.getLsbD k)).map (fun k => (lowestLanes common width, k))

/-- LINK_TRAINING (R429, R431, R432): an attempt ends with the configuration both ends compute and is up, under a key that the two ends
agree, which is free; or it fails, counts as a retrain, and leaves the port down (assumption 2). -/
def execLinkTraining (p : Nat) (maskA maskB : BitVec 4) (speedsA speedsB : BitVec 3) (verified : Bool) (s : State) :
    Host.Outcome State Fault Refusal :=
  if (s.port p).state ≠ 1 then .next s
  else
    let now := s.portRef p
    match linkConfig maskA maskB speedsA speedsB, verified with
    | some (lanes, speed), true =>
      .next (s.updPort p (fun x => { x with
        state := 2
        lanes := lanes
        speed := speed
        key := (Config.freeWord s.tick (0x60000 + p)).toNat
        replay := x.replay.map (fun y => { y with at_ := now }) }))
    | _, _ =>
      let s := (s.updPort p (fun x => { x.counted with
        state := 0
        lanes := 0
        speed := 3
        retryAt := now + 1000000 })).portLog 5 p
      .next (s.addToken p)

/-- TRAINING_RETRY (R431, R447): a port that is down is trained, after the host port at bring-up, and again 1,000,000 reference cycles after
an attempt that failed. -/
def execTrainingRetry (p : Nat) (s : State) : Host.Outcome State Fault Refusal :=
  .next (if s.host.boot = 2 && (s.port p).state = 0 && (s.port p).retryAt.toNat ≤ (s.portRef p).toNat
    then s.updPort p (fun x => { x with state := 1 }) else s)

/-- BUCKET_DRAIN (R432). -/
def execBucketDrain (r : Nat) (s : State) : Host.Outcome State Fault Refusal := .next (s.drainHour r)

/-- PEER_RETIRE_FLIT (R429, R432): the other end has retired its port, as its final training flit says, and this end retires too, whatever
its bucket holds. A flit with a wrong CRC or TAG is discarded. -/
def execPeerRetireFlit (x : PortFlit) (s : State) : Host.Outcome State Fault Refusal :=
  .next (if flitKind x.flit = 4 && flitGood x.flit (s.port x.port).key then s.retirePort x.port else s)

/-- Whether a route may stand at a router (R366, R380): its face exists and is none of a compute die's own faces 0 to 3. -/
def routeOk (r : Nat) (t : Route) : Bool := r < 18 && t.length ≤ 32 && faceExists r t.face && !(r < 16 && t.face < 4)

/-- ROUTE_REGENERATE (R366, R433, R447): once the host port is trained, the firmware cores build the fabric routes and the name routes
over the ports that remain; while they change images, it waits (R443). -/
def execRouteRegenerate (fabric : List (Nat × Nat)) (routes : List (Nat × Route)) (s : State) :
    Host.Outcome State Fault Refusal :=
  let live := fun (p : Nat) => p < 24 && (s.port p).state ≠ 3
  let ok := fabric.all (fun x => live x.2) && routes.all (fun x => routeOk x.1 x.2 &&
    (match facePort x.1 x.2.face with
     | some p => live p
     | none => true))
  let fits := (List.range 18).all (fun r => (routes.filter (fun x => x.1 = r)).length ≤ 1024)
  if !ok || !fits || s.host.fwNext.isSome || s.host.boot ≠ 2 then .next s
  else .next { s with
    fabric := fabric
    routers := s.routers.mapIdx (fun r rt => { rt with routes := (routes.filter (fun x => x.1 = r)).map (fun x => x.2) }) }

end Sys2Proof.Machine
end

