-- ==== Sys2Proof/Machine/Contexts.lean ====
section
/-! DEFINITION. Contexts, partitions and the reference clock: CONTEXT_CREATE, CONTEXT_END, PARTITION_CHANGE and
REFERENCE_CLOCK_EDGE (R42, R43, R350, R364, R373, R388 to R393, R399, R432, R445). -/

namespace Sys2Proof.Machine

open Sys2Proof

/-! ### Contexts (R391 to R393) -/

/-- A descriptor written to its place, under the key of context 0 (R391, assumption 82). -/
def State.writeDesc (s : State) (c : CtxDesc) (state : Nat) : State := s.storeMain 0 c.area (descRecord c state)

/-- CONTEXT_CREATE (R391, R392): a descriptor is made live and written to its 64 bytes, unless a field is out of its range, its number,
slot, name space or place is taken, or its name space is not of this package; and not before the host port is trained (R447). A context
that is ending still takes its own (assumption 110). -/
def execContextCreate (c : CtxDesc) (s : State) : Host.Outcome State Fault Refusal :=
  let space := c.nspace.toNat
  let ok := s.host.boot = 2 && 0 < c.num && c.num < 2 ^ 16 && 0 < c.kslot && c.kslot < 1024
    && space / 2 ^ 22 = s.peerId && space % 2 ^ 22 ≠ 0x3FFFFF
    && s.parts.contains (c.pbase, c.plog2) && c.pbase < 64 && c.plog2 ≤ 6
    && c.root % 65536 = 0 && c.root < 2 ^ 40 && ctxOwns c (homeFacet c.root)
    && c.area % 64 = 0 && c.area < 2 ^ 40
    && !s.ctxs.any (fun x => x.num = c.num || x.kslot = c.kslot || x.nspace = c.nspace || x.area = c.area)
  let t := s.writeDesc c 1
  .next (if ok then { t with ctxs := t.ctxs ++ [{ c with ending := false }] } else s)

/-- A launch ended with its context as a fault ends it: its running tasks are aborted and its listed ones dropped, and those that retire
go on (R288, R292, R393). One that is not accepted is no more. -/
def State.endWithContext (s : State) (l : Launch) : State :=
  let s := { s with faults := s.faults.filter (fun x => x.launch ≠ l.id) }
  let s := (s.abortRunning l.id).updLaunch l.id (fun l => { l with dropped := l.dropped + l.tasks.length, tasks := [] })
  if l.stat = .accepted then s else { s with launches := s.launches.filter (fun (x : Launch) => x.id ≠ l.id) }

/-- The objects of a context on a facet freed (R350, R356). -/
def State.freeObjects (s : State) (ctx facet : Nat) : State :=
  ((s.facet facet).objs.filter (fun o => o.ctx = ctx)).foldl (fun s o => s.freeObj facet o) s

/-- The name space of a message of the network. -/
def netSpace (m : NetMsg) : Word :=
  match m.body with
  | .interest k _ | .tile k _ _ _ | .notice k => k.nspace

/-- The interests and shelf copies of a name space removed from every router, and those that are on their way with them (R373). -/
def State.dropSpace (s : State) (space : Word) : State :=
  { s with
    net := s.net.filter (fun m => netSpace m ≠ space)
    routers := s.routers.map (fun (r : Router) => { r with
      entries := r.entries.filter (fun (e : IntEntry) => e.key.nspace ≠ space)
      shelf := r.shelf.filter (fun (c : Shelf) => c.key.nspace ≠ space) }) }

/-- The frames lent to a context return: a local one to its lender, and one of another package over its link (R348, R349). -/
def State.returnReceived (s : State) (n : Nat) : State :=
  let away := s.lends.filter (fun l => l.dest = n && 2 ^ 50 ≤ l.frame)
  away.foldl (fun s l =>
    match s.fabric.find? (fun y => y.1 = l.frame / 2 ^ 50) with
    | some (_, p) => s.sendFlit p 0 none
    | none => s) { s with lends := s.lends.filter (fun (l : Lend) => l.dest ≠ n) }

/-- The free waves of a context ended, as a WKILL ends them (R343, R393). -/
def State.endWaves (s : State) (ctx : Nat) : State :=
  (s.groups.filter (fun g => g.ctx = ctx && g.stat ≠ .exited)).foldl (fun s g => s.endFree g.id 0xFF 0 0) s

/-- Steps 2 to 4 of the end of a context, once its last task has retired: the records of its launches are written if they can be, its free
waves end, and once their commands have completed its objects are freed, the frames lent to it return, its regions are returned, the
counter banks it holds are released, and its translations are invalidated (R350, R356, R393, R403). -/
def State.emptyContext (s : State) (c : CtxDesc) : State :=
  let n := c.num
  if s.groups.any (fun g => g.ctx = n && g.launch.isSome) then s
  else
    let s := (s.launches.filter (fun l => l.ctx = n)).foldl State.finishLaunch s
    let s := ({ s with launches := s.launches.filter (fun (l : Launch) => l.ctx ≠ n) }).endWaves n
    if s.groups.any (fun g => g.ctx = n && g.waves.any (fun w => w.cmds.any (fun c => !c.done))) then s
    else
    let s := (List.range 64).foldl (fun s f => s.freeObjects n f) s
    let s := (s.groups.filter (fun g => g.ctx = n)).foldl (fun s g => s.dropGroup g.id) s
    let s := s.dropSpace c.nspace
    let gone := s.groups.map Group.id
    let s := { s with
      names := s.names.filter (fun (b : Binding) => b.ctx ≠ n)
      facets := s.facets.map (fun (f : Facet) => { f with
        regions := f.regions.filter (fun (r : Region) => r.ctx ≠ n)
        bench := f.bench.filter (fun x => gone.contains x.2)
        bank := if f.bank.owner = some n then Bank.clear else f.bank })
      tlb := s.tlb.filter (fun (t : TlbEntry) => t.ctx ≠ n) }
    (s.returnReceived n).dropCode n

/-- The end of a context begun: step 1, its queues are no more and its launches end, and what can follow at once (R393). -/
def State.beginEnd (s : State) (c : CtxDesc) : State :=
  let n := c.num
  let s := s.writeDesc c 2
  let s := { s with ctxs := s.ctxs.map (fun (x : CtxDesc) => if x.num = n then { x with ending := true } else x) }
  let s := (s.queues.filter (fun q => q.ctx = n)).foldl (fun s q => s.unmap q) s
  let s := (s.launches.filter (fun l => l.ctx = n)).foldl (fun s l => s.endWithContext l) s
  { s with queues := s.queues.filter (fun (q : Queue) => q.ctx ≠ n) }.emptyContext c

/-- What is left of the end of a context: steps 2 to 4 where they had to wait, and step 5. Its key is destroyed, which waits, as KEYSEL.DEL
does, until every command that reaches a frame under it is performed. Nothing of its name space is left, and the descriptor is free then
(R373, R393, R395). -/
def State.finishEnd (s : State) (c : CtxDesc) : State :=
  let s := s.emptyContext c
  if s.groups.any (fun g => g.ctx = c.num) || s.pinsLeft (fun _ p => p.owner = c.num) then s
  else
    let s := (s.keys.filter (fun y => y.2 = c.num)).foldl (fun s y => s.eraseKey y.1) (s.dropSpace c.nspace)
    { s with ctxs := s.ctxs.filter (fun (x : CtxDesc) => x.num ≠ c.num) }.writeDesc c 0

/-- CONTEXT_END (R350, R393, R403): the steps of R393 in order. The descriptor reads ending until step 5; what has to wait, the end of a
reference cycle takes as soon as nothing holds it back. -/
def execContextEnd (n : Nat) (s : State) : Host.Outcome State Fault Refusal :=
  match s.descOf n with
  | none => .next s
  | some c =>
    .next (if c.ending then s.finishEnd c
      else if s.launches.any (fun l => l.ctx = n && s.launchOut l.id) then s else s.beginEnd c)

/-! ### Partitions (R21, R42, R388, R390) -/

/-- Whether two ranges of facets meet. -/
def partsMeet (a b : Nat × Nat) : Bool := meets a.1 (2 ^ a.2) b.1 (2 ^ b.2)

/-- A facet as a partition change leaves it: its shelf share and reserve are set, and nothing of its scratchpad or objects is kept
(R42, R390). -/
def Facet.moved (f : Facet) (part : Option (Nat × Nat)) (shelf reserve : Nat) : Facet :=
  { f with
    part := part
    spadUnits := 384 - shelf
    shelfUnits := shelf
    reserve := reserve
    regions := []
    bench := []
    bank := Bank.clear }

/-- PARTITION_CHANGE (R42, R390): the facets of a new partition, and those of the partitions that give them up, on none of which a context
is live. `shelfUnits` is the shelf share of each quarter in units of 64 KiB, which the quarters of one die have in common, and `reserve`
the bytes of each quarter that are set aside (R37, R458). Of the shelves only what a partition that stays keeps there is left. It waits
while the firmware cores change images (R443), and comes after the host port is trained (R447). -/
def execPartitionChange (base log2 shelfUnits reserve : Nat) (s : State) : Host.Outcome State Fault Refusal :=
  let new := (base, log2)
  let old := s.parts.filter (fun p => partsMeet p new)
  let inside := fun (p : Nat × Nat) (f : Nat) => decide (p.1 ≤ f) && decide (f < p.1 + 2 ^ p.2)
  let moved := (List.range 64).filter (fun f => inside new f || old.any (fun p => inside p f))
  let others := (List.range 64).filter (fun f => !moved.contains f && moved.any (fun m => m / 4 = f / 4) && (s.facet f).part.isSome)
  let live := s.ctxs.any (fun c => partsMeet (c.pbase, c.plog2) new || old.contains (c.pbase, c.plog2))
  if 6 < log2 || 64 < base + 2 ^ log2 || base % 2 ^ log2 ≠ 0 || live || 128 < shelfUnits || 2 ^ 34 < reserve || s.host.fwNext.isSome
      || s.host.boot ≠ 2 || others.any (fun f => (s.facet f).shelfUnits ≠ shelfUnits) then .next s
  else
    .next { s with
      parts := s.parts.filter (fun p => !old.contains p) ++ [new]
      facets := s.facets.mapIdx (fun i (f : Facet) =>
        if moved.contains i then f.moved (if inside new i then some new else none) shelfUnits reserve else f)
      spad := moved.foldl (fun (m : Memory) f => m.clear (f * 2 ^ 26) (2 ^ 26)) s.spad
      badSpad := s.badSpad.filter (fun k => !moved.contains (k / 2 ^ 23))
      routers := s.routers.map (fun (r : Router) => { r with shelf := r.shelf.filter (fun c => (s.poolOf c.key.nspace).any (fun p =>
        moved.all (fun f => !inside p f))) })
      l2 := s.l2.filter (fun (l : L2Line) => !moved.contains l.facet)
      tlb := s.tlb.filter (fun (t : TlbEntry) => !moved.contains t.facet) }

/-! ### The reference clock (R43, R335, R364, R369, R399, R445) -/

/-- The commands of the copy engine of a context that are outstanding on a core (R397). -/
def State.copyOutstanding (s : State) (facet ctx core : Nat) : Nat :=
  (s.groups.filter (fun g => g.facet = facet && g.ctx = ctx && g.holdsSlots)).foldl (fun acc g =>
    g.waves.foldl (fun acc w => if w.core = core then
      acc + (w.cmds.filter (fun c => c.cls ≤ 3 && c.stage ≠ .signalled)).length else acc) acc) 0

/-- The most miss-status entries that a context's commands can hold on a core of a facet: one for each sector that they have still to move
and that the facet's L2 lacks, of 192 (R22, R181). -/
def State.missing (s : State) (facet ctx core : Nat) : Nat :=
  let keys := (s.groups.filter (fun g => g.facet = facet && g.ctx = ctx && g.holdsSlots)).flatMap (fun g => g.waves.flatMap (fun w =>
    if w.core = core then (w.cmds.filter (fun c => c.cls ≤ 3 && c.stage = .queued && c.status = 0)).flatMap (fun c =>
      c.left.flatMap Cmd.mainKeys) else []))
  let secs := squeeze (keys.flatMap (fun (k, n) => (List.range ((k + n - 1) / 64 - k / 64 + 1)).map (· + k / 64)))
  (distinctUpTo 192 (secs.filter (fun x => !s.l2.any (fun l => l.facet = facet && l.sector = x)))).length

/-- The samples of capture codes 6 and 7 on a facet in one reference cycle, one for each core clock. How many of the miss-status entries
that can be held are in use, and where a clock falls that the cycle does not hold whole, are free (R22, R181, R399, R445, assumption 2). -/
def State.sample (s : State) (facet : Nat) : State :=
  match (s.facet facet).bank.owner with
  | none => s
  | some ctx =>
    if !(s.facet facet).bank.units.any (fun u => u.code = 6 || u.code = 7) then s
    else
      let mhz := (s.facet facet).mhz
      let n := mhz / 100 + (if mhz % 100 ≠ 0 && Config.freeBit s.tick 0x303 facet then 1 else 0)
      let most := (List.range 8).map (s.missing facet ctx)
      (List.range n).foldl (fun s i =>
        (List.range 8).foldl (fun (s : State) c =>
          if bit (s.facet facet).cores c then
            (s.capture facet ctx 6 ((Config.freeWord s.tick (0x10000 + (facet * 8 + c) * 1024 + i)).toNat % (most.getD c 0 + 1))).capture
              facet ctx 7 (s.copyOutstanding facet ctx c)
          else s) s) s

/-- The soft errors that ECC has corrected on a facet in one reference cycle; how many is free (R203, R398, assumption 2). -/
def Facet.countSoft (f : Facet) (n : DWord) : Facet :=
  { f with bank := { f.bank with counters := put 0 f.bank.counters 5 (look 0 f.bank.counters 5 + n) } }

/-- The cancel bits of a cancelled launch's facets that are set by the end of a reference cycle: all of them 200 cycles after the write,
and which before then is free (R290, assumptions 2 and 80). -/
def Launch.setBits (l : Launch) (tick edges : Nat) : Launch :=
  if !l.cancel then l
  else if l.cancelAt + 200 ≤ edges + 1 then { l with bits := BitVec.allOnes 64 }
  else { l with bits := l.bits ||| Config.freeWord tick (0x40000 + l.id) }

/-- Whether a launch can go on to the first issue of its first task: its first groups have room, or a wave of that task may issue. A task
that is asked to stop before, or that has not its place any more, is not waited for (assumption 78). -/
def State.canStart (s : State) (l : Launch) : Bool :=
  !s.faults.any (fun f => f.launch = l.id) && l.bits = 0 &&
    (if s.groups.any (fun g => g.launch = some l.id) then
      s.groups.any (fun g => g.launch = some l.id && l.isFirst g.task && g.waves.any g.issuable && !s.mustStop g && !s.pastDeadline g)
    else s.keeps l)

/-- Whether the reference clock must wait: a launch that R274 promises to issue first by now, and could, has not (R3, R274,
assumption 78). -/
def State.owesIssue (s : State) : Bool :=
  s.launches.any (fun l => l.due.any (fun e => e ≤ s.edges) && s.canStart l) || s.queues.any s.promiseDue

/-- REFERENCE_CLOCK_EDGE (R43, R364, R445): whatever is due in the cycle that ends takes place, and then every reference counter of the
package advances by 1 on the same edge. No core clock of a group spans the edge (assumption 2). It does not come before what the cycle
owes (R274). -/
def execReferenceClockEdge (s : State) : Host.Outcome State Fault Refusal :=
  if s.owesIssue then .next s
  else
    let s := { s with launches := s.launches.map (fun (l : Launch) => l.setBits s.tick s.edges) }
    let s := { s with facets := s.facets.map Facet.expireTimers }.wakeAll
    let s := (List.range 18).foldl (fun s r => (s.expireRouter r).drainHour r) s
    let s := ((List.range 64).foldl (fun (s : State) f => s.sample f) s).runBias
    let s := (s.ctxs.filter CtxDesc.ending).foldl (fun s c => s.finishEnd c) s
    .next { s with
      edges := s.edges + 1
      facets := s.facets.mapIdx (fun i (f : Facet) => { f.countSoft (Config.freeWord s.tick (0x50000 + i)) with
        ref := f.ref + 1
        closed := false })
      routers := s.routers.map (fun (r : Router) => { r with ref := r.ref + 1, closed := false, expired := false })
      groups := s.groups.map (fun (g : Group) =>
        { g.newClock s.tick with resident := if g.stat = .resident then g.resident + 1 else g.resident }) }

end Sys2Proof.Machine
end

