-- ==== Sys2Proof/Machine/Auto.lean ====
section
/-! DEFINITION. Which agent moves where the agenda names none (assumption 1): the issuable waves, the device's own work and the
reference clock take turns. -/

namespace Sys2Proof.Machine

open Sys2Proof

/-- The waves that may be asked to issue. -/
def State.candidates (s : State) : List (Nat × Nat) :=
  s.groups.flatMap (fun g => (g.waves.filter g.issuable).map (fun w => (g.id, w.id)))

/-- The commands that the units may perform or signal now. -/
def State.dueCommands (s : State) : List Instr :=
  s.groups.flatMap (fun g => g.waves.flatMap (fun w => (w.cmds.filter (fun c =>
    g.works c.cls && (c.stage = .performed || c.stage = .landing || c.stage = .waiting || s.mayPerform g w c))).map (fun c =>
      .commandComplete g.id w.id c.cls c.seq 0)))

/-- What admission, retirement and the ends of launches have to do. -/
def State.dueLaunches (s : State) : List Instr :=
  s.launches.flatMap (fun l =>
    let (f, cores) := ((s.placesFor l 1).head?).getD ((s.ctx? l.ctx).elim 0 CtxDesc.pbase, List.replicate l.recd.waves 0)
    if s.faults.any (fun x => x.launch = l.id) then [.launchEnd l.id]
    else if l.stat = .presented then [.launchAccept l.id (if l.recd.pclass = 0 then s.placesFor l l.tasks.length else [])]
    else if !l.tasks.isEmpty then [.groupPlace l.id f cores]
    else if s.groups.any (fun g => g.launch = some l.id) then []
    else [.launchComplete l.id])

/-- What a group waits for from admission, the collector and its facet's counter. -/
def State.dueGroups (s : State) : List Instr :=
  s.groups.flatMap (fun g =>
    let f := if g.free.isSome then g.facet else s.facetFor g.ctx (fun f => s.placeable f g.waves.length g.cur g.full g.spillSize 0)
    match g.stat with
    | .saved =>
      if g.free.isSome then [.benchPlace g.facet (((s.coresFor g.facet 1 g.cur g.full (s.coolEnough g g.facet)).head?).getD 0)]
      else [.groupRestore g.id ((s.together g).map (fun x => (f, s.coresFor f x.waves.length x.cur x.full (s.coolEnough x f))))]
    | .benched => [.benchPlace g.facet (((s.coresFor g.facet 1 g.cur g.full).head?).getD 0)]
    | .stoodDown => [.stoodDownWake g.id]
    | .exited => []
    | .resident =>
      (if g.retires then [.taskRetire g.id] else [])
        ++ (if g.acq.isEmpty then [] else [.acqGrant g.id])
        ++ (if g.lowerable = 0 then [] else [.relLower g.id])
        ++ (if g.preempt.isSome then [if g.stopped then .groupSave g.id else .saveDeadline g.id] else [])
        ++ (if g.eligible then [.standDown g.id] else [])
        ++ (if g.div then [.allowExpiry g.id] else [])
        ++ (g.waves.filter (fun w => 4096 ≤ w.fair)).map (fun w => .fairnessRun g.id w.id)
        ++ (g.waves.filter (fun w => match w.park with
            | .sleep _ => true
            | _ => false)).map (fun w => .sleepWake g.id w.id))

/-- What the fetchers have to do. -/
def State.dueQueues (s : State) : List Instr :=
  s.queues.flatMap (fun q =>
    match q.slot with
    | none => if s.queueWaits q then [.queueMap q.id (s.facetFor q.ctx (fun f => (s.mapped f).length < 16))] else []
    | some _ =>
      if s.qState q ≠ 1 || s.qTail q ≤ s.qRead q then []
      else [.launchPacket q.id, .dependPacket q.id, .dependRecheck q.id, .signalPacket q.id, .nopkt q.id, .packetHeaderReread q.id])

/-- What has reached a router. -/
def State.dueMessages (s : State) : List Instr :=
  match s.net.head? with
  | some m => [match m.body with
    | .interest _ _ => .interestArrive 0
    | .tile _ _ _ _ => .tileArrive 0
    | .notice _ => .expiryNotice 0]
  | none => []

/-- The device's own work that may be due. -/
def State.dueEvents (s : State) : List Instr :=
  s.dueCommands ++ s.dueLaunches ++ s.dueGroups ++ s.dueQueues ++ s.dueMessages

/-- The turn taken where the agenda is empty. -/
def State.autoTurn (s : State) : Turn :=
  let ws := s.candidates
  let es := s.dueEvents
  let k := s.tick % (ws.length + es.length + 1)
  match ws[k]? with
  | some (g, w) => .issue g w
  | none => .event ((es[k - ws.length]?).getD .referenceClockEdge)

end Sys2Proof.Machine
end

