-- ==== Sys2Proof/Machine/Handles.lean ====
section
/-! DEFINITION. Fences, waits and handles, OP 0xA0 to 0xA5 (R231 to R236). -/

namespace Sys2Proof.Machine

open Sys2Proof

/-- FENCE (R231): a wait that is no park. -/
def execFence (f : Form) (s : State) : Host.Outcome State Fault Refusal :=
  issueInstr 0xA0 f s .unused .unused .unused none (fun _ => true) (fun c =>
    if c.wave.fenced (bits f.imm 0 6) then .done c.st else .wait false c.st)

/-- The commands of a class that a WAITC covers: all but the youngest `n` of those issued before it (R232). -/
def Wave.covered (w : Wave) (cls n : Nat) : List Cmd :=
  let cs := w.cmds.filter (fun c => c.cls = cls && w.before c)
  cs.take (cs.length - n)

/-- The classes that WAITC names; 7 is all of them (R232). -/
def classesOf (k : Nat) : List Nat := if k = 7 then [1, 2, 3, 4, 5, 6] else [k]

/-- WAITC (R232). -/
def execWaitc (f : Form) (s : State) : Host.Outcome State Fault Refusal :=
  issueInstr 0xA1 f s .unused .unused .unused none (fun _ => true) (fun c =>
    let cs := (classesOf (bits f.var 0 3)).flatMap (fun k => c.wave.covered k (bits f.imm 0 8))
    let left := cs.filter (fun k => k.stage ≠ .signalled)
    if !left.isEmpty then (if bits f.var 0 3 = 6 then .waitPort (left.map Cmd.seq) c.st else .wait true c.st)
    else
      match toReport cs with
      | some k => .moved (c.report (c.goOn c.st) k none)
      | none => .done c.st)

/-- HWAIT (R233). -/
def execHwait (f : Form) (s : State) : Host.Outcome State Fault Refusal :=
  issueInstr 0xA2 f s .unused (Allow.handle.orNone) .unused none (fun _ => true) (fun c =>
    let regs := match f.a with
      | .h n => [n]
      | _ => (List.range 16).filter (fun i => bit f.imm i)
    (c.readHandles regs).getD (.done c.st))

/-- HTEST (R234). -/
def execHtest (f : Form) (s : State) : Host.Outcome State Fault Refusal :=
  issueInstr 0xA3 f s { v := true, s := true, g := true, p := true } .handle .unused none (fun _ => true) (fun c =>
    let st := c.grp.handleStatus c.wave (c.wave.h? (hIndex f.a))
    let pred := match f.d with
      | .p _ => true
      | _ => false
    .done (c.write c.st f.d false (fun _ => if pred then (if st = 0x01#8 then 0 else 1) else st.toNat)))

/-- Whether a copy-engine command that is not signalled failed at its acceptance: nothing of it is ever sent (R209, R235). -/
def Cmd.failedEarly (c : Cmd) : Bool :=
  c.cls ≤ 3 && c.stage ≠ .signalled && c.status ≠ 0 && c.status ≠ 0x02#8 && c.pins.isEmpty && c.sent = 0 && c.moved.isEmpty

/-- A pending command withdrawn (R235, R358, R381): its interest records and its place at a port go with it. A matrix instruction
stays in its queue, since the latch fill of a non-reusing one stands (R144); `none` where it has begun to take effect, or is cancelled
already (assumption 87). -/
def State.hcancel (s : State) (gid wid : Nat) (k : Cmd) : Option State :=
  if k.failedEarly then
    match s.group? gid with
    | none => none
    | some g => some ((s.updWave gid wid (fun w => { w with cmds := w.cmds.map (fun x =>
        if x.cls = k.cls && x.seq = k.seq then { x with status := 0x02#8, stage := .performed } else x) })).signal g wid k.cls)
  else if k.done || k.begun || k.calling || k.stage = .landing then none
  else if k.cls = 4 then
    if k.status = 0x02#8 then none
    else some (s.updWave gid wid (fun w => { w with cmds := w.cmds.map (fun x =>
      if x.cls = 4 && x.seq = k.seq then { x with status := 0x02#8 } else x) }))
  else
    let mine := fun (x : IntRec) => match x.who with
      | .localCmd g w seq => g = gid && w = wid && seq = k.seq
      | .face _ => false
    let s := if k.cls = 5 then s.withdraw mine else s
    let s := if k.cls = 6 then
        s.dropWaits (fun x => x.peer.isNone && x.group = gid && x.wave = wid && x.seq = k.seq)
      else s
    some (s.cancelNow gid wid k.cls k.seq)

/-- Whether the router that holds the record of a command of the NAME class has applied the withdrawals of its cycle (R369). -/
def State.lateCancel (s : State) (gid wid : Nat) (k : Cmd) : Bool :=
  k.cls = 5 && s.routers.any (fun r => r.expired && r.entries.any (fun e => e.recs.any (fun x => x.who = .localCmd gid wid k.seq)))

/-- HCANCEL (R235). For a command of the NAME or PORT class it is first sent to the router or home engine that holds the command, and
the wave waits for that unit's answer, which a router gives in the second step of a cycle (R381). -/
def execHcancel (f : Form) (s : State) : Host.Outcome State Fault Refusal :=
  issueInstr 0xA4 f s (Allow.pred.orNone) .handle .unused none (fun _ => true) (fun c =>
    let named := match c.wave.h? (hIndex f.a) with
      | .own cls seq => c.wave.cmd? cls seq
      | _ => none
    match named.bind (fun k => (c.st.hcancel c.grp.id c.wave.id k).map (fun t => (k, t))) with
    | some (k, t) =>
      if 5 ≤ k.cls && (!k.asked || c.st.lateCancel c.grp.id c.wave.id k) then
        .wait false (c.updWave c.st (fun w => { w with cmds := w.cmds.map (fun x =>
          if x.cls = k.cls && x.seq = k.seq then { x with asked := true } else x) }))
      else .done (c.write t f.d false (fun _ => 1))
    | none => .done (c.write c.st f.d false (fun _ => 0)))

/-- Whether a word can be installed as a command reference (R236). -/
def goodReference (x : Word) : Bool :=
  bits x 20 2 = 0 && bits x 29 3 ≠ 7 && (bits x 29 3 ≠ 0 || x = 0)

/-- HMOV (R236). -/
def execHmov (f : Form) (s : State) : Host.Outcome State Fault Refusal :=
  issueInstr 0xA5 f s { g := true, h := true } { g := true, h := true } .unused none
    (fun _ => match f.d, f.a with
      | .g _, .h _ => true
      | .h _, .g _ => true
      | .h _, .h _ => true
      | _, _ => false)
    (fun c => match f.d, f.a with
      | .g n, .h k => .done (c.updGroup c.st (fun g => g.writeG c.wave.id n (c.wave.handleOut (c.wave.h? k))))
      | .h n, .g k =>
        let x := c.grp.gRead k
        if goodReference x then .done (c.updWave c.st (fun w => w.setH n (if x = 0 then .null else .ref x)))
        else .fault codeOperand
      | .h n, .h k => .done (c.updWave c.st (fun w => w.setH n (c.wave.h? k)))
      | _, _ => .fault codeOperand)

/-- Whether a word can be installed as an object handle (R331). -/
def goodObject (x : Word) : Bool := bits x 23 3 < 6 && (bits x 23 3 ≠ 0 || x = 0)

/-- HMOV.OBJ (R236, R331). -/
def execHmovObj (f : Form) (s : State) : Host.Outcome State Fault Refusal :=
  issueInstr 0xA5 f s .handle { g := true } .unused none (fun _ => true) (fun c =>
    let x := c.grp.gRead (match f.a with
      | .g n => n
      | _ => 0)
    if goodObject x then .done (c.updWave c.st (fun w => w.setH (hIndex f.d) (.obj x))) else .fault codeOperand)

end Sys2Proof.Machine
end

