-- ==== Sys2Proof/Machine/Logic.lean ====
section
/-! DEFINITION. Logic, shifts, bit fields, moves and lane data (R109 to R122). -/

namespace Sys2Proof.Machine

open Sys2Proof

/-- Whether an operand names a predicate. -/
def Operand.isPred : Operand → Bool
  | .p _ => true
  | _ => false

/-- AND, OR and XOR: over w bits, or in the predicate form, in which every operand is a predicate (R110). -/
def logic2 (op k : Nat) (f : Form) (s : State) (fn : Nat → Nat → Nat) : Host.Outcome State Fault Refusal :=
  let w := wideTy f.ty
  if f.ty = .b32 && (Operand.isPred f.d || Operand.isPred f.a || Operand.isPred f.b) then
    issueInstr op f s .pred .pred .pred none (fun _ => true) (fun c =>
      .done (c.write c.st f.d false (fun l =>
        if logicBit k (c.read 1 .b32 f.a l = 1) (c.read 2 .b32 f.b l = 1) then 1 else 0)))
  else
    issueInstr op f s (.dst w) (.src w) (.src w) none (fun _ => true) (fun c =>
      .done (c.writeTy c.st (fun l => fn (c.read 1 f.ty f.a l) (c.read 2 f.ty f.b l))))

/-- AND (R110). -/
def execAnd (f : Form) (s : State) : Host.Outcome State Fault Refusal := logic2 0x30 0 f s (fun a b => a &&& b)
/-- OR (R110). -/
def execOr (f : Form) (s : State) : Host.Outcome State Fault Refusal := logic2 0x31 1 f s (fun a b => a ||| b)
/-- XOR (R110). -/
def execXor (f : Form) (s : State) : Host.Outcome State Fault Refusal := logic2 0x32 2 f s (fun a b => a ^^^ b)

/-- NOT (R110). -/
def execNot (f : Form) (s : State) : Host.Outcome State Fault Refusal :=
  let w := wideTy f.ty
  if f.ty = .b32 && (Operand.isPred f.d || Operand.isPred f.a) then
    issueInstr 0x33 f s .pred .pred .unused none (fun _ => true) (fun c =>
      .done (c.write c.st f.d false (fun l => 1 - c.read 1 .b32 f.a l)))
  else
    issueInstr 0x33 f s (.dst w) (.src w) .unused none (fun _ => true) (fun c =>
      .done (c.writeTy c.st (fun l => 2 ^ tyWidth f.ty - 1 - c.read 1 f.ty f.a l)))

/-- The function of LOP3 on `w` bits of a, b and the old d (R111). -/
def lop3 (table w a b d : Nat) : Nat :=
  ((List.range w).filter (fun i =>
    table.testBit ((if a.testBit i then 1 else 0) + (if b.testBit i then 2 else 0) + (if d.testBit i then 4 else 0)))).foldl
    (fun acc i => acc + 2 ^ i) 0

/-- LOP3 (R111). -/
def execLop3 (f : Form) (s : State) : Host.Outcome State Fault Refusal :=
  let w := wideTy f.ty
  issueInstr 0x34 f s (.reg w) (.src w) (.src w) none (fun _ => true) (fun c =>
    .done (c.writeTy c.st (fun l =>
      lop3 f.imm.toNat (tyWidth f.ty) (c.read 1 f.ty f.a l) (c.read 2 f.ty f.b l) (c.read 3 f.ty f.d l))))

/-- A shift by the 32-bit amount in B (R112). -/
def shift (op : Nat) (f : Form) (s : State) (fn : Nat → Nat → Nat) : Host.Outcome State Fault Refusal :=
  let w := wideTy f.ty
  issueInstr op f s (.dst w) (.src w) (.src false) none (fun _ => true) (fun c =>
    .done (c.writeTy c.st (fun l => fn (c.read 1 f.ty f.a l) (min (c.read 2 .n32 f.b l) 64))))

/-- SHL (R112). -/
def execShl (f : Form) (s : State) : Host.Outcome State Fault Refusal :=
  shift 0x35 f s (fun a n => a * 2 ^ n % 2 ^ tyWidth f.ty)
/-- SHR (R112). -/
def execShr (f : Form) (s : State) : Host.Outcome State Fault Refusal := shift 0x36 f s (fun a n => a / 2 ^ n)
/-- SHRA (R112). -/
def execShra (f : Form) (s : State) : Host.Outcome State Fault Refusal :=
  shift 0x37 f s (fun a n => wrapInt ((sx a (tyWidth f.ty)).fdiv (2 ^ n)) (tyWidth f.ty))

/-- FSHF (R113). -/
def execFshf (f : Form) (s : State) : Host.Outcome State Fault Refusal :=
  issueInstr 0x38 f s (.dst false) (.src false) (.src false) (some (.src false)) (fun _ => true) (fun c =>
    .done (c.writeTy c.st (fun l =>
      let t := c.read 1 .b32 f.a l * 2 ^ 32 + c.read 2 .b32 f.b l
      let n := min (c.read 3 .n32 f.c l) 32
      (if f.var = 1#4 then t * 2 ^ n / 2 ^ 32 else t / 2 ^ n) % 2 ^ 32)))

/-- The field of BFX (R114). -/
def bfx (t : Ty) (a : Int) (pos len : Nat) : Nat :=
  let w := tyWidth t
  let len := min len w
  let x := a.fdiv (2 ^ min pos w)
  if len = 0 then 0
  else
    let f := wrapInt x len
    wrapInt (if tySigned t then sx f len else (f : Int)) w

/-- BFX (R114). -/
def execBfx (f : Form) (s : State) : Host.Outcome State Fault Refusal :=
  let w := wideTy f.ty
  issueInstr 0x39 f s (.dst w) (.src w) (.src false) (some (.src false)) (fun _ => true) (fun c =>
    .done (c.writeTy c.st (fun l =>
      bfx f.ty (c.readInt 1 f.ty f.a l) (c.read 2 .n32 f.b l) (c.read 3 .n32 f.c l))))

/-- BFI (R115): the bits of A outside a mask, and those of B shifted into it. -/
def bfi (w a b ctl : Nat) : Nat :=
  let pos := ctl % 256
  let len := ctl / 256 % 256
  let mask := (2 ^ len - 1) * 2 ^ pos % 2 ^ w
  (a &&& (2 ^ w - 1 - mask)) ||| (b * 2 ^ pos % 2 ^ w &&& mask)

/-- BFI (R115). -/
def execBfi (f : Form) (s : State) : Host.Outcome State Fault Refusal :=
  let w := wideTy f.ty
  issueInstr 0x3A f s (.dst w) (.src w) (.src w) (some (.src false)) (fun _ => true) (fun c =>
    .done (c.writeTy c.st (fun l =>
      bfi (tyWidth f.ty) (c.read 1 f.ty f.a l) (c.read 2 f.ty f.b l) (c.read 3 .n32 f.c l))))

/-- A count of the bits of A, written to one 32-bit register (R116). -/
def countBits (op : Nat) (f : Form) (s : State) (fn : Nat → Nat) : Host.Outcome State Fault Refusal :=
  issueInstr op f s (.dst false) (.src (wideTy f.ty)) .unused none (fun _ => true) (fun c =>
    .done (c.write c.st f.d false (fun l => fn (c.read 1 f.ty f.a l))))

/-- POPC (R116). -/
def execPopc (f : Form) (s : State) : Host.Outcome State Fault Refusal := countBits 0x3B f s (popCount (tyWidth f.ty))
/-- CLZ (R116). -/
def execClz (f : Form) (s : State) : Host.Outcome State Fault Refusal := countBits 0x3C f s (leadZeros (tyWidth f.ty))
/-- BREV (R116). -/
def execBrev (f : Form) (s : State) : Host.Outcome State Fault Refusal :=
  let w := wideTy f.ty
  issueInstr 0x3D f s (.dst w) (.src w) .unused none (fun _ => true) (fun c =>
    .done (c.writeTy c.st (fun l => revBits (tyWidth f.ty) (c.read 1 f.ty f.a l))))

/-! ### Moves (R117) -/

/-- MOV (R117). -/
def execMov (f : Form) (s : State) : Host.Outcome State Fault Refusal :=
  let w := wideTy f.ty
  issueInstr 0x3E f s (.dst w) (.src w) .unused none (fun _ => true) (fun c =>
    .done (c.writeTy c.st (fun l => c.read 1 f.ty f.a l)))

/-- MOVI (R117): .HI writes the upper half of a pair and keeps the lower. -/
def execMovi (f : Form) (s : State) : Host.Outcome State Fault Refusal :=
  let w := wideTy f.ty
  let imm : Allow := { imm := true, long := true }
  if f.var = 1#4 then
    issueInstr 0x3F f s (.reg true) imm .unused none (fun _ => true) (fun c =>
      let hi : Operand := match f.d with
        | .v i => .v (i + 1)
        | .s i => .s (i + 1)
        | .g i => .g (i + 1)
        | o => o
      .done (c.write c.st hi false (fun l => c.read 1 .b32 f.a l)))
  else
    issueInstr 0x3F f s (.dst w) imm .unused none (fun _ => true) (fun c =>
      .done (c.writeTy c.st (fun l => c.read 1 f.ty f.a l)))

/-! ### Lane data (R118 to R122) -/

/-- The source lane of SHFL (R120). -/
def shflLane (mode seg l j : Nat) : Nat :=
  let size := 64 / 2 ^ seg
  let base := l - l % size
  match mode with
  | 0 => base + j % size
  | 1 => if j ≤ l - base then l - j else l
  | 2 => if l - base + j < size then l + j else l
  | _ => l ^^^ (j % size)

/-- SHFL (R120). -/
def execShfl (f : Form) (s : State) : Host.Outcome State Fault Refusal :=
  let w := wideTy f.ty
  issueInstr 0x40 f s (.vreg w) (.vreg w) (.src false) none (fun _ => true) (fun c =>
    .done (c.writeTy c.st (fun l =>
      c.lane 1 w (vIndex f.a) (shflLane (f.var.toNat % 4) (f.var.toNat / 4) l (c.read 2 .n32 f.b l)))))

/-- RDLANE (R121). -/
def execRdlane (f : Form) (s : State) : Host.Outcome State Fault Refusal :=
  let w := wideTy f.ty
  issueInstr 0x41 f s (.dst w) (.vreg w) (.uni false) none (fun _ => true) (fun c =>
    .done (c.writeTy c.st (fun _ => c.lane 1 w (vIndex f.a) (c.uniform 2 .n32 f.b % 64))))

/-- WRLANE (R121): only lane m of D is written, if it is active. -/
def execWrlane (f : Form) (s : State) : Host.Outcome State Fault Refusal :=
  let w := wideTy f.ty
  issueInstr 0x42 f s (.vreg w) (.uni w) (.uni false) none (fun _ => true) (fun c =>
    let m := c.uniform 2 .n32 f.b % 64
    .done ({ c with act := c.act &&& laneBit m }.writeTy c.st (fun _ => c.uniform 1 f.ty f.a)))

/-- BCAST (R121). -/
def execBcast (f : Form) (s : State) : Host.Outcome State Fault Refusal :=
  let w := wideTy f.ty
  issueInstr 0x43 f s (.dst w) (.vreg w) .unused none (fun _ => true) (fun c =>
    let m := (if f.var = 1#4 then topLane c.act else lowLane c.act).getD 0
    .done (c.writeTy c.st (fun _ => c.lane 1 w (vIndex f.a) m)))

/-- PRMT (R122). -/
def prmt (a b ctl : Nat) : Nat :=
  let pool := b * 2 ^ 32 + a
  let byte := fun (i : Nat) =>
    let x := pool / 2 ^ (8 * (ctl / 2 ^ (3 * i) % 8)) % 256
    let x := if ctl.testBit (16 + i) then (if 128 ≤ x then 255 else 0) else x
    if ctl.testBit (12 + i) then 0 else x
  byte 0 + byte 1 * 2 ^ 8 + byte 2 * 2 ^ 16 + byte 3 * 2 ^ 24

/-- PRMT (R122). -/
def execPrmt (f : Form) (s : State) : Host.Outcome State Fault Refusal :=
  issueInstr 0x44 f s (.dst false) (.src false) (.src false) (some (.src false)) (fun _ => true) (fun c =>
    .done (c.writeTy c.st (fun l => prmt (c.read 1 .b32 f.a l) (c.read 2 .b32 f.b l) (c.read 3 .b32 f.c l))))

end Sys2Proof.Machine
end

