-- ==== Sys2Proof/Machine/Thermal.lean ====
section
/-! DEFINITION. Junction temperatures: THERM_HOT, THERM_THROTTLE, THROTTLE_STEP, THERM_TRIP and THERM_DROP (R298, R446). -/

namespace Sys2Proof.Machine

open Sys2Proof

/-- The junction state of the hottest core. -/
def State.hottest (s : State) : Nat := s.facets.foldl (fun acc f => f.therm.foldl (fun acc x => max acc x.2) acc) 0

/-- THERM brought up to date; a change writes an entry of KIND 6 (R446). -/
def State.refreshTherm (s : State) (facet : Nat) : State :=
  let t := s.hottest
  if t = s.host.therm then s
  else
    let s := { s with host := { s.host with therm := t } }
    s.logEntry 6 0 0 facet 0xFF 0 0 (s.facet facet).ref.toNat

/-- The junction state of a core set. -/
def State.setTherm (s : State) (facet core level : Nat) : State :=
  (s.updFacet facet (fun f => { f with therm := put 0 f.therm core level })).refreshTherm facet

/-- A thermal migration: the firmware core may move a group that has been resident on a hot core for 200,000 reference cycles to a cooler
one; whether it does, and which of several groups it moves, is free (R298, R423, assumption 2). A free wave is in no group, and is not
moved (R27). -/
def State.migrateHeat (s : State) (facet core : Nat) : State :=
  let gs := s.groups.filter (fun g => g.stat = .resident && g.free.isNone && g.facet = facet && g.cores.contains core
    && g.since + 200000 ≤ s.edges && s.cooler g.ctx 1)
  match gs[(Config.freeWord s.tick 0x205).toNat % gs.length]? with
  | some g => if Config.freeBit s.tick 0x302 (facet * 8 + core) then
      (s.postPreempt g.id 20000).updGroup g.id (fun x => { x with hot := some (facet, core) })
    else s
  | none => s

/-- THERM_HOT (R298, R446): a junction passes 95 °C. -/
def execThermHot (facet core : Nat) (s : State) : Host.Outcome State Fault Refusal :=
  let now := look 0 (s.facet facet).therm core
  if !(s.facet facet).powered || 1 < now then .next s
  else .next ((s.setTherm facet core 1).migrateHeat facet core)

/-- THERM_THROTTLE (R446): a junction passes 105 °C, and its island throttles. -/
def execThermThrottle (facet core : Nat) (s : State) : Host.Outcome State Fault Refusal :=
  if !(s.facet facet).powered || 2 < look 0 (s.facet facet).therm core then .next s
  else
    let s := s.updFacet facet (fun f => { f with
      steppedAt := if f.stepping.isEmpty then f.ref else f.steppedAt
      stepping := if f.stepping.contains core then f.stepping else core :: f.stepping })
    .next (s.setTherm facet core 2)

/-- THROTTLE_STEP (R446): an island that throttles steps down by 50 MHz every 10,000 reference cycles, to no less than 350 MHz. -/
def execThrottleStep (facet : Nat) (s : State) : Host.Outcome State Fault Refusal :=
  let f := s.facet facet
  if f.powered && !f.stepping.isEmpty && f.steppedAt.toNat + 10000 ≤ f.ref.toNat then
    .next (s.updFacet facet (fun f => { f with mhz := max 350 (f.mhz - 50), steppedAt := f.ref }))
  else .next s

/-- THERM_DROP (R446): a junction falls below 105 °C (`level` 2), below 100 °C (1) or below 95 °C (0). Below 105 °C it is hot, and its
island stops stepping for it only below 100 °C. -/
def execThermDrop (facet core level : Nat) (s : State) : Host.Outcome State Fault Refusal :=
  let now := look 0 (s.facet facet).therm core
  let to_ := if level = 0 then 0 else min now 1
  if !(s.facet facet).powered || now = 3 then .next s
  else
    let s := s.updFacet facet (fun f => { f with stepping := if level < 2 then f.stepping.filter (· ≠ core) else f.stepping })
    .next (s.setTherm facet core to_)

/-- A sector of HBM whose current bytes stood in an L2 that has lost power: what HBM then holds of it is free (assumption 2). -/
def State.loseSector (s : State) (sec : Nat) : State :=
  let ctx := look 0 s.keyed sec - 1
  s.writeRaw ctx (sec * 64) ((List.range 8).flatMap (fun i => toBytes 8 (Config.freeWord s.tick (2 ^ 40 + sec * 8 + i)).toNat))

/-- THERM_TRIP (R446): a junction reaches 115 °C. Every island is powered off at once, and its launches end with no completion record;
what was running is lost, and so is what stood only in an L2. -/
def execThermTrip (facet core : Nat) (s : State) : Host.Outcome State Fault Refusal :=
  if !(s.facet facet).powered then .next s
  else
    let dirty := (s.l2.filter (fun l => l.st = .m || l.st = .o)).map L2Line.sector
    let s := (distinct dirty).foldl (fun s x => s.loseSector x) s
    let s := s.groups.foldl (fun s g => s.recall g.id) s
    let s := { s with
      launches := []
      groups := []
      matq := []
      faults := []
      l2 := []
      facets := s.facets.map (fun (f : Facet) => { f with powered := false, bench := [] }) }
    .next (s.setTherm facet core 3)

end Sys2Proof.Machine
end

