-- ==== Sys2Proof/Machine/Dispatch.lean ====
section
/-! DEFINITION. What each instruction and each device event does: one arm per constructor of `Instr`. -/

namespace Sys2Proof.Machine

open Sys2Proof

def exec (i : Instr) (s : State) : Host.Outcome State Fault Refusal :=
  match i with
  | .nop f => Sys2Proof.Machine.execNop f s
  | .bra f => Sys2Proof.Machine.execBra f s
  | .brx f => Sys2Proof.Machine.execBrx f s
  | .call f => Sys2Proof.Machine.execCall f s
  | .callx f => Sys2Proof.Machine.execCallx f s
  | .ret f => Sys2Proof.Machine.execRet f s
  | .conv f => Sys2Proof.Machine.execConv f s
  | .prio f => Sys2Proof.Machine.execPrio f s
  | .vote f => Sys2Proof.Machine.execVote f s
  | .sloop f => Sys2Proof.Machine.execSloop f s
  | .bar f => Sys2Proof.Machine.execBar f s
  | .exit f => Sys2Proof.Machine.execExit f s
  | .yield f => Sys2Proof.Machine.execYield f s
  | .sleep f => Sys2Proof.Machine.execSleep f s
  | .acq f => Sys2Proof.Machine.execAcq f s
  | .rel f => Sys2Proof.Machine.execRel f s
  | .tspawn f => Sys2Proof.Machine.execTspawn f s
  | .tdom f => Sys2Proof.Machine.execTdom f s
  | .tsplit f => Sys2Proof.Machine.execTsplit f s
  | .tchk f => Sys2Proof.Machine.execTchk f s
  | .tchkTest f => Sys2Proof.Machine.execTchkTest f s
  | .tchkTrap f => Sys2Proof.Machine.execTchkTrap f s
  | .salloc f => Sys2Proof.Machine.execSalloc f s
  | .sfree f => Sys2Proof.Machine.execSfree f s
  | .iadd f => Sys2Proof.Machine.execIadd f s
  | .isub f => Sys2Proof.Machine.execIsub f s
  | .iaddc f => Sys2Proof.Machine.execIaddc f s
  | .imul f => Sys2Proof.Machine.execImul f s
  | .imulh f => Sys2Proof.Machine.execImulh f s
  | .imad f => Sys2Proof.Machine.execImad f s
  | .imadw f => Sys2Proof.Machine.execImadw f s
  | .idiv f => Sys2Proof.Machine.execIdiv f s
  | .irem f => Sys2Proof.Machine.execIrem f s
  | .imin f => Sys2Proof.Machine.execImin f s
  | .imax f => Sys2Proof.Machine.execImax f s
  | .iabs f => Sys2Proof.Machine.execIabs f s
  | .isad f => Sys2Proof.Machine.execIsad f s
  | .isetp f => Sys2Proof.Machine.execIsetp f s
  | .isel f => Sys2Proof.Machine.execIsel f s
  | .lea f => Sys2Proof.Machine.execLea f s
  | .and f => Sys2Proof.Machine.execAnd f s
  | .or f => Sys2Proof.Machine.execOr f s
  | .xor f => Sys2Proof.Machine.execXor f s
  | .not f => Sys2Proof.Machine.execNot f s
  | .lop3 f => Sys2Proof.Machine.execLop3 f s
  | .shl f => Sys2Proof.Machine.execShl f s
  | .shr f => Sys2Proof.Machine.execShr f s
  | .shra f => Sys2Proof.Machine.execShra f s
  | .fshf f => Sys2Proof.Machine.execFshf f s
  | .bfx f => Sys2Proof.Machine.execBfx f s
  | .bfi f => Sys2Proof.Machine.execBfi f s
  | .popc f => Sys2Proof.Machine.execPopc f s
  | .clz f => Sys2Proof.Machine.execClz f s
  | .brev f => Sys2Proof.Machine.execBrev f s
  | .mov f => Sys2Proof.Machine.execMov f s
  | .movi f => Sys2Proof.Machine.execMovi f s
  | .shfl f => Sys2Proof.Machine.execShfl f s
  | .rdlane f => Sys2Proof.Machine.execRdlane f s
  | .wrlane f => Sys2Proof.Machine.execWrlane f s
  | .bcast f => Sys2Proof.Machine.execBcast f s
  | .prmt f => Sys2Proof.Machine.execPrmt f s
  | .fadd f => Sys2Proof.Machine.execFadd f s
  | .fsub f => Sys2Proof.Machine.execFsub f s
  | .fmul f => Sys2Proof.Machine.execFmul f s
  | .ffma f => Sys2Proof.Machine.execFfma f s
  | .fmin f => Sys2Proof.Machine.execFmin f s
  | .fmax f => Sys2Proof.Machine.execFmax f s
  | .fsetp f => Sys2Proof.Machine.execFsetp f s
  | .fclass f => Sys2Proof.Machine.execFclass f s
  | .frcp f => Sys2Proof.Machine.execFrcp f s
  | .frsq f => Sys2Proof.Machine.execFrsq f s
  | .fsqrt f => Sys2Proof.Machine.execFsqrt f s
  | .fdiv f => Sys2Proof.Machine.execFdiv f s
  | .fexp2 f => Sys2Proof.Machine.execFexp2 f s
  | .flog2 f => Sys2Proof.Machine.execFlog2 f s
  | .fsin f => Sys2Proof.Machine.execFsin f s
  | .fcos f => Sys2Proof.Machine.execFcos f s
  | .ftanh f => Sys2Proof.Machine.execFtanh f s
  | .frnd f => Sys2Proof.Machine.execFrnd f s
  | .fscale f => Sys2Proof.Machine.execFscale f s
  | .hfma2 f => Sys2Proof.Machine.execHfma2 f s
  | .hadd2 f => Sys2Proof.Machine.execHadd2 f s
  | .hmul2 f => Sys2Proof.Machine.execHmul2 f s
  | .fdot2 f => Sys2Proof.Machine.execFdot2 f s
  | .fdot4 f => Sys2Proof.Machine.execFdot4 f s
  | .cvt f => Sys2Proof.Machine.execCvt f s
  | .cvti f => Sys2Proof.Machine.execCvti f s
  | .pack f => Sys2Proof.Machine.execPack f s
  | .unpk f => Sys2Proof.Machine.execUnpk f s
  | .qblk f => Sys2Proof.Machine.execQblk f s
  | .dqblk f => Sys2Proof.Machine.execDqblk f s
  | .mma f => Sys2Proof.Machine.execMma f s
  | .mmab f => Sys2Proof.Machine.execMmab f s
  | .mzero f => Sys2Proof.Machine.execMzero f s
  | .mlda f => Sys2Proof.Machine.execMlda f s
  | .msta f => Sys2Proof.Machine.execMsta f s
  | .memit f => Sys2Proof.Machine.execMemit f s
  | .mmap f => Sys2Proof.Machine.execMmap f s
  | .mrela f => Sys2Proof.Machine.execMrela f s
  | .maddt f => Sys2Proof.Machine.execMaddt f s
  | .mscl f => Sys2Proof.Machine.execMscl f s
  | .lds f => Sys2Proof.Machine.execLds f s
  | .sts f => Sys2Proof.Machine.execSts f s
  | .ldp f => Sys2Proof.Machine.execLdp f s
  | .stp f => Sys2Proof.Machine.execStp f s
  | .spill f => Sys2Proof.Machine.execSpill f s
  | .fill f => Sys2Proof.Machine.execFill f s
  | .ats f => Sys2Proof.Machine.execAts f s
  | .atp f => Sys2Proof.Machine.execAtp f s
  | .cass f => Sys2Proof.Machine.execCass f s
  | .casp f => Sys2Proof.Machine.execCasp f s
  | .lrs f => Sys2Proof.Machine.execLrs f s
  | .scs f => Sys2Proof.Machine.execScs f s
  | .lrp f => Sys2Proof.Machine.execLrp f s
  | .scp f => Sys2Proof.Machine.execScp f s
  | .bcin f => Sys2Proof.Machine.execBcin f s
  | .bcout f => Sys2Proof.Machine.execBcout f s
  | .bgath f => Sys2Proof.Machine.execBgath f s
  | .bscat f => Sys2Proof.Machine.execBscat f s
  | .bfill f => Sys2Proof.Machine.execBfill f s
  | .matom f => Sys2Proof.Machine.execMatom f s
  | .mred f => Sys2Proof.Machine.execMred f s
  | .mcas f => Sys2Proof.Machine.execMcas f s
  | .xsum f => Sys2Proof.Machine.execXsum f s
  | .xrd f => Sys2Proof.Machine.execXrd f s
  | .xclr f => Sys2Proof.Machine.execXclr f s
  | .pref f => Sys2Proof.Machine.execPref f s
  | .fence f => Sys2Proof.Machine.execFence f s
  | .waitc f => Sys2Proof.Machine.execWaitc f s
  | .hwait f => Sys2Proof.Machine.execHwait f s
  | .htest f => Sys2Proof.Machine.execHtest f s
  | .hcancel f => Sys2Proof.Machine.execHcancel f s
  | .hmov f => Sys2Proof.Machine.execHmov f s
  | .hmovObj f => Sys2Proof.Machine.execHmovObj f s
  | .wspawn f => Sys2Proof.Machine.execWspawn f s
  | .wkill f => Sys2Proof.Machine.execWkill f s
  | .pnew f => Sys2Proof.Machine.execPnew f s
  | .psend f => Sys2Proof.Machine.execPsend f s
  | .precv f => Sys2Proof.Machine.execPrecv f s
  | .snew f => Sys2Proof.Machine.execSnew f s
  | .sadd f => Sys2Proof.Machine.execSadd f s
  | .sdel f => Sys2Proof.Machine.execSdel f s
  | .wwait f => Sys2Proof.Machine.execWwait f s
  | .tnew f => Sys2Proof.Machine.execTnew f s
  | .tarm f => Sys2Proof.Machine.execTarm f s
  | .tdis f => Sys2Proof.Machine.execTdis f s
  | .olook f => Sys2Proof.Machine.execOlook f s
  | .obind f => Sys2Proof.Machine.execObind f s
  | .obindPub f => Sys2Proof.Machine.execObindPub f s
  | .obindUnb f => Sys2Proof.Machine.execObindUnb f s
  | .ofree f => Sys2Proof.Machine.execOfree f s
  | .oinfo f => Sys2Proof.Machine.execOinfo f s
  | .nwant f => Sys2Proof.Machine.execNwant f s
  | .nhave f => Sys2Proof.Machine.execNhave f s
  | .ndrop f => Sys2Proof.Machine.execNdrop f s
  | .npeek f => Sys2Proof.Machine.execNpeek f s
  | .nrouteAdd f => Sys2Proof.Machine.execNrouteAdd f s
  | .nrouteDel f => Sys2Proof.Machine.execNrouteDel f s
  | .nrouteClr f => Sys2Proof.Machine.execNrouteClr f s
  | .trap f => Sys2Proof.Machine.execTrap f s
  | .rtt f => Sys2Proof.Machine.execRtt f s
  | .rttRpl f => Sys2Proof.Machine.execRttRpl f s
  | .rttEsc f => Sys2Proof.Machine.execRttEsc f s
  | .mpoint f => Sys2Proof.Machine.execMpoint f s
  | .sysr f => Sys2Proof.Machine.execSysr f s
  | .sysw f => Sys2Proof.Machine.execSysw f s
  | .cntr f => Sys2Proof.Machine.execCntr f s
  | .monctlClaim f => Sys2Proof.Machine.execMonctlClaim f s
  | .monctlFree f => Sys2Proof.Machine.execMonctlFree f s
  | .monctlSet f => Sys2Proof.Machine.execMonctlSet f s
  | .monctlRead f => Sys2Proof.Machine.execMonctlRead f s
  | .tlbinvVa f => Sys2Proof.Machine.execTlbinvVa f s
  | .tlbinvCtx f => Sys2Proof.Machine.execTlbinvCtx f s
  | .tlbinvAll f => Sys2Proof.Machine.execTlbinvAll f s
  | .keyselGen f => Sys2Proof.Machine.execKeyselGen f s
  | .keyselDel f => Sys2Proof.Machine.execKeyselDel f s
  | .tailWrite q value => Sys2Proof.Machine.execTailWrite q value s
  | .packetHeaderReread q => Sys2Proof.Machine.execPacketHeaderReread q s
  | .launchPacket q => Sys2Proof.Machine.execLaunchPacket q s
  | .dependPacket q => Sys2Proof.Machine.execDependPacket q s
  | .dependRecheck q => Sys2Proof.Machine.execDependRecheck q s
  | .signalPacket q => Sys2Proof.Machine.execSignalPacket q s
  | .nopkt q => Sys2Proof.Machine.execNopkt q s
  | .queueStallResume q => Sys2Proof.Machine.execQueueStallResume q s
  | .queueMap q facet => Sys2Proof.Machine.execQueueMap q facet s
  | .forcedUnmap facet cls => Sys2Proof.Machine.execForcedUnmap facet cls s
  | .queueIdleUnmap q => Sys2Proof.Machine.execQueueIdleUnmap q s
  | .launchAccept l places => Sys2Proof.Machine.execLaunchAccept l places s
  | .groupPlace l facet cores => Sys2Proof.Machine.execGroupPlace l facet cores s
  | .acqGrant g => Sys2Proof.Machine.execAcqGrant g s
  | .relLower g => Sys2Proof.Machine.execRelLower g s
  | .allowExpiry g => Sys2Proof.Machine.execAllowExpiry g s
  | .taskRetire g => Sys2Proof.Machine.execTaskRetire g s
  | .launchComplete l => Sys2Proof.Machine.execLaunchComplete l s
  | .cancelWordWrite l value => Sys2Proof.Machine.execCancelWordWrite l value s
  | .commandComplete g w cls seq ans => Sys2Proof.Machine.execCommandComplete g w cls seq ans s
  | .launchEnd l => Sys2Proof.Machine.execLaunchEnd l s
  | .resumeRetry token => Sys2Proof.Machine.execResumeRetry token s
  | .resumeEnd token => Sys2Proof.Machine.execResumeEnd token s
  | .preemptWrite value => Sys2Proof.Machine.execPreemptWrite value s
  | .priorityPreempt l facet => Sys2Proof.Machine.execPriorityPreempt l facet s
  | .saveDeadline g => Sys2Proof.Machine.execSaveDeadline g s
  | .groupSave g => Sys2Proof.Machine.execGroupSave g s
  | .groupRestore g places => Sys2Proof.Machine.execGroupRestore g places s
  | .fairnessRun g w => Sys2Proof.Machine.execFairnessRun g w s
  | .sleepWake g w => Sys2Proof.Machine.execSleepWake g w s
  | .benchPlace facet core => Sys2Proof.Machine.execBenchPlace facet core s
  | .standDown g => Sys2Proof.Machine.execStandDown g s
  | .stoodDownWake g => Sys2Proof.Machine.execStoodDownWake g s
  | .timerExpire facet idx => Sys2Proof.Machine.execTimerExpire facet idx s
  | .pageMigrate ctx va facet frame => Sys2Proof.Machine.execPageMigrate ctx va facet frame s
  | .hostMemAccess pa write bytes => Sys2Proof.Machine.execHostMemAccess pa write bytes s
  | .hostRecall pa => Sys2Proof.Machine.execHostRecall pa s
  | .interestArrive at_ => Sys2Proof.Machine.execInterestArrive at_ s
  | .tileArrive at_ => Sys2Proof.Machine.execTileArrive at_ s
  | .interestExpire router key => Sys2Proof.Machine.execInterestExpire router key s
  | .shelfCopyExpire router key => Sys2Proof.Machine.execShelfCopyExpire router key s
  | .expiryNotice at_ => Sys2Proof.Machine.execExpiryNotice at_ s
  | .flitReceive port f => Sys2Proof.Machine.execFlitReceive port f s
  | .replayRequest port f => Sys2Proof.Machine.execReplayRequest port f s
  | .ackTimeout port => Sys2Proof.Machine.execAckTimeout port s
  | .linkTraining port maskA maskB speedsA speedsB verified => Sys2Proof.Machine.execLinkTraining port maskA maskB speedsA speedsB verified s
  | .trainingRetry port => Sys2Proof.Machine.execTrainingRetry port s
  | .bucketDrain router => Sys2Proof.Machine.execBucketDrain router s
  | .peerRetireFlit final => Sys2Proof.Machine.execPeerRetireFlit final s
  | .routeRegenerate fabric routes => Sys2Proof.Machine.execRouteRegenerate fabric routes s
  | .thermHot facet core => Sys2Proof.Machine.execThermHot facet core s
  | .thermThrottle facet core => Sys2Proof.Machine.execThermThrottle facet core s
  | .throttleStep facet => Sys2Proof.Machine.execThrottleStep facet s
  | .thermTrip facet core => Sys2Proof.Machine.execThermTrip facet core s
  | .coldReset boot => Sys2Proof.Machine.execColdReset boot s
  | .hostPortTrain rate width cxl => Sys2Proof.Machine.execHostPortTrain rate width cxl s
  | .healthWrite value => Sys2Proof.Machine.execHealthWrite value s
  | .drvstatWrite value => Sys2Proof.Machine.execDrvstatWrite value s
  | .registerWrite offset value => Sys2Proof.Machine.execRegisterWrite offset value s
  | .qclear => Sys2Proof.Machine.execQclear s
  | .bias => Sys2Proof.Machine.execBias s
  | .pageans => Sys2Proof.Machine.execPageans s
  | .fwupd accepted version => Sys2Proof.Machine.execFwupd accepted version s
  | .fwupdSwitch => Sys2Proof.Machine.execFwupdSwitch s
  | .drain => Sys2Proof.Machine.execDrain s
  | .drainComplete => Sys2Proof.Machine.execDrainComplete s
  | .attest => Sys2Proof.Machine.execAttest s
  | .logset => Sys2Proof.Machine.execLogset s
  | .prset => Sys2Proof.Machine.execPrset s
  | .drvcmdBadOp op => Sys2Proof.Machine.execDrvcmdBadOp op s
  | .contextEnd ctx => Sys2Proof.Machine.execContextEnd ctx s
  | .partitionChange base log2 shelfUnits reserve => Sys2Proof.Machine.execPartitionChange base log2 shelfUnits reserve s
  | .referenceClockEdge => Sys2Proof.Machine.execReferenceClockEdge s
  | .thermDrop facet core level => Sys2Proof.Machine.execThermDrop facet core level s
  | .contextCreate c => Sys2Proof.Machine.execContextCreate c s
  | .queueRegister ctx cb => Sys2Proof.Machine.execQueueRegister ctx cb s

end Sys2Proof.Machine
end

