-- ==== Sys2Proof/Machine/Step.lean ====
section
/-! DEFINITION. One step of the machine: one turn of one agent. -/

namespace Sys2Proof.Machine

open Sys2Proof

/-- An outcome with its next state changed. -/
def onNext (f : State → State) : Host.Outcome State Fault Refusal → Host.Outcome State Fault Refusal
  | .next s => .next (f s)
  | .fault r => .fault r
  | .refused r => .refused r

/-- A turn: an instruction of a wave, fetched, decoded and run, or a device event. What the waves of the groups concerned then
complete among themselves is completed (R309 to R314, R419), and what waits at ports is served (R345,
R347). -/
def takeTurn (s : State) : Turn → Host.Outcome State Fault Refusal
  | .event i => if isEvent i then onNext (fun t => t.settleAll.servePorts) (exec i s) else .fault .notADeviceEvent
  | .issue g w =>
    match s.fetchTurn g w with
    | .error s => .next (s.settle g).servePorts
    | .ok (s, x) =>
      match decodeWord x with
      | .error _ => .next ((s.noteIssue g w s.illegalWord).settle g).servePorts
      | .ok i => onNext (fun t => ((s.noteIssue g w t).settle g).servePorts) (exec i s)

/-- One step: the turn that the agenda names first, or else the turn of `State.autoTurn`. -/
def step (s : State) : Host.Outcome State Fault Refusal :=
  match s.agenda with
  | t :: rest => takeTurn { s with tick := s.tick + 1, agenda := rest } t
  | [] => takeTurn { s with tick := s.tick + 1 } s.autoTurn

/-- A state whose next step fetches and runs the instruction with the bits of `w` (assumption 1). -/
def State.withFetchWord (s : State) (nbits w : Nat) : State := s.withWord (w % 2 ^ min nbits 96)

end Sys2Proof.Machine
end

