-- ==== Sys2Proof/Safety.lean ====
section
/-! DEFINITION. The terms that the statements are made in: the canonical stores, what an issue finds, and what it leaves. -/

namespace Sys2Proof.Machine

open Sys2Proof

/-! ### The invariant of the package -/

/-- The package is whole: main memory and the scratchpad are in canonical form, so that equal contents are equal data, and there are
64 facets (R20), 18 routers (R364) and 24 ports (R429). -/
def State.whole (s : State) : Bool :=
  s.mem.wf && s.spad.wf && s.facets.length = 64 && s.routers.length = 18 && s.ports.length = 24

/-! ### What an issue finds -/

/-- The context in which an instruction of a form issues: a wave is set to issue, the operands are legal (R49, R61), and a lane is
active (R15, R53). -/
def State.issued (s : State) (op : Nat) (f : Form) (d a b : Allow) (x : Option Allow := none) : Option Ctx :=
  (s.context f).filter (fun c => c.operandsOk op d a b x && decide (c.act ≠ 0))

/-- An instruction that issues with legal operands and an active lane, where `ok` holds, has the effect `post`. -/
def Effects (i : Instr) (op : Nat) (f : Form) (d a b : Allow) (x : Option Allow) (ok : Ctx → Prop)
    (post : State → Ctx → State → Prop) : Prop :=
  ∀ s c, s.issued op f d a b x = some c → ok c → ∃ t, exec i s = .next t ∧ post s c t

/-- The sources A, B and C of an instruction's type in a lane, as integers (R98). -/
def Ctx.intA (c : Ctx) (f : Form) (l : Nat) : Int := c.readInt 1 f.ty f.a l
def Ctx.intB (c : Ctx) (f : Form) (l : Nat) : Int := c.readInt 2 f.ty f.b l
def Ctx.intC (c : Ctx) (f : Form) (l : Nat) : Int := c.readInt 3 f.ty f.c l

/-- The sources A, B and C, and the old D, of an instruction's type in a lane, as bit patterns (R98). -/
def Ctx.patA (c : Ctx) (f : Form) (l : Nat) : Nat := c.read 1 f.ty f.a l
def Ctx.patB (c : Ctx) (f : Form) (l : Nat) : Nat := c.read 2 f.ty f.b l
def Ctx.patC (c : Ctx) (f : Form) (l : Nat) : Nat := c.read 3 f.ty f.c l
def Ctx.patD (c : Ctx) (f : Form) (l : Nat) : Nat := c.read 3 f.ty f.d l

/-- The sources A, B and C in a lane as 32-bit numbers, whatever the type (R97). -/
def Ctx.smallA (c : Ctx) (f : Form) (l : Nat) : Nat := c.read 1 .n32 f.a l
def Ctx.smallB (c : Ctx) (f : Form) (l : Nat) : Nat := c.read 2 .n32 f.b l
def Ctx.smallC (c : Ctx) (f : Form) (l : Nat) : Nat := c.read 3 .n32 f.c l

/-- The predicates that A, B and C name, and the old one of D, in a lane. -/
def Ctx.predA (c : Ctx) (f : Form) (l : Nat) : Bool := c.read 1 .b32 f.a l = 1
def Ctx.predB (c : Ctx) (f : Form) (l : Nat) : Bool := c.read 2 .b32 f.b l = 1
def Ctx.predC (c : Ctx) (f : Form) (l : Nat) : Bool := c.read 3 .b32 f.c l = 1
def Ctx.predD (c : Ctx) (f : Form) (l : Nat) : Bool := c.read 3 .b32 f.d l = 1

/-- A truth value as the bit that a predicate holds. -/
def bitNat (b : Bool) : Nat := if b then 1 else 0

/-! ### What an issue leaves -/

/-- A result on its way to a register: the destination, whether it takes a pair, and the value of each lane. -/
structure Write where
  dest : Operand
  wide : Bool
  val  : Nat → Nat

/-- What a result puts into v register `r` of a lane, if it writes it (R50, R99). -/
def Write.atV (x : Write) (r l : Nat) : Option Word :=
  match x.dest with
  | .v i => if r = i then some (word (x.val l)) else if x.wide && r = i + 1 then some (word (x.val l / 2 ^ 32)) else none
  | _ => none

/-- What a result puts into s register `r`, from the lane that decides (R32). -/
def Write.atS (x : Write) (r top : Nat) : Option Word :=
  match x.dest with
  | .s i => if r = i then some (word (x.val top)) else if x.wide && r = i + 1 then some (word (x.val top / 2 ^ 32)) else none
  | _ => none

/-- What a result puts into g register `r`, from the lane that decides (R32). -/
def Write.atG (x : Write) (r top : Nat) : Option Word :=
  match x.dest with
  | .g i => if x.wide && r = i + 1 then some (word (x.val top / 2 ^ 32)) else if r = i then some (word (x.val top)) else none
  | _ => none

/-- What a result puts into a lane of predicate `r`. -/
def Write.atP (x : Write) (r l : Nat) : Option Bool :=
  match x.dest with
  | .p i => if r = i then some (decide (x.val l % 2 = 1)) else none
  | _ => none

/-- The lane whose value an s or g register takes: the highest-numbered active one (R32). -/
def Ctx.top (c : Ctx) : Nat := (topLane c.act).getD 0

/-- A v register in a lane after the results of an issue. Lanes that are not active keep what they held (R15), and a register that an
earlier instruction of the same unchecked run wrote holds one of the two values (R56). -/
def Ctx.laterV (c : Ctx) (ws : List Write) (r l : Nat) : Word :=
  let old := c.wave.v? r l
  if c.act.getLsbD l then
    match ws.findSome? (fun x => x.atV r l) with
    | some x => freshWrite c.st.tick 0 r l c.wave.fresh old x
    | none => old
  else old

/-- An s register after the results of an issue. -/
def Ctx.laterS (c : Ctx) (ws : List Write) (r : Nat) : Word :=
  let old := c.wave.s? r
  match ws.findSome? (fun x => x.atS r c.top) with
  | some x => freshWrite c.st.tick 1 r 0 c.wave.fresh old x
  | none => old

/-- A g register after the results of an issue: as it was where a wave with a higher WAVE_ID has written it in the same core clock
(R33). -/
def Ctx.laterG (c : Ctx) (ws : List Write) (r : Nat) : Word :=
  if c.grp.mayG c.wave.id r then (ws.findSome? (fun x => x.atG r c.top)).getD (c.grp.g? r) else c.grp.g? r

/-- 1 for true. -/
def bitWord (b : Bool) : Word := if b then 1 else 0

/-- A predicate in a lane after the results of an issue; p7 stays 1 (R32). -/
def Ctx.laterP (c : Ctx) (ws : List Write) (r l : Nat) : Bool :=
  let old := (c.wave.p? r).getLsbD l
  if c.act.getLsbD l && r ≠ 7 then
    match ws.findSome? (fun x => x.atP r l) with
    | some x => freshWrite c.st.tick 2 r l c.wave.fresh (bitWord old) (bitWord x) = 1
    | none => old
  else old

/-- The v, s, p and g registers are those before the issue but for its results. -/
structure Ctx.Regs (c : Ctx) (ws : List Write) (g : Group) (w : Wave) : Prop where
  v : ∀ r l, l < 64 → w.v? r l = c.laterV ws r l
  s : ∀ r, w.s? r = c.laterS ws r
  p : ∀ r l, l < 64 → (w.p? r).getLsbD l = c.laterP ws r l
  g : ∀ r, g.g? r = c.laterG ws r

/-- The issuing group and wave as a state has them; the other groups, and the other waves of the group, are as they were. -/
structure Ctx.Left (c : Ctx) (s t : State) (g : Group) (w : Wave) : Prop where
  group  : t.group? c.grp.id = some g
  wave   : g.wave? c.wave.id = some w
  groups : ∀ k, k ≠ c.grp.id → t.group? k = s.group? k
  waves  : ∀ k, k ≠ c.wave.id → g.wave? k = c.grp.wave? k

/-- A facet but for its counter bank, which counts the issue (R398). -/
def Facet.unbanked (f : Facet) : Facet := { f with bank := Bank.clear }

/-- The facets are the same but for their counter banks. -/
def State.sameFacets (s t : State) : Prop := t.facets.map Facet.unbanked = s.facets.map Facet.unbanked

/-- Every lane of a mask stands at a PC in a frontier. -/
def Wave.stands (w : Wave) (fr : Nat) (m : Mask) (pc : DWord) : Prop :=
  ∀ l, m.getLsbD l = true → ∃ p ∈ w.paths, p.fr = fr ∧ p.pc = pc ∧ p.mask.getLsbD l = true

/-- The whole path of an issue has gone on to the next word (R47). -/
def Ctx.Advanced (c : Ctx) (w : Wave) : Prop := w.stands c.path.fr c.path.mask (c.path.pc + 12)

/-- A wave changed in its registers, its paths and what an issue counts, and in nothing else: its handles, maps, lanes, frames, commands,
reservations and spill range are as they were. -/
def Wave.sameBut (w old : Wave) : Prop :=
  w = { old with
    v := w.v
    s := w.s
    p := w.p
    fresh := w.fresh
    paths := w.paths
    fair := w.fair
    last := w.last
    run := w.run
    parkedAt := w.parkedAt
    asOf := w.asOf }

/-- An issue that only computes: its results stand in their registers, its path goes on, and nothing else of the machine changes but the
counter of issues. -/
def Computes (ws : Ctx → List Write) (s : State) (c : Ctx) (t : State) : Prop :=
  ∃ g w, c.Left s t g w ∧ t = { s with groups := t.groups, facets := t.facets } ∧ s.sameFacets t
    ∧ g = { c.grp with waves := g.waves, g := g.g, gBy := g.gBy } ∧ w.sameBut c.wave ∧ c.Regs (ws c) g w ∧ c.Advanced w

/-! ### Lanes that go elsewhere -/

/-- A lane stands at a PC in a frontier, with a priority or a higher one that another path brought there (R293). -/
def Wave.standsWith (w : Wave) (fr l : Nat) (pc : DWord) (prio : BitVec 12) : Prop :=
  ∃ p ∈ w.paths, p.fr = fr ∧ p.pc = pc ∧ p.mask.getLsbD l = true ∧ prio.toNat ≤ p.prio.toNat

/-- A lane stands at a PC in a frontier, with a priority or a higher one, which is that of something else that has come to the same PC:
a path of the old frontier there, or the rest of the issuing path, or another lane (R293). -/
def Ctx.Arrived (c : Ctx) (dest : Nat → DWord × BitVec 12) (w : Wave) (l : Nat) (pc : DWord) (prio : BitVec 12) : Prop :=
  ∃ p ∈ w.paths, p.fr = c.path.fr ∧ p.pc = pc ∧ p.mask.getLsbD l = true ∧ (p.prio = prio ∨ (prio.toNat < p.prio.toNat
    ∧ ((∃ j, c.act.getLsbD j = true ∧ dest j = (pc, p.prio))
      ∨ ∃ q ∈ c.wave.paths, q.fr = c.path.fr ∧ q.prio = p.prio ∧ pc = if q.id = c.path.id then q.pc + 12 else q.pc)))

/-- Each active lane has gone to its destination with its priority, the rest of its path to the next word, and every other path stays
(R293, R301). -/
structure Ctx.Went (c : Ctx) (dest : Nat → DWord × BitVec 12) (w : Wave) : Prop where
  gone   : ∀ l, c.act.getLsbD l = true → c.Arrived dest w l (dest l).1 (dest l).2
  rest   : w.stands c.path.fr (c.path.mask &&& ~~~c.act) (c.path.pc + 12)
  others : ∀ p ∈ c.wave.paths, p.id ≠ c.path.id → w.stands p.fr p.mask p.pc

/-- An issue that writes its results and branches; nothing else of the machine changes but the counter of issues. -/
def Branches (ws : Ctx → List Write) (dest : Ctx → Nat → DWord × BitVec 12) (s : State) (c : Ctx) (t : State) : Prop :=
  ∃ g w, c.Left s t g w ∧ t = { s with groups := t.groups, facets := t.facets } ∧ s.sameFacets t
    ∧ g = { c.grp with waves := g.waves, g := g.g, gBy := g.gBy } ∧ w.sameBut { c.wave with nextId := w.nextId } ∧ c.Regs (ws c) g w
    ∧ c.Went (dest c) w

/-- An issue that changes its wave in a part that is no register, and goes on; `after` is the wave before its path goes on. -/
def Adjusts (after : Ctx → Wave) (s : State) (c : Ctx) (t : State) : Prop :=
  ∃ g w, c.Left s t g w ∧ t = { s with groups := t.groups, facets := t.facets } ∧ s.sameFacets t
    ∧ g = { c.grp with waves := g.waves } ∧ w.sameBut (after c) ∧ c.Regs [] g w ∧ c.Advanced w

/-- An issue whose path then waits at its instruction for other lanes, before what the group's waves can complete among themselves is
completed (R309, R312, R419). -/
def Stands (x : PathWait) (s : State) (c : Ctx) (t : State) : Prop :=
  ∃ g w, c.Left s t g w ∧ t = { s with groups := t.groups, facets := t.facets } ∧ s.sameFacets t
    ∧ g = { c.grp with waves := g.waves } ∧ w.sameBut c.wave ∧ c.Regs [] g w
    ∧ (∀ l, c.path.mask.getLsbD l = true →
        ∃ p ∈ w.paths, p.fr = c.path.fr ∧ p.pc = c.path.pc ∧ p.mask.getLsbD l = true ∧ p.wait ≠ .ready)
    ∧ ((∀ p ∈ c.wave.paths, p.id ≠ c.path.id → ¬(p.fr = c.path.fr ∧ p.pc = c.path.pc)) →
        ∀ l, c.path.mask.getLsbD l = true →
          ∃ p ∈ w.paths, p.fr = c.path.fr ∧ p.pc = c.path.pc ∧ p.mask.getLsbD l = true ∧ p.wait = x)

/-- An instruction that is not issued yet: its wave has it still to issue, and nothing else changes (R55). -/
def Waits (s : State) (c : Ctx) (t : State) : Prop :=
  ∃ g w, c.Left s t g w ∧ t = { s with groups := t.groups } ∧ g = { c.grp with waves := g.waves }
    ∧ w = { c.wave with park := w.park, held := w.held, parkedAt := w.parkedAt, asOf := w.asOf, run := w.run, fair := w.fair }
    ∧ ∃ park port, w.park = .retry park port

/-! ### Commands -/

/-- A command of the issuing wave as it is submitted (R206). -/
def Ctx.order (c : Ctx) (cls : Nat) (e : Effect) (h : Option Nat) (rel : Bool := false) (status : Byte := 0) : Order :=
  { cls := cls, effect := e, pc := c.path.pc, mask := c.act, h := h, rel := rel, status := status }

/-- The translations of the pages that an effect touches, if all of them succeed (R179, R180). -/
def Ctx.pinsFor (c : Ctx) (e : Effect) : Option (List Pin) :=
  match (c.st.translateAll c.grp.facet c.wave.core c.grp.ctx e.access.2 e.access.1 []).1 with
  | .ok pins => some pins
  | .error _ => none

/-- A command can be accepted now: its class and the queue of its engine have room (R151, R179, R206), its context has a key where it
reaches main memory (R394), and its pages translate (R180). -/
structure Ctx.Takes (c : Ctx) (o : Order) : Prop where
  room  : c.full o.cls = false
  key   : o.effect.access.1 = [] ∨ c.st.keyBound c.grp.ctx = true
  pages : (c.pinsFor o.effect).isSome = true

/-- A wave that has submitted a command: the command waits with what it was submitted with and the next sequence number of its class,
its handle stands in the register it names, and no command that is not yet signalled is lost (R206 to R208). -/
structure Ctx.Ordered (c : Ctx) (o : Order) (w : Wave) : Prop where
  cmd     : ∃ k ∈ w.cmds, k.cls = o.cls ∧ k.seq = c.wave.nextSeq o.cls ∧ k.effect = o.effect ∧ k.pc = o.pc ∧ k.mask = o.mask
              ∧ k.rel = o.rel ∧ k.status = o.status ∧ k.stage = o.stage ∧ k.reported = false ∧ k.order = c.wave.order
              ∧ c.pinsFor o.effect = some k.pins
  kept    : ∀ k ∈ c.wave.cmds, k.stage ≠ .signalled → k ∈ w.cmds
  others  : ∀ k ∈ w.cmds, k ∈ c.wave.cmds ∨ (k.cls = o.cls ∧ k.seq = c.wave.nextSeq o.cls)
  seqs    : ∀ cls, w.nextSeq cls = if cls = o.cls then c.wave.nextSeq cls + 1 else c.wave.nextSeq cls
  handles : ∀ r, w.h? r = if o.h = some r then .own o.cls (c.wave.nextSeq o.cls) else c.wave.h? r

/-- A wave changed in its commands, handles and latch tag, in its paths and in what an issue counts, and in nothing else. -/
def Wave.sameButCmds (w old : Wave) : Prop :=
  w.sameBut { old with
    cmds := w.cmds
    seqs := w.seqs
    order := w.order
    h := w.h
    latchTag := w.latchTag }

/-- An issue that submits a command and goes on: registers and memory are as before. `tag` is the latch tag it leaves, and `also` what
it changes in its group. -/
def AcceptedAs (o : Ctx → Order) (tag : Ctx → Option (MatKind × Ty × Nat)) (also : Ctx → Group → Group) (s : State) (c : Ctx)
    (t : State) : Prop :=
  ∃ g w, c.Left s t g w
    ∧ t = { s with groups := t.groups, facets := t.facets, tlb := t.tlb, matq := t.matq } ∧ s.sameFacets t
    ∧ t.matq = (if (o c).cls = 4
        then insertMat (s.laterEntry c.grp c.wave) (.cmd c.grp.facet c.wave.core c.grp.id c.wave.id (c.wave.nextSeq 4)) s.matq else s.matq)
    ∧ g = { also c c.grp with waves := g.waves } ∧ w.sameButCmds c.wave ∧ w.latchTag = tag c ∧ c.Regs [] g w ∧ c.Ordered (o c) w
    ∧ c.Advanced w

/-- An issue that only submits a command. -/
def Accepted (o : Ctx → Order) : State → Ctx → State → Prop := AcceptedAs o (fun c => c.wave.latchTag) (fun _ g => g)

/-- A held-back command of a divisible task: it is performed at once by the writing of its record (R184). -/
def HeldBack (o : Ctx → Order) (d : Ctx → Deferred) (size : Ctx → Nat) : State → Ctx → State → Prop :=
  AcceptedAs (fun c => { o c with stage := .performed }) (fun c => c.wave.latchTag)
    (fun c g => { g with deferred := g.deferred ++ [(c.path.pc, d c)], deferUsed := g.deferUsed + size c })

/-! ### Local storage -/

/-- A wave, and a group, without reservations and marks of uncorrectable words, which a store to local storage ends (R203, R221). -/
def Wave.plain (w : Wave) : Wave := { w with resvS := [], resvP := [] }
def Group.plain (g : Group) : Group := { g with waves := g.waves.map Wave.plain, badShared := [] }

/-- The key of a local address: in the group's shared memory, or in the scratchpad of its die. -/
def Ctx.localKey (c : Ctx) (sp : Bool) (a : Nat) : Nat := if sp then spadKey c.grp.die a else a

/-- A byte of local storage by its key. -/
def localByte (g : Group) (s : State) (sp : Bool) (k : Nat) : Byte := if sp then s.spad.read k else g.shared.read k

/-- A local access that no check of R215 stops, that waits for nothing (R245, R249), and that reads no uncorrectable word (R203). -/
structure Ctx.Reaches (c : Ctx) (sp read write : Bool) (off : Int) (rel : Bool) : Prop where
  checks : checkLanes c.st c.grp sp write (tySize c.form.ty) ((lanesOf c.act).map (c.localAddr off)) = none
  order  : c.wave.releaseOwed = false ∧ (rel = false ∨ c.wave.allDone (fun _ => true) = true)
  good   : read = false ∨ ∀ l, c.act.getLsbD l = true → c.st.badLocal c.grp sp (c.localAddr off l) (tySize c.form.ty) = none

/-- What lies at a key after elements of `n` bytes have been stored by some lanes, the last of a list winning (R216). -/
def Ctx.storedAt (c : Ctx) (sp : Bool) (off : Int) (n : Nat) (val : Nat → Nat) (lanes : List Nat) (old : Byte) (k : Nat) : Byte :=
  lanes.foldl (fun b l =>
    let a := c.localKey sp (c.localAddr off l)
    if a ≤ k && k < a + n then BitVec.ofNat 8 (val l / 2 ^ (8 * (k - a))) else b) old

/-- The element of `n` bytes at a lane's address, of bytes by key. -/
def Ctx.element (c : Ctx) (sp : Bool) (off : Int) (n : Nat) (bytes : Nat → Byte) (l : Nat) : Nat :=
  ofBytes ((List.range n).map (fun i => bytes (c.localKey sp (c.localAddr off l) + i)))

/-- The bytes by key after some lanes, one after another, have each read its element and stored what `new` makes of it, if anything
(R217). -/
def Ctx.afterRmw (c : Ctx) (sp : Bool) (off : Int) (n : Nat) (new : Nat → Nat → Option Nat) (bytes : Nat → Byte) (lanes : List Nat) :
    Nat → Byte :=
  lanes.foldl (fun m l =>
    match new l (c.element sp off n m l) with
    | some x => fun k => c.storedAt sp off n (fun _ => x) [l] (m k) k
    | none => m) bytes

/-- The active lanes below a lane. -/
def Ctx.lanesBelow (c : Ctx) (l : Nat) : List Nat := (lanesOf c.act).filter (fun j => j < l)

/-- An issue that accesses local storage: its results stand in their registers, its path goes on, the bytes are as `bytes` says, and
besides reservations nothing else changes. -/
def Touches (sp : Bool) (ws : Ctx → List Write) (bytes : Ctx → Byte → Nat → Byte) (s : State) (c : Ctx) (t : State) : Prop :=
  ∃ g w, t.group? c.grp.id = some g ∧ g.wave? c.wave.id = some w
    ∧ (∀ k, k ≠ c.grp.id → (t.group? k).map Group.plain = (s.group? k).map Group.plain)
    ∧ (∀ k, k ≠ c.wave.id → (g.wave? k).map Wave.plain = (c.grp.wave? k).map Wave.plain)
    ∧ t = { s with groups := t.groups, facets := t.facets, spad := t.spad, badSpad := t.badSpad } ∧ s.sameFacets t
    ∧ g.plain = { c.grp.plain with waves := g.plain.waves, g := g.g, gBy := g.gBy, shared := g.shared } ∧ w.plain.sameBut c.wave.plain
    ∧ c.Regs (ws c) g w ∧ c.Advanced w
    ∧ (∀ k, localByte g t sp k = bytes c (localByte c.grp s sp k) k)
    ∧ (if sp then g.shared = c.grp.shared else t.spad = s.spad)

/-- The reservation of a lane (R221). -/
def Wave.resv (w : Wave) (sp : Bool) (l : Nat) : Nat := look 0 (if sp then w.resvP else w.resvS) l

/-! ### Traps and faults -/

/-- The group and wave of an issue after lanes have taken a trap with a handler (R408, R410): the frame is pushed, the lanes stand in its
frontier at the handler, the rest of the path has gone on, and every other path stays. `cmds` are the commands of the wave then. -/
def TrappedAs (t : Ctx → TrapInfo) (cmds : Ctx → List Cmd) (s : State) (c : Ctx) (u : State) : Prop :=
  ∃ g w f, c.Left s u g w ∧ u = { s with groups := u.groups, facets := u.facets } ∧ s.sameFacets u
    ∧ g = { c.grp with waves := g.waves } ∧ w.frames = f :: c.wave.frames
    ∧ f.id = c.wave.nextId ∧ f.code = (t c).code ∧ f.pc = (t c).pc ∧ f.rpc = (t c).rpc ∧ f.info = (t c).info ∧ f.mask = (t c).lanes
    ∧ f.prio = c.path.prio ∧ f.parent = c.path.fr ∧ f.cmd = (t c).cmd ∧ f.status = (t c).status ∧ f.hreg = (t c).hreg
    ∧ f.esc = false
    ∧ w.stands f.id (t c).lanes c.wave.trapVec
    ∧ w.stands c.path.fr (c.path.mask &&& ~~~(t c).lanes) (c.path.pc + 12)
    ∧ (∀ p ∈ c.wave.paths, p.id ≠ c.path.id → w.stands p.fr (p.mask &&& ~~~(t c).lanes) p.pc)
    ∧ (∀ l, (t c).lanes.getLsbD l = true → w.resv false l = 0 ∧ w.resv true l = 0)
    ∧ c.Regs [] g w ∧ w.h = c.wave.h ∧ w.cmds = cmds c ∧ w.exited = c.wave.exited ∧ w.trapVec = c.wave.trapVec

/-- A trap that reports no command. -/
def Trapped (t : Ctx → TrapInfo) : State → Ctx → State → Prop := TrappedAs t (fun c => c.wave.cmds)

/-- A command reported at an instruction whose status raises a recoverable trap: it becomes reported, and the active lanes take the
trap with a handler, to return to the instruction (R209, R210). -/
def Reported (k : Cmd) (code : Code) (hreg : Option Nat) : State → Ctx → State → Prop :=
  TrappedAs (fun c => { lanes := c.act, code := code, pc := k.pc, rpc := c.path.pc, info := if code = codePage then k.info else 0,
                        cmd := some (k.cls, k.seq), status := k.status, hreg := hreg })
    (fun c => c.wave.cmds.map (fun x => if x.cls = k.cls && x.seq = k.seq then { x with reported := true } else x))

/-- What a fault leaves of memory: main memory is as it was, and so is the scratchpad, but for the late bytes of the deliveries to a free
wave, which land as it ends (R343, R370). -/
def Ctx.MemoryKept (c : Ctx) (s t : State) : Prop :=
  t.mem = s.mem ∧ (c.grp.launch ≠ none → t.spad = s.spad)
    ∧ ∀ a, (∀ w ∈ c.grp.waves, ∀ k ∈ w.cmds, k.stage = .landing → ∀ x ∈ k.late, x.1 < 2 ^ 62 → x.1 - 2 ^ 61 ≠ a) →
        t.spad.read a = s.spad.read a

/-- An unrecoverable fault of the issuing path: in a launch it sets out for a firmware core and the wave issues nothing more (R412,
R413), and after a fault of the launch has arrived it is discarded, though the wave issues nothing more; a free wave ends with it
(R343). Registers, memory and the other waves are as they were. -/
structure Faults (code : Code) (s : State) (c : Ctx) (t : State) : Prop where
  at_    : t = c.st.raiseFault c.grp.id c.wave.id code c.path.pc
  launch : ∀ l, c.grp.launch = some l → c.st.ending c.grp = false → ∃ g w, c.Left s t g w ∧ w = { c.wave with dead := true, fresh := [] }
             ∧ g = { c.grp with waves := g.waves } ∧ t = { s with groups := t.groups, faults := t.faults, esc := t.esc }
             ∧ t.faults = s.faults ++ [⟨l, code, c.path.pc, c.grp.ctx, s.edges, c.grp.facet, c.wave.core, c.wave.slot⟩]
  late   : c.st.ending c.grp = true → c.wave.alive = true → ∃ g w, c.Left s t g w ∧ w = { c.wave with dead := true, fresh := [] }
             ∧ g = { c.grp with waves := g.waves } ∧ t = { s with groups := t.groups }
  free   : c.grp.launch = none → c.grp.stat ≠ .exited → ∃ g, t.group? c.grp.id = some g ∧ g.stat = .exited
             ∧ g.free = c.grp.free.map (fun x => { x with code := code, faultPc := c.path.pc })
             ∧ ∀ w ∈ g.waves, w.paths = [] ∧ w.exited = w.present
  memory : c.MemoryKept s t

end Sys2Proof.Machine
end

