-- ==== Sys2Proof/WellFormed.lean ====
section
/-! DEFINITION. Which instructions are well formed: the terms that some word of the hardware stands for, and the device
events whose numbers are in range. -/

namespace Sys2Proof

open Sys2Proof.Machine

/-- An operand whose index lies in its space (R49). A `bad` field is one that decodes to nothing else. -/
def Operand.wf : Operand → Bool
  | .v n => n < 256
  | .s n => n < 384
  | .p n => n < 8
  | .h n => n < 16
  | .g n => n < 16
  | .m n => n < 8
  | .a n => n < 32
  | .bad raw => Operand.decode raw == .bad raw
  | _ => true

/-- A form whose operands lie in their spaces. -/
def Form.wf (f : Form) : Bool := f.d.wf && f.a.wf && f.b.wf

/-- The device events name facets, routers, ports, classes and cores that exist (R17, R205, R364, R429). -/
def eventWf : Instr → Bool
  | .queueMap _ facet => facet < 64
  | .forcedUnmap facet cls => facet < 64 && cls < 4
  | .launchAccept _ places => places.all (fun (facet, cores) => facet < 64 && cores.all (· < 8) && !cores.isEmpty)
  | .groupPlace _ facet cores => facet < 64 && cores.all (· < 8) && !cores.isEmpty
  | .commandComplete _ w cls seq _ => w < 128 && 1 ≤ cls && cls ≤ 6 && seq < 2 ^ 20
  | .priorityPreempt _ facet => facet < 64
  | .groupRestore _ places => places.all (fun (facet, cores) => facet < 64 && cores.all (· < 8) && !cores.isEmpty)
  | .fairnessRun _ w | .sleepWake _ w => w < 128
  | .benchPlace facet core => facet < 64 && core < 8
  | .timerExpire facet _ => facet < 64
  | .pageMigrate _ _ facet _ => facet < 64
  | .hostMemAccess pa _ _ => pa < 2 ^ 40 + 2 ^ 36 || (2 ^ 48 ≤ pa && pa < 2 ^ 60)
  | .hostRecall pa => pa < 2 ^ 40 || (2 ^ 48 ≤ pa && pa < 2 ^ 49)
  | .interestExpire r _ | .shelfCopyExpire r _ | .bucketDrain r => r < 18
  | .flitReceive port f | .replayRequest port f | .peerRetireFlit ⟨port, f⟩ => port < 24 && f.bytes.length = 256
  | .ackTimeout port | .linkTraining port _ _ _ _ _ | .trainingRetry port => port < 24
  | .thermHot facet core | .thermThrottle facet core | .thermTrip facet core => facet < 64 && core < 8
  | .thermDrop facet core level => facet < 64 && core < 8 && level < 3
  | .throttleStep facet => facet < 64
  | .drvcmdBadOp op => op = 0#4 || 9#4 ≤ op
  | .partitionChange base log2 _ _ => log2 ≤ 6 && base < 64 && base % 2 ^ log2 == 0
  | _ => true

/-- A well-formed instruction: a form in range that passes every check of R61 step 2 and that its own OP and VAR stand for;
or a device event in range. -/
def wellFormed (i : Instr) : Bool :=
  match wordOf i with
  | none => eventWf i
  | some (op, f) => f.wf && (checkForm op f).isNone && decide (assemble op f = some i)

end Sys2Proof
end

