-- ==== Sys2Proof/Certificates/Slice0/Obligations.lean ====
section
/-! DEFINITION. The statements for the provers. -/

open Sys2Proof Sys2Proof.Machine

/-! ### Integer arithmetic, logic and moves -/

/-- R103: what the integer arithmetic instructions compute, in every active lane and for every destination, with the lanes, the
registers and the rest of the machine that they leave. Division by zero gives all ones and the dividend, and does not trap. -/
def Obligations.IntegerArithmetic : Prop := ∀ f : Form,
  let w := wideTy f.ty
  let n := tyWidth f.ty
  let sat := fun (t : Int) => wrapInt (if f.var = 1#4 then satInt t f.ty else t) n
  let two := fun (i : Instr) (op : Nat) (val : Ctx → Nat → Nat) =>
    Effects i op f (.dst w) (.src w) (.src w) none (fun _ => True) (Computes fun c => [⟨f.d, w, val c⟩])
  let three := fun (i : Instr) (op : Nat) (val : Ctx → Nat → Nat) =>
    Effects i op f (.dst w) (.src w) (.src w) (some (.src w)) (fun _ => True) (Computes fun c => [⟨f.d, w, val c⟩])
  two (.iadd f) 0x20 (fun c l => sat (c.intA f l + c.intB f l))
  ∧ two (.isub f) 0x21 (fun c l => sat (c.intA f l - c.intB f l))
  ∧ (f.var = 0#4 → two (.imul f) 0x23 (fun c l => wrapInt (c.intA f l * c.intB f l) n))
  ∧ (f.var = 0#4 → two (.imulh f) 0x24 (fun c l => wrapInt (c.intA f l * c.intB f l / 2 ^ n) n))
  ∧ three (.imad f) 0x25 (fun c l => wrapInt (c.intA f l * c.intB f l + c.intC f l) n)
  ∧ (f.var = 0#4 → two (.idiv f) 0x27 (fun c l =>
      wrapInt (if c.intB f l = 0 then 2 ^ n - 1 else (c.intA f l).tdiv (c.intB f l)) n))
  ∧ (f.var = 0#4 → two (.irem f) 0x28 (fun c l =>
      wrapInt (if c.intB f l = 0 then c.intA f l else c.intA f l - c.intB f l * (c.intA f l).tdiv (c.intB f l)) n))
  ∧ (f.var = 0#4 → two (.imin f) 0x29 (fun c l => wrapInt (min (c.intA f l) (c.intB f l)) n))
  ∧ (f.var = 0#4 → two (.imax f) 0x2A (fun c l => wrapInt (max (c.intA f l) (c.intB f l)) n))
  ∧ Effects (.iabs f) 0x2B f (.dst w) (.src w) .unused none (fun _ => True)
      (Computes fun c => [⟨f.d, w, fun l => sat (c.intA f l).natAbs⟩])
  ∧ three (.isad f) 0x2C (fun c l => wrapInt ((c.intA f l - c.intB f l).natAbs + c.intC f l) n)

/-- R104 to R108: add with carry, the widening multiply-add, compare, select and address arithmetic. IADDC writes the carry to the
predicate that C names, a compare under .ACC ANDs into the old value of D, and an IMM of ISETP that names another third operand than none
is the illegal-operand fault; that an IMM of 0 names none is the model's reading (assumption 69). -/
def Obligations.CarryCompareSelect : Prop := ∀ f : Form,
  let w := wideTy f.ty
  let n := tyWidth f.ty
  let sum := fun (c : Ctx) (l : Nat) =>
    c.patA f l + (if f.var.getLsbD 3 then 2 ^ n - 1 - c.patB f l else c.patB f l) + bitNat (c.predC f l)
  let cond := fun (a b : Int) => match f.var.toNat % 8 with
    | 0 => decide (a = b)
    | 1 => decide (a ≠ b)
    | 2 => decide (a < b)
    | 3 => decide (a ≤ b)
    | 4 => decide (b < a)
    | _ => decide (b ≤ a)
  Effects (.iaddc f) 0x22 f (.dst w) (.src w) (.src w) (some .pred) (fun _ => True)
    (Computes fun c => [⟨f.d, w, fun l => sum c l % 2 ^ n⟩, ⟨f.c, false, fun l => bitNat (2 ^ n ≤ sum c l)⟩])
  ∧ Effects (.imadw f) 0x26 f (.dst true) (.src false) (.src false) (some (.src true)) (fun _ => True)
    (Computes fun c => [⟨f.d, true, fun l =>
      wrapInt (c.intA f l * c.intB f l + c.readInt 3 (if f.ty = .s32 then .s64 else .n64) f.c l) 64⟩])
  ∧ (f.var.toNat % 8 < 6 → Effects (.isetp f) 0x2D f .pred (.src w) (.src w) (thirdNone f) (fun _ => True)
    (Computes fun c => [⟨f.d, false, fun l =>
      bitNat (cond (c.intA f l) (c.intB f l) && (!f.var.getLsbD 3 || c.predD f l))⟩]))
  ∧ (f.a ≠ .long → f.b ≠ .long → f.imm ≠ 0 → f.c ≠ .none → ∀ s c, s.context f = some c →
      ∃ t, exec (.isetp f) s = .next t ∧ Faults codeOperand s c t)
  ∧ Effects (.isel f) 0x2E f (.dst w) (.src w) (.src w) (some .pred) (fun _ => True)
    (Computes fun c => [⟨f.d, w, fun l => if c.predC f l then c.patA f l else c.patB f l⟩])
  ∧ Effects (.lea f) 0x2F f (.dst w) (.src w) (.src false) none (fun _ => True)
    (Computes fun c => [⟨f.d, w, fun l =>
      wrapInt (c.patA f l + (if f.var.getLsbD 3 then sx (c.smallB f l) 32 else (c.smallB f l : Int)) * 2 ^ (f.var.toNat % 8)) n⟩])

/-- R110, R111: AND, OR, XOR and NOT on registers and, under B32, on predicates, and LOP3, whose third input is the old D. -/
def Obligations.BitwiseLogic : Prop := ∀ f : Form,
  let w := wideTy f.ty
  let n := tyWidth f.ty
  let two := fun (i : Instr) (op : Nat) (val : Nat → Nat → Nat) (bits : Bool → Bool → Bool) =>
    Effects i op f (.dst w) (.src w) (.src w) none (fun _ => True) (Computes fun c => [⟨f.d, w, fun l => val (c.patA f l) (c.patB f l)⟩])
    ∧ (f.ty = .b32 → Effects i op f .pred .pred .pred none (fun _ => True)
        (Computes fun c => [⟨f.d, false, fun l => bitNat (bits (c.predA f l) (c.predB f l))⟩]))
  two (.and f) 0x30 (fun a b => a &&& b) (fun a b => a && b)
  ∧ two (.or f) 0x31 (fun a b => a ||| b) (fun a b => a || b)
  ∧ two (.xor f) 0x32 (fun a b => a ^^^ b) (fun a b => a != b)
  ∧ Effects (.not f) 0x33 f (.dst w) (.src w) .unused none (fun _ => True)
      (Computes fun c => [⟨f.d, w, fun l => 2 ^ n - 1 - c.patA f l⟩])
  ∧ (f.ty = .b32 → Effects (.not f) 0x33 f .pred .pred .unused none (fun _ => True)
      (Computes fun c => [⟨f.d, false, fun l => bitNat (!c.predA f l)⟩]))
  ∧ Effects (.lop3 f) 0x34 f (.reg w) (.src w) (.src w) none (fun _ => True)
      (Computes fun c => [⟨f.d, w, fun l => ((List.range n).filter (fun i => f.imm.toNat.testBit
        (bitNat ((c.patA f l).testBit i) + 2 * bitNat ((c.patB f l).testBit i) + 4 * bitNat ((c.patD f l).testBit i)))).foldl
        (fun acc i => acc + 2 ^ i) 0⟩])

/-- R112 to R116: shifts, the funnel shift, bit fields, counts and bit reversal. The shift amount is the 32-bit number in B, and an
amount of the width or more shifts everything out. -/
def Obligations.ShiftsAndFields : Prop := ∀ f : Form,
  let w := wideTy f.ty
  let n := tyWidth f.ty
  let shift := fun (i : Instr) (op : Nat) (val : Nat → Nat → Nat) =>
    Effects i op f (.dst w) (.src w) (.src false) none (fun _ => True)
      (Computes fun c => [⟨f.d, w, fun l => val (c.patA f l) (c.smallB f l)⟩])
  let small : Allow := .src false
  shift (.shl f) 0x35 (fun a k => a * 2 ^ k % 2 ^ n)
  ∧ shift (.shr f) 0x36 (fun a k => a / 2 ^ k)
  ∧ shift (.shra f) 0x37 (fun a k => wrapInt (sx a n / 2 ^ k) n)
  ∧ (f.ty = .b32 → Effects (.fshf f) 0x38 f (.dst false) small small (some small) (fun _ => True)
      (Computes fun c => [⟨f.d, false, fun l =>
        let t := c.patA f l * 2 ^ 32 + c.patB f l
        let k := min (c.smallC f l) 32
        (if f.var = 1#4 then t * 2 ^ k / 2 ^ 32 else t / 2 ^ k) % 2 ^ 32⟩]))
  ∧ Effects (.bfx f) 0x39 f (.dst w) (.src w) small (some small) (fun _ => True)
      (Computes fun c => [⟨f.d, w, fun l =>
        let len := min (c.smallC f l) n
        let x := wrapInt (c.intA f l / 2 ^ min (c.smallB f l) n) len
        if len = 0 then 0 else wrapInt (if tySigned f.ty then sx x len else x) n⟩])
  ∧ Effects (.bfi f) 0x3A f (.dst w) (.src w) (.src w) (some small) (fun _ => True)
      (Computes fun c => [⟨f.d, w, fun l =>
        let pos := c.smallC f l % 256
        let mask := (2 ^ (c.smallC f l / 256 % 256) - 1) * 2 ^ pos % 2 ^ n
        (c.patA f l &&& (2 ^ n - 1 - mask)) ||| (c.patB f l * 2 ^ pos % 2 ^ n &&& mask)⟩])
  ∧ Effects (.popc f) 0x3B f (.dst false) (.src w) .unused none (fun _ => True)
      (Computes fun c => [⟨f.d, false, fun l => ((List.range n).filter (fun i => (c.patA f l).testBit i)).length⟩])
  ∧ Effects (.clz f) 0x3C f (.dst false) (.src w) .unused none (fun _ => True)
      (Computes fun c => [⟨f.d, false, fun l => if c.patA f l = 0 then n else n - 1 - Nat.log2 (c.patA f l)⟩])
  ∧ Effects (.brev f) 0x3D f (.dst w) (.src w) .unused none (fun _ => True)
      (Computes fun c => [⟨f.d, w, fun l => ((List.range n).filter (fun i => (c.patA f l).testBit i)).foldl
        (fun acc i => acc + 2 ^ (n - 1 - i)) 0⟩])

/-- The register above one that names the lower half of a pair. -/
def upperHalf : Operand → Operand
  | .v i => .v (i + 1)
  | .s i => .s (i + 1)
  | .g i => .g (i + 1)
  | o => o

/-- R117 to R122: moves, immediates, and the instructions that move values between lanes. MOVI.HI writes the upper half of a pair and
leaves the lower, and WRLANE writes one lane at most. -/
def Obligations.MovesAndLanes : Prop := ∀ f : Form,
  let w := wideTy f.ty
  let imm : Allow := { imm := true, long := true }
  let small : Allow := .src false
  Effects (.mov f) 0x3E f (.dst w) (.src w) .unused none (fun _ => True) (Computes fun c => [⟨f.d, w, c.patA f⟩])
  ∧ (f.var = 0#4 → Effects (.movi f) 0x3F f (.dst w) imm .unused none (fun _ => True) (Computes fun c => [⟨f.d, w, c.patA f⟩]))
  ∧ (f.var = 1#4 → Effects (.movi f) 0x3F f (.reg true) imm .unused none (fun _ => True)
      (Computes fun c => [⟨upperHalf f.d, false, fun l => c.read 1 .b32 f.a l⟩]))
  ∧ Effects (.shfl f) 0x40 f (.vreg w) (.vreg w) small none (fun _ => True)
      (Computes fun c => [⟨f.d, w, fun l =>
        let size := 64 / 2 ^ (f.var.toNat / 4)
        let base := l - l % size
        let j := c.smallB f l
        c.lane 1 w (vIndex f.a) (match f.var.toNat % 4 with
          | 0 => base + j % size
          | 1 => if j ≤ l - base then l - j else l
          | 2 => if l - base + j < size then l + j else l
          | _ => l ^^^ (j % size))⟩])
  ∧ Effects (.rdlane f) 0x41 f (.dst w) (.vreg w) (.uni false) none (fun _ => True)
      (Computes fun c => [⟨f.d, w, fun _ => c.lane 1 w (vIndex f.a) (c.smallB f 0 % 64)⟩])
  ∧ (∀ s c, s.issued 0x42 f (.vreg w) (.uni w) (.uni false) = some c → ∃ t, exec (.wrlane f) s = .next t ∧
      Computes (fun c => [⟨f.d, w, fun _ => c.patA f 0⟩]) s { c with act := c.act &&& laneBit (c.smallB f 0 % 64) } t)
  ∧ Effects (.bcast f) 0x43 f (.dst w) (.vreg w) .unused none (fun _ => True)
      (Computes fun c => [⟨f.d, w, fun _ => c.lane 1 w (vIndex f.a)
        ((if f.var = 1#4 then topLane c.act else lowLane c.act).getD 0)⟩])
  ∧ (f.ty = .b32 → Effects (.prmt f) 0x44 f (.dst false) small small (some small) (fun _ => True)
      (Computes fun c => [⟨f.d, false, fun l =>
        let ctl := c.patC f l
        let byte := fun (i : Nat) =>
          let x := (c.patB f l * 2 ^ 32 + c.patA f l) / 2 ^ (8 * (ctl / 2 ^ (3 * i) % 8)) % 256
          if ctl.testBit (12 + i) then 0 else if ctl.testBit (16 + i) then (if 128 ≤ x then 255 else 0) else x
        byte 0 + 2 ^ 8 * byte 1 + 2 ^ 16 * byte 2 + 2 ^ 24 * byte 3⟩]))


/-! ### Floating point -/

/-- The place of an F32 pattern that is no NaN in the order of R125, in which -0 stands below +0. -/
def orderKey (x : Nat) : Int := if x < 2 ^ 31 then x else -((x : Int) - 2 ^ 31) - 1

/-- Whether an F32 pattern is a NaN (R77). -/
def nanPattern (x : Nat) : Bool := x / 2 ^ 23 % 256 = 255 && x % 2 ^ 23 ≠ 0

/-- R125: FMIN and FMAX return the pattern of the lesser or greater operand in the order that puts -0 below +0; a NaN gives the other
operand, or under .NAN the canonical NaN. -/
def Obligations.MinimumAndMaximum : Prop := ∀ f : Form, f.ty = .f32 →
  let pick := fun (less : Bool) (x y : Nat) =>
    if nanPattern x && nanPattern y then 0x7FC00000
    else if nanPattern x || nanPattern y then (if f.var = 1#4 then 0x7FC00000 else if nanPattern x then y else x)
    else if orderKey x < orderKey y then (if less then x else y)
    else if less then y else x
  let two := fun (i : Instr) (op : Nat) (less : Bool) =>
    Effects i op f (.dst false) (.src false) (.src false) none (fun _ => True)
      (Computes fun c => [⟨f.d, false, fun l => pick less (c.patA f l) (c.patB f l)⟩])
  two (.fmin f) 0x4C true ∧ two (.fmax f) 0x4D false

/-- R127's table: the class of an F32 pattern, from minus infinity (0) over the finite numbers in rising order to plus infinity (7), with
NaN last (8). -/
def classOf (x : Nat) : Nat :=
  let exponent := x / 2 ^ 23 % 256
  let neg := decide (2 ^ 31 ≤ x)
  if nanPattern x then 8
  else if exponent = 255 then (if neg then 0 else 7)
  else if 0 < exponent then (if neg then 1 else 6)
  else if 0 < x % 2 ^ 23 then (if neg then 2 else 5)
  else if neg then 3 else 4

/-- R124, R126, R127: the F32 arithmetic, compare and classify instructions. Sums are one exact sum rounded once (R94), and -0 equals +0
in a compare. FCLASS gives the bit of the class, or whether a mask has it. -/
def Obligations.FloatArithmetic : Prop := ∀ f : Form, f.ty = .f32 →
  let m := modeOf f.var
  let two := fun (i : Instr) (op : Nat) (val : FVal → FVal → Nat) =>
    Effects i op f (.dst false) (.src false) (.src false) none (fun _ => True)
      (Computes fun c => [⟨f.d, false, fun l => val (dec .f32 (c.patA f l)) (dec .f32 (c.patB f l))⟩])
  let cond := fun (x y : FVal) => match f.var.toNat % 8 with
    | 0 => !(x.isNan || y.isNan) && !ltFin x y && !ltFin y x
    | 1 => x.isNan || y.isNan || ltFin x y || ltFin y x
    | 2 => !(x.isNan || y.isNan) && ltFin x y
    | 3 => !(x.isNan || y.isNan) && !ltFin y x
    | 4 => !(x.isNan || y.isNan) && ltFin y x
    | 5 => !(x.isNan || y.isNan) && !ltFin x y
    | 6 => !(x.isNan || y.isNan)
    | _ => x.isNan || y.isNan
  two (.fadd f) 0x48 (fun x y => dotRound [(x, .one)] y m)
  ∧ two (.fsub f) 0x49 (fun x y => dotRound [(x, .one)] y.negate m)
  ∧ two (.fmul f) 0x4A (fun x y =>
      if x.isNan || y.isNan || (x.isInf && y.isZero) || (x.isZero && y.isInf) then 0x7FC00000
      else if x.isInf || y.isInf then roundF (.inf (x.sign != y.sign)) .f32 m false
      else roundF (x.mulFin y) .f32 m false)
  ∧ Effects (.ffma f) 0x4B f (.dst false) (.src false) (.src false) (some (.src false)) (fun _ => True)
      (Computes fun c => [⟨f.d, false, fun l =>
        dotRound [(dec .f32 (c.patA f l), dec .f32 (c.patB f l))] (dec .f32 (c.patC f l)) m⟩])
  ∧ Effects (.fsetp f) 0x4E f .pred (.src false) (.src false) (thirdNone f) (fun _ => True)
      (Computes fun c => [⟨f.d, false, fun l => bitNat
        (cond (dec .f32 (c.patA f l)) (dec .f32 (c.patB f l)) && (!f.var.getLsbD 3 || c.predD f l))⟩])
  ∧ ((∀ n, f.d ≠ .p n) → Effects (.fclass f) 0x4F f (.dst false) (.src false) .unused none (fun _ => True)
      (Computes fun c => [⟨f.d, false, fun l => 2 ^ classOf (c.patA f l)⟩]))
  ∧ (∀ n, f.d = .p n → Effects (.fclass f) 0x4F f .pred (.src false) (.src false) none (fun _ => True)
      (Computes fun c => [⟨f.d, false, fun l => bitNat ((c.read 2 .b32 f.b l).testBit (classOf (c.patA f l)))⟩]))

/-- R128 to R131: the F32 functions complete for every input, with the value of the rounding procedure for theirs. -/
def Obligations.FloatFunctions : Prop := ∀ f : Form, f.ty = .f32 →
  let m := modeOf f.var
  let one := fun (i : Instr) (op : Nat) (val : Nat → Nat) =>
    Effects i op f (.dst false) (.src false) .unused none (fun _ => True) (Computes fun c => [⟨f.d, false, fun l => val (c.patA f l)⟩])
  one (.frcp f) 0x50 (fun x => fdivPat .one (dec .f32 x) m)
  ∧ one (.frsq f) 0x51 (fun x => frsqPat x m)
  ∧ one (.fsqrt f) 0x52 (fun x => fsqrtPat x m)
  ∧ Effects (.fdiv f) 0x53 f (.dst false) (.src false) (.src false) none (fun _ => True)
      (Computes fun c => [⟨f.d, false, fun l => fdivPat (dec .f32 (c.patA f l)) (dec .f32 (c.patB f l)) m⟩])
  ∧ one (.fexp2 f) 0x54 fexp2Pat ∧ one (.flog2 f) 0x55 flog2Pat ∧ one (.fsin f) 0x56 fsinPat ∧ one (.fcos f) 0x57 fcosPat
  ∧ one (.ftanh f) 0x58 ftanhPat
  ∧ one (.frnd f) 0x59 (fun x => frndPat x m)
  ∧ Effects (.fscale f) 0x5A f (.dst false) (.src false) (.src false) none (fun _ => True)
      (Computes fun c => [⟨f.d, false, fun l => fscalePat (c.patA f l) (c.readInt 2 .s32 f.b l) m⟩])

/-- The special inputs of R128, R129 and R131, for every pattern of the class that each names, and of the roundings to a whole number of
R130, which keep an infinity and turn a NaN into the canonical one. FEXP2 of an integer that has a power of two in the format is that
power. -/
def Obligations.SpecialInputs : Prop := ∀ (x y : Nat) (m : Rnd), x < 2 ^ 32 → y < 2 ^ 32 →
  let nan := 0x7FC00000
  let inf := fun (neg : Bool) => if neg then 0xFF800000 else 0x7F800000
  let zero := fun (neg : Bool) => if neg then 0x80000000 else 0
  let neg := fun (a : Nat) => decide (2 ^ 31 ≤ a)
  let isZero := fun (a : Nat) => decide (a % 2 ^ 31 = 0)
  let isInf := fun (a : Nat) => decide (a % 2 ^ 31 = 0x7F800000)
  let div := fun (a b : Nat) => fdivPat (dec .f32 a) (dec .f32 b) m
  let sign := neg x != neg y
  let rcp := fdivPat .one (dec .f32 x) m
  (nanPattern x → rcp = nan ∧ div x y = nan ∧ div y x = nan ∧ frsqPat x m = nan ∧ fsqrtPat x m = nan ∧ fexp2Pat x = nan
    ∧ flog2Pat x = nan ∧ fsinPat x = nan ∧ fcosPat x = nan ∧ ftanhPat x = nan ∧ frndPat x m = nan ∧ ∀ n, fscalePat x n m = nan)
  ∧ (isZero x → rcp = inf (neg x) ∧ frsqPat x m = inf (neg x) ∧ fsqrtPat x m = x ∧ fexp2Pat x = 0x3F800000 ∧ flog2Pat x = inf true
    ∧ fsinPat x = x ∧ fcosPat x = 0x3F800000 ∧ ftanhPat x = x ∧ ∀ n, fscalePat x n m = x)
  ∧ (isInf x → rcp = zero (neg x) ∧ fsinPat x = nan ∧ fcosPat x = nan ∧ frndPat x m = x ∧ ∀ n, fscalePat x n m = x)
  ∧ (x = inf false → frsqPat x m = 0 ∧ fsqrtPat x m = x ∧ fexp2Pat x = x ∧ flog2Pat x = x ∧ ftanhPat x = 0x3F800000)
  ∧ (x = inf true → fexp2Pat x = 0 ∧ ftanhPat x = 0xBF800000)
  ∧ (neg x && !isZero x && !nanPattern x → frsqPat x m = nan ∧ fsqrtPat x m = nan ∧ flog2Pat x = nan)
  ∧ flog2Pat 0x3F800000 = 0
  ∧ (∀ n : Int, -149 ≤ n → n ≤ 127 → fexp2Pat (roundF (.ofInt n) .f32 .rn false) = roundF (.fin false 1 n) .f32 .rn false)
  ∧ ((isZero x && isZero y) || (isInf x && isInf y) → div x y = nan)
  ∧ (!nanPattern x && !isZero x && !isInf x && isZero y → div x y = inf sign)
  ∧ (isInf x && !isInf y && !nanPattern y → div x y = inf sign)
  ∧ (isZero x && !isZero y && !nanPattern y → div x y = zero sign)
  ∧ (!isInf x && !nanPattern x && isInf y → div x y = zero sign)

/-- The value of a magnitude pattern of a format, in units of its smallest subnormal; the pattern of infinity counts as the power of two
that follows the largest finite value. -/
def magnitude (f : Fmt) (p : Nat) : Nat :=
  if p / 2 ^ f.fbits = 0 then p % 2 ^ f.fbits else (2 ^ f.fbits + p % 2 ^ f.fbits) * 2 ^ (p / 2 ^ f.fbits - 1)

/-- A magnitude pattern of a format with infinities is that of an exact value v, rounded once in a mode (R82): `atLeast c` says that 2 v is
at least c units, and `atMost c` that it is at most that. -/
def RoundedOnce (f : Fmt) (mode : Rnd) (neg : Bool) (p : Nat) (atLeast atMost : Nat → Prop) : Prop :=
  let mag := magnitude f
  if mode = .rn then
    p ≤ f.max + 1 ∧ (1 ≤ p → atLeast (mag (p - 1) + mag p) ∧ (atMost (mag (p - 1) + mag p) → p % 2 = 0))
      ∧ (p ≤ f.max → atMost (mag p + mag (p + 1)) ∧ (atLeast (mag p + mag (p + 1)) → p % 2 = 0))
  else if mode = (if neg then .rd else .ru) then
    p ≤ f.max + 1 ∧ (p ≤ f.max → atMost (2 * mag p)) ∧ (1 ≤ p → ¬atMost (2 * mag (p - 1)))
  else p ≤ f.max ∧ atLeast (2 * mag p) ∧ (p < f.max → ¬atLeast (2 * mag (p + 1)))

/-- R80, R82, R128: a pattern that is no NaN, decoded and rounded to its own format in any mode, is itself; an exact value that is rounded
once gives the pattern next to it that the mode says; and FRCP, FRSQ, FSQRT and FDIV do so with the exact result of finite nonzero operands,
positive ones for FRSQ and FSQRT. -/
def Obligations.RoundingKeepsPatterns : Prop :=
  (∀ (f : Fmt) (x : Nat) (m : Rnd),
    f ∈ [Fmt.f32, Fmt.f16, Fmt.bf16, Fmt.f8e5, Fmt.f8e4, Fmt.e2m1] → x < 2 ^ f.width → dec f x ≠ .nan → roundF (dec f x) f m false = x)
  ∧ (∀ (f : Fmt) (neg : Bool) (m : Nat) (e : Int) (mode : Rnd), f ∈ [Fmt.f32, Fmt.f16, Fmt.bf16, Fmt.f8e5] → m ≠ 0 →
    let unit := f.emin - f.fbits
    ∃ p, roundF (.fin neg m e) f mode false = withSign f neg p ∧ RoundedOnce f mode neg p
      (fun c => c * 2 ^ (unit - e).toNat ≤ 2 * m * 2 ^ (e - unit).toNat) (fun c => 2 * m * 2 ^ (e - unit).toNat ≤ c * 2 ^ (unit - e).toNat))
  ∧ (∀ (x y : Nat) (a b : Bool) (mode : Rnd), 1 ≤ x → x ≤ Fmt.f32.max → 1 ≤ y → y ≤ Fmt.f32.max →
    let (v, w) := (magnitude .f32 x, magnitude .f32 y)
    let val := fun (neg : Bool) (z : Nat) => dec .f32 (withSign .f32 neg z)
    (∃ p, fdivPat (val a x) (val b y) mode = withSign .f32 (a != b) p ∧ RoundedOnce .f32 mode (a != b) p
      (fun c => c * w ≤ 2 * v * 2 ^ 149) (fun c => 2 * v * 2 ^ 149 ≤ c * w))
    ∧ (∃ p, fdivPat .one (val a x) mode = withSign .f32 a p ∧ RoundedOnce .f32 mode a p
      (fun c => c * v ≤ 2 * 2 ^ 298) (fun c => 2 * 2 ^ 298 ≤ c * v))
    ∧ RoundedOnce .f32 mode false (fsqrtPat x mode) (fun c => c ^ 2 ≤ 4 * v * 2 ^ 149) (fun c => 4 * v * 2 ^ 149 ≤ c ^ 2)
    ∧ RoundedOnce .f32 mode false (frsqPat x mode) (fun c => c ^ 2 * v ≤ 4 * 2 ^ 447) (fun c => 4 * 2 ^ 447 ≤ c ^ 2 * v))

/-- R94, R96: the order in which products are combined, or in which values are added to an exact-sum cell, does not change the
result. -/
def Obligations.SumsHaveNoOrder : Prop :=
  (∀ (ps qs : List (FVal × FVal)) (z : FVal) (m : Rnd), ps.Perm qs → dotRound ps z m = dotRound qs z m)
  ∧ (∀ (cell : Nat) (x y : FVal), cellAdd (cellAdd cell x) y = cellAdd (cellAdd cell y) x)

/-- R132, R133: packed pairs, whose two elements never affect each other, and dot products into an F32 accumulator. -/
def Obligations.PackedAndDot : Prop := ∀ f : Form,
  let m := modeOf f.var
  let t := fmtOf f.ty
  let elem := fun (k x i : Nat) => dec t (x / 2 ^ (k * i) % 2 ^ k)
  let a := fun (c : Ctx) (l : Nat) => c.read 1 .b32 f.a l
  let b := fun (c : Ctx) (l : Nat) => c.read 2 .b32 f.b l
  let z := fun (c : Ctx) (l : Nat) => c.read 3 .b32 f.c l
  Effects (.hfma2 f) 0x5B f (.dst false) (.src false) (.src false) (some (.src false)) (fun _ => True)
    (Computes fun c => [⟨f.d, false, fun l =>
      dotRoundTo t [(elem 16 (a c l) 0, elem 16 (b c l) 0)] (elem 16 (z c l) 0) m
        + 2 ^ 16 * dotRoundTo t [(elem 16 (a c l) 1, elem 16 (b c l) 1)] (elem 16 (z c l) 1) m⟩])
  ∧ Effects (.hadd2 f) 0x5C f (.dst false) (.src false) (.src false) none (fun _ => True)
    (Computes fun c => [⟨f.d, false, fun l =>
      dotRoundTo t [(elem 16 (a c l) 0, .one)] (elem 16 (b c l) 0) m
        + 2 ^ 16 * dotRoundTo t [(elem 16 (a c l) 1, .one)] (elem 16 (b c l) 1) m⟩])
  ∧ Effects (.hmul2 f) 0x5D f (.dst false) (.src false) (.src false) none (fun _ => True)
    (Computes fun c => [⟨f.d, false, fun l =>
      mulTo t (elem 16 (a c l) 0) (elem 16 (b c l) 0) m + 2 ^ 16 * mulTo t (elem 16 (a c l) 1) (elem 16 (b c l) 1) m⟩])
  ∧ Effects (.fdot2 f) 0x5E f (.dst false) (.src false) (.src false) (some (.src false)) (fun _ => True)
    (Computes fun c => [⟨f.d, false, fun l =>
      dotRound ([0, 1].map (fun i => (elem 16 (a c l) i, elem 16 (b c l) i))) (dec .f32 (c.read 3 .f32 f.c l)) m⟩])
  ∧ Effects (.fdot4 f) 0x5F f (.dst false) (.src false) (.src false) (some (.src false))
    (fun c => f.ty = .slot → 4 ≤ slotElem c.slot ∧ slotElem c.slot ≤ 5)
    (Computes fun c => [⟨f.d, false, fun l =>
      let byte := fun (x i : Nat) => dec (fmtOf c.elemTy) (x / 2 ^ (8 * i) % 2 ^ 8)
      dotRound ([0, 1, 2, 3].map (fun i => (byte (a c l) i, byte (b c l) i))) (dec .f32 (c.read 3 .f32 f.c l)) c.mode⟩])

/-- R135 to R137: conversions, with the type, rounding and saturation of the format slot in slot mode (R59, R134). -/
def Obligations.Conversions : Prop := ∀ f : Form,
  let src := srcTy f
  let n := tyWidth f.ty
  let slotted := fun (lo hi : Nat) (c : Ctx) => f.ty = .slot → lo ≤ slotElem c.slot ∧ slotElem c.slot ≤ hi
  let wide := fun (c : Ctx) => tyWidth c.elemTy = 16
  Effects (.cvt f) 0x60 f (.dst false) (.src (wideTy src)) .unused none (slotted 1 5)
    (Computes fun c => [⟨f.d, false, fun l =>
      roundF (if src.isFloat then dec (fmtOf src) (c.read 1 src f.a l) else .ofInt (c.readInt 1 src f.a l)) (fmtOf c.elemTy) c.mode c.sat⟩])
  ∧ Effects (.cvti f) 0x61 f (.dst (wideTy f.ty)) (.src (wideTy src)) .unused none (fun _ => True)
    (Computes fun c => [⟨f.d, wideTy f.ty, fun l =>
      let x : Int := if src.isFloat then toInt (dec (fmtOf src) (c.read 1 src f.a l)) f.ty (modeOf f.var)
        else if 4 ≤ f.var.toNat then satInt (c.readInt 1 src f.a l) f.ty else c.readInt 1 src f.a l
      extend f.ty (wrapInt x n)⟩])
  ∧ Effects (.pack f) 0x62 f (.dst false) (.src false) (.src false) none
    (fun c => slotted 2 5 c ∧ (f.ty = .slot → wide c → f.imm = 0#32) ∧ (wide c ∨ f.d ≠ .none))
    (Computes fun c => [⟨f.d, false, fun l =>
      let x := roundF (dec .f32 (c.read 1 .f32 f.a l)) (fmtOf c.elemTy) c.mode c.sat
      let y := roundF (dec .f32 (c.read 2 .f32 f.b l)) (fmtOf c.elemTy) c.mode c.sat
      let old := c.read 3 .b32 f.d l
      if wide c then x + 2 ^ 16 * y
      else if f.imm = 0#32 then x + 2 ^ 8 * y + old / 2 ^ 16 * 2 ^ 16
      else old % 2 ^ 16 + 2 ^ 16 * x + 2 ^ 24 * y⟩])
  ∧ Effects (.unpk f) 0x63 f (.dst false) (.src false) .unused none
    (fun c => slotted 2 5 c ∧ (f.ty = .slot → wide c → f.imm.toNat ≤ 1))
    (Computes fun c => [⟨f.d, false, fun l =>
      let k := tyWidth c.elemTy
      roundF (dec (fmtOf c.elemTy) (c.read 1 .b32 f.a l / 2 ^ (k * f.imm.toNat) % 2 ^ k)) .f32 .rn false⟩])

/-- R86 to R89, R138: QBLK leaves the 18 bytes of a block in five registers, and DQBLK reads 32 elements back from them. -/
def Obligations.BlockConversions : Prop := ∀ f : Form, f.ty = .slot →
  let a := vIndex f.a
  let d := vIndex f.d
  let ok := fun (c : Ctx) => slotElem c.slot = 6
  let block := fun (c : Ctx) (l : Nat) =>
    qblk ((List.range 32).map (fun i => dec .f32 (c.lane (1 + i) false (a + i) l))) (slotExtra c.slot)
  let byte := fun (c : Ctx) (l j : Nat) => c.lane (1 + j / 4) false (a + j / 4) l / 2 ^ (8 * (j % 4)) % 256
  Effects (.qblk f) 0x64 f (.vblock 5 false) (.vblock 32 false) .unused none ok
    (Computes fun c => (List.range 5).map (fun j => ⟨.v (d + j), false, fun l =>
      ((List.range 4).map (fun i => (block c l).getD (4 * j + i) 0 * 2 ^ (8 * i))).sum⟩))
  ∧ Effects (.dqblk f) 0x65 f (.vblock 32 false) (.vblock 5 false) .unused none ok
    (Computes fun c => (List.range 32).map (fun i => ⟨.v (d + i), false, fun l =>
      roundF (f4xDecode ((List.range 18).map (byte c l)) i (slotExtra c.slot)) .f32 .rn false⟩))

/-! ### Control -/

/-- R311: VOTE combines a predicate, complemented under .NOT, over the active lanes. -/
def Obligations.Votes : Prop := ∀ f : Form,
  let x := fun (c : Ctx) (l : Nat) => c.predA f l != f.var.getLsbD 3
  let mode := f.var.toNat % 4
  let one := fun (r : Ctx → Bool) =>
    Effects (.vote f) 0x08 f .pred .pred .unused none (fun _ => True) (Computes fun c => [⟨f.d, false, fun _ => bitNat (r c)⟩])
  (mode = 0 → one (fun c => (lanesOf c.act).all (x c)))
  ∧ (mode = 1 → one (fun c => (lanesOf c.act).any (x c)))
  ∧ (mode = 2 → one (fun c => (lanesOf c.act).all (x c) || (lanesOf c.act).all (fun l => !x c l)))
  ∧ (mode = 3 → Effects (.vote f) 0x08 f (.reg true) .pred .unused none (fun _ => True)
      (Computes fun c => [⟨f.d, true, fun _ => (((lanesOf c.act).filter (x c)).map (fun l => 2 ^ l)).sum⟩]))

/-- The target of BRA, CALL and SLOOP (R63, R301, R308): PC + 12 + 12 x the signed IMM[19:0], modulo 2^56. -/
def nearTarget (pc : DWord) (imm : BitVec 32) : DWord :=
  BitVec.ofNat 64 (((pc.toNat : Int) + 12 + 12 * (imm.extractLsb' 0 20).toInt) % 2 ^ 56).toNat

/-- R299 to R308: NOP, the branches, SLOOP and PRIO complete: wherever such an instruction issues with legal operands, an active lane and
legal targets, there is a next state. In it the active lanes of a branch stand at their targets with its priority, and the other lanes
of the path at the next word; CALL and CALLX have left the link, and SLOOP has counted down. A target that is no instruction address in
one active lane is the illegal-operand fault, and no lane moves. -/
def Obligations.BranchTargets : Prop :=
  (∀ f : Form,
    let prio := f.imm.extractLsb' 20 12
    let near := fun (c : Ctx) (_ : Nat) => (nearTarget c.path.pc f.imm, prio)
    let far := fun (c : Ctx) (l : Nat) => (BitVec.ofNat 64 (c.read 1 .n64 f.a l), prio)
    let back := fun (c : Ctx) (l : Nat) => (BitVec.ofNat 64 (c.read 1 .n64 f.a l), BitVec.ofNat 12 (c.lane 1 false (vIndex f.a + 2) l))
    let good := fun (c : Ctx) => ∀ l, c.act.getLsbD l = true → c.read 1 .n64 f.a l < 2 ^ 56 ∧ c.read 1 .n64 f.a l % 4 = 0
    let small := fun (c : Ctx) => ∀ l, c.act.getLsbD l = true → c.lane 1 false (vIndex f.a + 2) l < 4096
    let target : Allow := { v := true, s := true, g := true, wide := true }
    let link := fun (c : Ctx) => [⟨.v (vIndex f.d), false, fun _ => (c.path.pc.toNat + 12) % 2 ^ 56 % 2 ^ 32⟩,
      ⟨.v (vIndex f.d + 1), false, fun _ => (c.path.pc.toNat + 12) % 2 ^ 56 / 2 ^ 32⟩, ⟨.v (vIndex f.d + 2), false, fun _ => c.path.prio.toNat⟩]
    let count := fun (c : Ctx) => (c.read 1 .n32 f.d 0 + 2 ^ 32 - 1) % 2 ^ 32
    (∀ s c, s.issued 0x00 f .unused .unused .unused = some c → ∃ t, exec (.nop f) s = .next t ∧ Computes (fun _ => []) s c t)
    ∧ (∀ s c, s.issued 0x01 f .unused .unused .unused = some c → ∃ t, exec (.bra f) s = .next t ∧ Branches (fun _ => []) near s c t)
    ∧ (∀ s c, s.issued 0x02 f .unused target .unused = some c → good c →
        ∃ t, exec (.brx f) s = .next t ∧ Branches (fun _ => []) far s c t)
    ∧ (∀ s c, s.issued 0x03 f (.vblock 3 true) .unused .unused = some c → ∃ t, exec (.call f) s = .next t ∧ Branches link near s c t)
    ∧ (∀ s c, s.issued 0x04 f (.vblock 3 true) target .unused = some c → good c →
        ∃ t, exec (.callx f) s = .next t ∧ Branches link far s c t)
    ∧ (∀ s c, s.issued 0x05 f .unused (.vblock 3 true) .unused = some c → good c → small c →
        ∃ t, exec (.ret f) s = .next t ∧ Branches (fun _ => []) back s c t)
    ∧ (∀ s c, s.issued 0x07 f .unused .unused .unused = some c → ∃ t, exec (.prio f) s = .next t ∧ Computes (fun _ => []) s c t
        ∧ ∃ g w, c.Left s t g w ∧ ∀ l, c.path.mask.getLsbD l = true → ∃ p ∈ w.paths, p.fr = c.path.fr ∧ p.pc = c.path.pc + 12
            ∧ p.mask.getLsbD l = true ∧ (p.prio = prio ∨ (prio.toNat < p.prio.toNat
              ∧ ∃ q ∈ c.wave.paths, q.id ≠ c.path.id ∧ q.fr = c.path.fr ∧ q.pc = c.path.pc + 12 ∧ q.prio = p.prio)))
    ∧ (∀ s c, s.issued 0x09 f { s := true } .unused .unused = some c →
        (count c ≠ 0 → ∃ t, exec (.sloop f) s = .next t ∧ Branches (fun c => [⟨f.d, false, fun _ => count c⟩]) near s c t)
        ∧ (count c = 0 → ∃ t, exec (.sloop f) s = .next t ∧ Computes (fun c => [⟨f.d, false, fun _ => count c⟩]) s c t)))
  ∧ (∀ f : Form,
    let bad := fun (c : Ctx) => ∃ l, c.act.getLsbD l = true ∧ (2 ^ 56 ≤ c.read 1 .n64 f.a l ∨ c.read 1 .n64 f.a l % 4 ≠ 0)
    let far : Allow := { v := true, s := true, g := true, wide := true }
    Effects (.brx f) 0x02 f .unused far .unused none bad (Faults codeOperand)
    ∧ Effects (.callx f) 0x04 f (.vblock 3 true) far .unused none bad (Faults codeOperand)
    ∧ Effects (.ret f) 0x05 f .unused (.vblock 3 true) .unused none
      (fun c => bad c ∨ ∃ l, c.act.getLsbD l = true ∧ 4096 ≤ c.lane 1 false (vIndex f.a + 2) l) (Faults codeOperand))


/-- R309, R312, R313: at a CONV or a BAR the path waits, and then whatever the group's waves can complete among themselves is
completed. A count that is not one of the group's waves is the illegal-operand fault. A wave whose lanes all stand at one barrier arrives
there once its fence is passed, and an arrival of another form or count than the phase, or of lanes that differ, is the barrier fault. -/
def Obligations.PathsWaitForLanes : Prop := ∀ f : Form,
  let a : Allow := { s := true, g := true, imm := true, none := true }
  (∀ s c, s.issued 0x06 f .unused { s := true, g := true, none := true, wide := true } .unused = some c →
    ∃ t, exec (.conv f) s = .next (t.settle c.grp.id)
      ∧ Stands (.conv (if f.a = .none then none else some (BitVec.ofNat 64 (c.read 1 .n64 f.a 0)))) s c t)
  ∧ (∀ s c, s.issued 0x0A f .unused a .unused = some c →
    let n := c.read 1 .n32 f.a 0
    let count := if f.a = .none then none else some n
    (f.a = .none ∨ (1 ≤ n ∧ n ≤ c.grp.waves.length) →
      ∃ t, exec (.bar f) s = .next (t.settle c.grp.id)
        ∧ Stands (.bar (f.imm.toNat % 16) (f.imm.toNat / 16 % 64) count) s c t)
    ∧ (f.a ≠ .none ∧ (n = 0 ∨ c.grp.waves.length < n) →
      ∃ t, exec (.bar f) s = .next (t.settle c.grp.id) ∧ Faults codeOperand s c t))
  ∧ (∀ (s : State) gid wid g w n kinds (count : Option Nat) counts, s.group? gid = some g → g.wave? wid = some w → w.dead = false →
    w.standsAt = some (n, kinds, count :: counts) → w.fenced kinds = true → wid ∉ (look ⟨[], none⟩ g.bars n).arrived →
    let b := look ⟨[], none⟩ g.bars n
    let same := (∀ x ∈ counts, x = count) ∧ (b.arrived = [] ∨ b.count = count)
    let t := s.arrive gid wid
    (same → t = s.updGroup gid (fun g => { g with bars := put ⟨[], none⟩ g.bars n ⟨b.arrived ++ [wid], count⟩ }))
    ∧ (¬same → ∀ l, g.launch = some l → s.ending g = false → ∃ x y pc, t.group? gid = some x ∧ x.wave? wid = some y ∧ y.dead = true
      ∧ x.bars = g.bars ∧ t.faults = s.faults ++ [⟨l, codeBar, pc, g.ctx, s.edges, g.facet, w.core, w.slot⟩]))

/-- R309, R313: a round of settling lets every CONV whose lanes are all there go on, and a phase of a barrier that has its arrivals
releases the first of them and keeps the others for the next phase. -/
def Obligations.WaitingPathsGoOn : Prop :=
  (∀ (s : State) (gid wid : Nat) (g : Group) (w : Wave), s.group? gid = some g → g.wave? wid = some w → w.dead = false →
    (∀ f ∈ w.frames, w.frameReturns f = false) → (∃ p ∈ w.paths, w.convMet p = true) →
    ∃ t w', s.settleOnce gid wid = some t ∧ ((t.group? gid).bind (fun g => g.wave? wid)) = some w' ∧ w'.sameBut w
      ∧ t = { s with groups := t.groups } ∧ (w'.v, w'.s, w'.p) = (w.v, w.s, w.p)
      ∧ ∀ p ∈ w.paths, w'.stands p.fr p.mask (if w.convMet p then p.pc + 12 else p.pc))
  ∧ (∀ (g : Group) (n : Nat),
    let b := look ⟨[], none⟩ g.bars n
    let expected := b.count.getD (g.waves.filter Wave.alive).length
    let b' := look ⟨[], none⟩ (g.releasePhase n).bars n
    (b.arrived.length < expected → g.releasePhase n = g)
    ∧ (b.arrived ≠ [] → expected ≤ b.arrived.length →
        b'.arrived = b.arrived.drop expected
        ∧ (g.releasePhase n).waves.length = g.waves.length
        ∧ ∀ (i : Nat) (w : Wave), g.waves[i]? = some w → ∃ w' : Wave, (g.releasePhase n).waves[i]? = some w'
            ∧ (w.id ∉ b.arrived.take expected → w' = w)
            ∧ (w.id ∈ b.arrived.take expected → w'.sameBut w ∧ ∀ p ∈ w.paths, ∀ k c,
                p.wait = .bar n k c → w'.stands p.fr p.mask (p.pc + 12))))

/-- R315, R316: EXIT folds the statuses of its lanes into their group, and the lanes leave their path, their frames and their
reservations; the rest of the path goes on. -/
def Obligations.LanesExit : Prop := ∀ f : Form, ∀ s c,
  s.issued 0x0B f .unused { v := true, s := true, g := true, imm := true, long := true } .unused = some c →
  c.wave.unreported = none → (c.grp.free = none ∨ c.wave.live &&& ~~~c.act ≠ 0) →
  let status := fun (l : Nat) => c.read 1 .b32 f.a l % 256
  ∃ t g w, exec (.exit f) s = .next (t.settle c.grp.id) ∧ c.Left s t g w
    ∧ t = { s with groups := t.groups, facets := t.facets } ∧ s.sameFacets t
    ∧ g = { c.grp with waves := g.waves, exitMax := g.exitMax, exitOr := g.exitOr }
    ∧ g.exitMax = ((lanesOf c.act).map status).foldl max c.grp.exitMax
    ∧ g.exitOr.toNat = ((lanesOf c.act).map status).foldl (fun x y => x ||| y) c.grp.exitOr.toNat
    ∧ w.exited = c.wave.exited ||| c.act
    ∧ (∀ p ∈ w.paths, p.mask &&& c.act = 0)
    ∧ w.stands c.path.fr (c.path.mask &&& ~~~c.act) (c.path.pc + 12)
    ∧ (∀ x ∈ w.frames, x ∈ c.wave.frames ∧ x.mask &&& ~~~w.exited ≠ 0)
    ∧ (∀ sp l, w.resv sp l = if c.act.getLsbD l then 0 else c.wave.resv sp l)
    ∧ c.Regs [] g w ∧ w.cmds = c.wave.cmds ∧ w.h = c.wave.h

/-! ### Allotments, tasks and regions -/

/-- R317 to R321: YIELD stops the wave where a request of its group is pending whose deadline has not passed, and SLEEP parks it until n
reference cycles of its facet have passed; without either, both only go on. ACQ raises the named components to the full allotment where
the request fits, and what is gained reads as zero (R31); REL lowers them to the prologue allotment once every wave has given them up and
nothing holds them back, and what is given up reads as zero afterwards. Naming only components that are there already has no effect. An
ACQ that would take the room of a launch with the promise of R274 waits (assumption 78). -/
def Obligations.YieldSleepAndAllotments : Prop := ∀ f : Form,
  let pending := fun (c : Ctx) => ∃ p, c.grp.preempt = some p ∧ p.forced = false ∧ (c.st.facet c.grp.facet).ref.toNat ≤ p.deadline.toNat
  let n := fun (c : Ctx) => c.read 1 .n32 f.a 0
  let named := if f.var = 0#4 then 15#4 else f.var
  let up := fun (c : Ctx) => named &&& c.grp.cur.differs c.grp.full
  let down := fun (c : Ctx) => if c.wave.rel = 0#4 then named &&& c.grp.cur.differs c.grp.pro else c.wave.rel
  let asked := fun (c : Ctx) =>
    { c.grp with waves := c.grp.waves.map (fun (w : Wave) => if w.id = c.wave.id then { w with rel := w.rel ||| down c } else w) }
  let gained := fun (c : Ctx) (x y : Wave) =>
    (∀ r l, l < 64 → y.v? r l = if (up c).getLsbD 0 && decide (c.grp.cur.v ≤ r) then 0 else x.v? r l)
    ∧ ∀ r, y.s? r = if (up c).getLsbD 1 && decide (c.grp.cur.s ≤ r) then 0 else x.s? r
  Effects (.yield f) 0x0C f .unused .unused .unused none pending (Adjusts fun c => { c.wave with park := .stopped })
  ∧ Effects (.yield f) 0x0C f .unused .unused .unused none (fun c => ¬pending c) (Computes fun _ => [])
  ∧ Effects (.sleep f) 0x0D f .unused (.uni false) .unused none (fun c => n c ≠ 0)
    (Adjusts fun c => { c.wave with park := .sleep ((c.st.facet c.grp.facet).ref + BitVec.ofNat 64 (n c)) })
  ∧ Effects (.sleep f) 0x0D f .unused (.uni false) .unused none (fun c => n c = 0) (Computes fun _ => [])
  ∧ Effects (.acq f) 0x0E f .unused .unused .unused none (fun c => up c = 0#4) (Computes fun _ => [])
  ∧ Effects (.rel f) 0x0F f .unused .unused .unused none (fun c => down c = 0#4) (Computes fun _ => [])
  ∧ Effects (.acq f) 0x0E f .unused .unused .unused none
    (fun c => (∀ l ∈ c.st.launches, l.due = none) ∧ c.grp.acq = [] ∧ (up c &&& 13#4 = 0#4 ∨ c.st.acqFits c.grp c.st.nextId (up c &&& 13#4) = true))
    (fun s c t => ∃ g w, t.group? c.grp.id = some g ∧ g.wave? c.wave.id = some w
      ∧ (∀ k, k ≠ c.grp.id → t.group? k = s.group? k)
      ∧ t = { s with groups := t.groups, facets := t.facets, nextId := t.nextId } ∧ s.sameFacets t
      ∧ g = { c.grp with waves := g.waves, cur := g.cur, shared := g.shared, tiles := g.tiles }
      ∧ g.cur.v = (if (up c).getLsbD 0 then c.grp.full.v else c.grp.cur.v)
      ∧ g.cur.s = (if (up c).getLsbD 1 then c.grp.full.s else c.grp.cur.s)
      ∧ g.cur.sh = (if (up c).getLsbD 2 then c.grp.full.sh else c.grp.cur.sh)
      ∧ g.cur.t = (if (up c).getLsbD 3 then c.grp.full.t else c.grp.cur.t)
      ∧ w.sameBut { c.wave with rel := w.rel } ∧ gained c c.wave w ∧ (∀ r l, l < 64 → (w.p? r).getLsbD l = (c.wave.p? r).getLsbD l)
      ∧ (∀ k x, k ≠ c.wave.id → c.grp.wave? k = some x → ∃ y, g.wave? k = some y ∧ gained c x y
        ∧ y = { x with v := y.v, s := y.s, rel := y.rel })
      ∧ (∀ a, g.shared.read a = if (up c).getLsbD 2 && decide (c.grp.cur.sh ≤ a) then 0 else c.grp.shared.read a)
      ∧ (∀ core k i j, k < 32 → i < 64 → j < 64 →
          g.tile core k i j = if (up c).getLsbD 3 && decide (c.grp.cur.t ≤ k) then 0 else c.grp.tile core k i j)
      ∧ c.Advanced w)
  ∧ Effects (.rel f) 0x0F f .unused .unused .unused none
    (fun c => down c ≠ 0#4 ∧ down c &&& ~~~(asked c).lowerable = 0#4)
    (fun s c t => let low := (asked c).lowerable
      ∃ g w, t.group? c.grp.id = some g ∧ g.wave? c.wave.id = some w
      ∧ (∀ k, k ≠ c.grp.id → t.group? k = s.group? k)
      ∧ t = { s with groups := t.groups, facets := t.facets } ∧ s.sameFacets t
      ∧ g.cur.v = (if low.getLsbD 0 then c.grp.pro.v else c.grp.cur.v)
      ∧ g.cur.s = (if low.getLsbD 1 then c.grp.pro.s else c.grp.cur.s)
      ∧ g.cur.sh = (if low.getLsbD 2 then c.grp.pro.sh else c.grp.cur.sh)
      ∧ g.cur.t = (if low.getLsbD 3 then c.grp.pro.t else c.grp.cur.t)
      ∧ (∀ r l, l < 64 → w.v? r l = if low.getLsbD 0 && decide (c.grp.pro.v ≤ r) then 0 else c.wave.v? r l)
      ∧ (∀ r, w.s? r = if low.getLsbD 1 && decide (c.grp.pro.s ≤ r) then 0 else c.wave.s? r)
      ∧ (∀ a, g.shared.read a = if low.getLsbD 2 && decide (c.grp.pro.sh ≤ a) then 0 else c.grp.shared.read a)
      ∧ (∀ core k i j, k < 32 → i < 64 → j < 64 →
          g.tile core k i j = if low.getLsbD 3 && decide (c.grp.pro.t ≤ k) then 0 else c.grp.tile core k i j)
      ∧ (∀ r, g.g? r = c.grp.g? r) ∧ c.Advanced w)

/-- The child task that the registers of a TSPAWN name (R323). -/
def childTask (c : Ctx) (f : Form) : Task :=
  let r := fun (k : Nat) => (c.wave.readS c.st.tick 1 (sIndex f.a + k)).toNat
  { ox := r 0, oy := r 1, oz := r 2, ex := r 3, ey := r 4, ez := r 5, arg := BitVec.ofNat 32 (c.read 2 .n32 f.b 0), order := [],
    born := none }

/-- Whether the box of a child task is legal (R323). -/
def Sys2Proof.Machine.Task.boxed (t : Task) : Prop :=
  t.ex ≠ 0 ∧ t.ey ≠ 0 ∧ t.ez ≠ 0 ∧ t.ox + t.ex ≤ 2 ^ 32 ∧ t.oy + t.ey ≤ 2 ^ 32 ∧ t.oz + t.ez ≤ 2 ^ 32

/-- The issuing wave runs a task of a launch. -/
def inLaunch (ok : Ctx → Launch → Prop) (c : Ctx) : Prop := ∃ l, c.launch? = some l ∧ ok c l

/-- The issuing task's group is gone, and its launch is changed. -/
def Gone (change : Ctx → Launch → Launch) (s : State) (c : Ctx) (t : State) : Prop :=
  t.group? c.grp.id = none ∧ ∀ l, c.launch? = some l → t.launch? l.id = some (change c l) ∧ ∀ k, k ≠ l.id → t.launch? k = s.launch? k

/-- A task that exhausts something where `ok` holds and its box can be halved: it is aborted, SPLITS counts it, and its halves stand at the
head of the task list; under the cancel bit of its facet there are none, and ABORTED counts it too (R285 to R287, assumption 23). -/
def Halves (i : Instr) (op : Nat) (f : Form) (d a b : Allow) (x : Option Allow) (ok : Ctx → Launch → Prop) : Prop :=
  (∀ axis, Effects i op f d a b x
    (inLaunch fun c l => ok c l ∧ c.grp.task.splitAxis l.recd = some axis ∧ l.bits.getLsbD c.grp.facet = false)
    (Gone fun c l => { l with
      splits := l.splits + 1
      tasks := c.grp.task.halves axis ++ l.tasks
      headFrom := c.st.edges }))
  ∧ Effects i op f d a b x (inLaunch fun c l => ok c l ∧ c.grp.task.splitAxis l.recd ≠ none ∧ l.bits.getLsbD c.grp.facet = true)
    (Gone fun _ l => { l with
      aborted := l.aborted + 1
      splits := l.splits + 1 })

/-- The same, and the smallest-grain fault of a task whose box cannot be halved (R287). -/
def Exhausts (i : Instr) (op : Nat) (f : Form) (d a b : Allow) (x : Option Allow) (ok : Ctx → Launch → Prop) : Prop :=
  Halves i op f d a b x ok
  ∧ Effects i op f d a b x
    (inLaunch fun c l => ok c l ∧ c.grp.task.splitAxis l.recd = none ∧ l.bits.getLsbD c.grp.facet = false ∧ c.st.ending c.grp = false)
    (fun s c t => Gone (fun _ l => { l with splits := l.splits + 1 }) s c t
      ∧ ∀ l, c.launch? = some l → t.faults = s.faults ++
        [⟨l.id, codeGrain, c.path.pc, c.grp.ctx, s.edges, c.grp.facet, c.wave.core, c.wave.slot⟩])

/-- R322 to R326, R413: the task instructions in a task of a launch. TSPAWN adds its child at the tail of the task list, before those that
waves of a higher WAVE_ID have spawned in the same core clock (assumption 90), or holds it back; held-back children count towards the limit,
and split halves do not (assumption 28). TSPLIT, and a TSPAWN that has no room for its record, exhaust a divisible task: it is halved, or
under the cancel bit of its facet aborted, which counts in SPLITS too (assumption 23), or cannot be halved (R285 to R287). TCHK tests the
cancel bit of the launch on the facet of its group, and its abort counts in ABORTED only (assumption 23). In a free wave each of them is
illegal (R322). Where a fault of the launch has
arrived, a trap is discarded instead (R413). -/
def Obligations.TaskInstructions : Prop := ∀ f : Form,
  let field := fun (t : Task) => match f.var.toNat with
    | 0 => t.ox
    | 1 => t.oy
    | 2 => t.oz
    | 3 => t.ex
    | 4 => t.ey
    | 5 => t.ez
    | _ => t.arg.toNat
  let cancelled := fun (c : Ctx) (l : Launch) => l.bits.getLsbD c.grp.facet
  let spawnable := fun (c : Ctx) (l : Launch) => l.recd.pclass ≠ 0 ∧ (childTask c f).boxed ∧ l.total + c.st.heldChildren l.id + 1 < 2 ^ 32
  let child := fun (c : Ctx) => { childTask c f with born := some (c.grp.id, c.grp.clockAt, c.wave.id) }
  let later := fun (c : Ctx) (x : Task) => ∃ gid wid, x.born = some (gid, c.grp.clockAt, wid) ∧ c.wave.id < wid
  let full := fun (c : Ctx) (l : Launch) => spawnable c l ∧ c.grp.div = true ∧ c.grp.deferCap < c.grp.deferUsed + 64
  Effects (.tspawn f) 0x10 f .unused (.sblock 6 false) (.uni false) none
    (inLaunch fun c l => spawnable c l ∧ c.grp.div = false)
    (fun s c t => Computes (fun _ => []) s c { t with launches := s.launches }
      ∧ ∀ l, c.launch? = some l → (∀ k, k ≠ l.id → t.launch? k = s.launch? k) ∧ ∃ l' before after, t.launch? l.id = some l'
        ∧ l' = { l with tasks := before ++ child c :: after, total := l.total + 1, headFrom := l'.headFrom }
        ∧ l.tasks = before ++ after ∧ (∀ x ∈ before, ¬later c x) ∧ ∀ x, after.head? = some x → later c x)
  ∧ Effects (.tspawn f) 0x10 f .unused (.sblock 6 false) (.uni false) none
    (inLaunch fun c l => spawnable c l ∧ c.grp.div = true ∧ c.grp.deferUsed + 64 ≤ c.grp.deferCap)
    (fun s c t => ∃ g w, c.Left s t g w ∧ t = { s with groups := t.groups, facets := t.facets } ∧ s.sameFacets t
      ∧ g = { c.grp with
          waves := g.waves
          deferred := c.grp.deferred ++ [(c.path.pc, .spawn (childTask c f))]
          deferUsed := c.grp.deferUsed + 64 }
      ∧ w.sameBut c.wave ∧ c.Regs [] g w ∧ c.Advanced w)
  ∧ Effects (.tspawn f) 0x10 f .unused (.sblock 6 false) (.uni false) none
    (inLaunch fun c l => l.recd.pclass = 0 ∨ ((childTask c f).boxed ∧ 2 ^ 32 ≤ l.total + c.st.heldChildren l.id + 1)) (Faults codeSpawn)
  ∧ Effects (.tspawn f) 0x10 f .unused (.sblock 6 false) (.uni false) none
    (inLaunch fun c l => l.recd.pclass ≠ 0 ∧ ¬(childTask c f).boxed) (Faults codeOperand)
  ∧ Effects (.tspawn f) 0x10 f .unused (.sblock 6 false) (.uni false) none (fun c => c.grp.launch = none) (Faults codeInstr)
  ∧ Effects (.tdom f) 0x11 f (.reg false) .unused .unused none (inLaunch fun _ _ => True)
    (Computes fun c => [⟨f.d, false, fun _ => field c.grp.task⟩])
  ∧ Effects (.tsplit f) 0x12 f { p := true, none := true } .unused .unused none
    (inLaunch fun c l => c.grp.div = false ∨ c.grp.task.splitAxis l.recd = none) (Computes fun _ => [⟨f.d, false, fun _ => 0⟩])
  ∧ Halves (.tsplit f) 0x12 f { p := true, none := true } .unused .unused none (fun c _ => c.grp.div = true)
  ∧ Exhausts (.tspawn f) 0x10 f .unused (.sblock 6 false) (.uni false) none full
  ∧ Effects (.tdom f) 0x11 f (.reg false) .unused .unused none (fun c => c.grp.launch = none) (Faults codeInstr)
  ∧ Effects (.tsplit f) 0x12 f { p := true, none := true } .unused .unused none (fun c => c.grp.launch = none) (Faults codeInstr)
  ∧ Effects (.tchk f) 0x13 f .unused .unused .unused none (fun c => c.grp.launch = none) (Faults codeInstr)
  ∧ Effects (.tchkTest f) 0x13 f .pred .unused .unused none (fun c => c.grp.launch = none) (Faults codeInstr)
  ∧ Effects (.tchkTrap f) 0x13 f .unused .unused .unused none (fun c => c.grp.launch = none) (Faults codeInstr)
  ∧ Effects (.tchk f) 0x13 f .unused .unused .unused none (inLaunch fun c l => cancelled c l = false) (Computes fun _ => [])
  ∧ Effects (.tchk f) 0x13 f .unused .unused .unused none (inLaunch fun c l => cancelled c l = true)
    (Gone fun _ l => { l with aborted := l.aborted + 1 })
  ∧ Effects (.tchkTest f) 0x13 f .pred .unused .unused none (inLaunch fun _ _ => True)
    (Computes fun c => [⟨f.d, false, fun _ => bitNat (c.launch?.any (cancelled c))⟩])
  ∧ Effects (.tchkTrap f) 0x13 f .unused .unused .unused none (inLaunch fun c l => cancelled c l = false) (Computes fun _ => [])
  ∧ Effects (.tchkTrap f) 0x13 f .unused .unused .unused none
    (inLaunch fun c l => cancelled c l = true ∧ c.wave.frames.length < 4 ∧ c.wave.trapVec ≠ 0 ∧ c.st.ending c.grp = false)
    (Trapped fun c => { lanes := c.act, code := 0x0004#16, pc := c.path.pc, rpc := c.path.pc + 12, info := 0 })
  ∧ Effects (.tchkTrap f) 0x13 f .unused .unused .unused none
    (inLaunch fun c l => cancelled c l = true ∧ c.st.ending c.grp = true) (Adjusts fun c => { c.wave with dead := true })

/-- R287: the halves of a box lie side by side along the axis that is cut, the lower first and the longer by at most one, cover the
box, and keep its argument; the axis is the longest that can still be split. -/
def Obligations.HalvesOfABox : Prop := ∀ (t : Task) (r : LaunchRec) (axis : Nat), t.splitAxis r = some axis →
  ∃ a b, t.halves axis = [a, b]
    ∧ (a.ox, a.oy, a.oz) = (t.ox, t.oy, t.oz) ∧ a.arg = t.arg ∧ b.arg = t.arg
    ∧ (axis = 0 → b.ox = a.ox + a.ex ∧ a.ex + b.ex = t.ex ∧ b.ex = t.ex / 2 ∧ r.min.1 ≤ b.ex ∧ (b.oy, b.oz) = (t.oy, t.oz)
        ∧ (a.ey, a.ez, b.ey, b.ez) = (t.ey, t.ez, t.ey, t.ez))
    ∧ (axis = 1 → b.oy = a.oy + a.ey ∧ a.ey + b.ey = t.ey ∧ b.ey = t.ey / 2 ∧ r.min.2.1 ≤ b.ey ∧ (b.ox, b.oz) = (t.ox, t.oz)
        ∧ (a.ex, a.ez, b.ex, b.ez) = (t.ex, t.ez, t.ex, t.ez))
    ∧ (axis = 2 → b.oz = a.oz + a.ez ∧ a.ez + b.ez = t.ez ∧ b.ez = t.ez / 2 ∧ r.min.2.2 ≤ b.ez ∧ (b.ox, b.oy) = (t.ox, t.oy)
        ∧ (a.ex, a.ey, b.ex, b.ey) = (t.ex, t.ey, t.ex, t.ey))
    ∧ axis < 3
    ∧ (∀ k e m, (k, e, m) ∈ [(0, t.ex, r.min.1), (1, t.ey, r.min.2.1), (2, t.ez, r.min.2.2)] → m ≤ e / 2 →
        ∀ e', (axis = 0 → e' = t.ex) → (axis = 1 → e' = t.ey) → (axis = 2 → e' = t.ez) → e < e' ∨ (e = e' ∧ axis ≤ k))

/-- R327: the place of a new region is the lowest 4 KiB-aligned offset of the quarter with its bytes free. -/
def Obligations.RegionsStandLowest : Prop := ∀ (taken : List (Nat × Nat)) (limit n : Nat),
  let free := fun (b : Nat) => b % 4096 = 0 ∧ b + n ≤ limit ∧ ∀ r ∈ taken, ¬(b < r.1 + r.2 ∧ r.1 < b + n)
  (∀ b, lowestFree taken limit n = some b → free b ∧ ∀ b', free b' → b ≤ b')
  ∧ (lowestFree taken limit n = none → ∀ b, ¬free b)

/-- R327, R328: SALLOC enters a region, zeroes it and writes its address, or writes 0xFFFF_FFFF, or past the ceiling exhausts a divisible
task (R285); SFREE returns a region that nothing uses. -/
def Obligations.ScratchpadRegions : Prop := ∀ f : Form,
  let q := fun (c : Ctx) => if f.var.getLsbD 0 then c.read 2 .n32 f.b 0 else c.grp.facet % 4
  let facet := fun (c : Ctx) => c.grp.facet / 4 * 4 + q c
  let n := fun (c : Ctx) => c.read 1 .n32 f.a 0
  let second : Allow := if f.var.getLsbD 0 then .uni false else .unused
  let asks := fun (c : Ctx) => n c % 4096 = 0 ∧ n c ≠ 0 ∧ n c ≤ 25165824 ∧ q c < 4 ∧ c.st.inPartition c.grp (facet c) = true
  let allowed := fun (c : Ctx) => c.st.liveBytes c.grp.id + n c ≤ c.grp.ceil * 4096
  let place := fun (c : Ctx) => lowestFree (c.st.taken (facet c) 0) ((c.st.facet (facet c)).spadUnits * 65536) (n c)
  let old := fun (c : Ctx) => (c.st.facet (facet c)).regions
  let a := fun (c : Ctx) => c.read 1 .n32 f.a 0
  let home := fun (c : Ctx) => c.grp.facet / 4 * 4 + a c / 2 ^ 26 % 4
  (∀ base, Effects (.salloc f) 0x14 f (.reg false) (.uni false) second none
    (fun c => (∀ l ∈ c.st.launches, l.due = none) ∧ asks c ∧ allowed c ∧ (old c).length < 256 ∧ place c = some base
      ∧ facet c < c.st.facets.length)
    (fun s c t => Touches true (fun _ => [⟨f.d, false, fun _ => q c * 2 ^ 26 + base⟩])
        (fun _ b k => let key := spadKey c.grp.die (q c * 2 ^ 26 + base)
          if key ≤ k && k < key + n c then 0 else b) s c { t with facets := s.facets }
      ∧ (t.facet (facet c)).regions = old c ++ [⟨base, n c, c.grp.ctx, c.grp.id, c.grp.free.isNone, c.grp.div⟩]
      ∧ ∀ k, k ≠ facet c → (t.facet k).regions = (s.facet k).regions))
  ∧ Effects (.salloc f) 0x14 f (.reg false) (.uni false) second none
    (fun c => asks c ∧ ((c.grp.div = false ∧ ¬allowed c) ∨ (allowed c ∧ (256 ≤ (old c).length ∨ place c = none))))
    (Computes fun _ => [⟨f.d, false, fun _ => 0xFFFFFFFF⟩])
  ∧ Exhausts (.salloc f) 0x14 f (.reg false) (.uni false) second none (fun c _ => asks c ∧ c.grp.div = true ∧ ¬allowed c)
  ∧ Effects (.salloc f) 0x14 f (.reg false) (.uni false) second none
    (fun c => n c % 4096 ≠ 0 ∨ n c = 0 ∨ 25165824 < n c ∨ 4 ≤ q c) (Faults codeOperand)
  ∧ Effects (.salloc f) 0x14 f (.reg false) (.uni false) second none
    (fun c => n c % 4096 = 0 ∧ n c ≠ 0 ∧ n c ≤ 25165824 ∧ q c < 4 ∧ c.st.inPartition c.grp (facet c) = false) (Faults codeSpad)
  ∧ (∀ r, Effects (.sfree f) 0x15 f .unused (.uni false) .unused none
    (fun c => ((c.st.facet (home c)).regions.find? (fun r => r.base = a c % 2 ^ 26 && a c < 2 ^ 28 && r.ctx = c.grp.ctx) = some r)
      ∧ (c.grp.div = false ∨ (r.owned = true ∧ r.issuer = c.grp.id)) ∧ home c < c.st.facets.length
      ∧ (∀ y ∈ c.st.routers, ∀ e ∈ y.entries, ∀ x ∈ e.recs, c.st.deliversInto c.grp.ctx (spadKey c.grp.die (a c)) r.size e.key.len x = false)
      ∧ c.st.queuedInto c.grp.ctx (spadKey c.grp.die (a c)) r.size = []
      ∧ (∀ g ∈ c.st.groups, g.ctx = c.grp.ctx → ∀ w ∈ g.waves, ∀ k ∈ w.cmds, k.stage ≠ .signalled → k.die = c.grp.die →
          ∀ x ∈ k.effect.spadRanges, meets x.1 x.2 (a c) r.size = false))
    (fun s c t => Computes (fun _ => []) s c { t with facets := s.facets, routers := s.routers }
      ∧ (t.facet (home c)).regions = (c.st.facet (home c)).regions.filter (fun y => y.base ≠ r.base)
      ∧ ∀ k, k ≠ home c → (t.facet k).regions = (s.facet k).regions))
  ∧ Effects (.sfree f) 0x15 f .unused (.uni false) .unused none
    (fun c => ∀ r ∈ (c.st.facet (home c)).regions, r.base = a c % 2 ^ 26 → a c < 2 ^ 28 → r.ctx ≠ c.grp.ctx) (Faults codeSpad)

/-! ### Shared memory and scratchpad -/

/-- R214 to R216: loads extend each element to a register, and stores leave each lane's element in ascending order. The checks of a local
access: an unaligned address in any active lane is the misalignment fault; else a byte past the group's shared memory is the
illegal-operand fault, and a scratchpad byte outside the partition, the quarter or the regions that the wave may use the scratchpad-range
fault; else a store of a divisible task outside its own regions is the divisible-violation fault (R173, R215). That each check looks at
every active lane before the next check is the model's choice: R215 can also be read lane by lane (assumption 67). So is the wait of an
access behind a command release that an earlier access still holds up (R245, R249, assumption 86). -/
def Obligations.LocalLoadsStores : Prop :=
  (∀ f : Form,
    let w := wideTy f.ty
    let n := tySize f.ty
    let off := wordOff f.imm
    let load := fun (i : Instr) (op : Nat) (sp : Bool) =>
      Effects i op f { v := true, s := true, wide := w } .addr .unused none (fun c => c.Reaches sp true false off false)
        (fun s c t => Computes (fun c => [⟨f.d, w, fun l => extend f.ty (c.element sp off n (localByte c.grp s sp) l)⟩]) s c t)
    let store := fun (i : Instr) (op : Nat) (sp : Bool) =>
      Effects i op f .unused .addr (.value w) none (fun c => c.Reaches sp false true off false)
        (Touches sp (fun _ => []) (fun c => c.storedAt sp off n (c.patB f) (lanesOf c.act)))
    let owed := fun (sp write : Bool) (c : Ctx) =>
      checkLanes c.st c.grp sp write n ((lanesOf c.act).map (c.localAddr off)) = none ∧ c.wave.releaseOwed = true
    load (.lds f) 0x80 false ∧ store (.sts f) 0x81 false ∧ load (.ldp f) 0x82 true ∧ store (.stp f) 0x83 true
    ∧ Effects (.lds f) 0x80 f { v := true, s := true, wide := w } .addr .unused none (owed false false) Waits
    ∧ Effects (.sts f) 0x81 f .unused .addr (.value w) none (owed false true) Waits
    ∧ Effects (.ldp f) 0x82 f { v := true, s := true, wide := w } .addr .unused none (owed true false) Waits
    ∧ Effects (.stp f) 0x83 f .unused .addr (.value w) none (owed true true) Waits)
  ∧ (∀ f : Form,
    let w := wideTy f.ty
    let n := tySize f.ty
    let off := wordOff f.imm
    let odd := fun (c : Ctx) => ∃ l, c.act.getLsbD l = true ∧ c.localAddr off l % n ≠ 0
    let past := fun (c : Ctx) => ¬odd c ∧ ∃ l, c.act.getLsbD l = true ∧ c.grp.cur.sh < c.localAddr off l + n
    let quarter := fun (c : Ctx) (l : Nat) => c.grp.die * 4 + c.localAddr off l / 2 ^ 26 % 4
    let start := fun (c : Ctx) (l : Nat) => c.localAddr off l % 2 ^ 26
    let region := fun (c : Ctx) (l : Nat) => (c.st.facet (quarter c l)).regionAt (start c l) n
    let inside := fun (c : Ctx) (l : Nat) => c.localAddr off l < 2 ^ 28 ∧ c.st.inPartition c.grp (quarter c l) = true
      ∧ start c l + n ≤ (c.st.facet (quarter c l)).spadUnits * 65536
      ∧ ∃ r, region c l = some r ∧ r.ctx = c.grp.ctx ∧ (r.div = false ∨ r.issuer = c.grp.id)
    let outside := fun (c : Ctx) => ¬odd c ∧ ∃ l, c.act.getLsbD l = true ∧ ¬inside c l
    let foreign := fun (c : Ctx) => ¬odd c ∧ c.grp.div = true ∧ (∀ l, c.act.getLsbD l = true → inside c l)
      ∧ ∃ l, c.act.getLsbD l = true ∧ ∀ r, region c l = some r → ¬(r.owned = true ∧ r.issuer = c.grp.id)
    let dest : Allow := { v := true, s := true, wide := w }
    Effects (.ldp f) 0x82 f dest .addr .unused none outside (Faults codeSpad)
    ∧ Effects (.stp f) 0x83 f .unused .addr (.value w) none outside (Faults codeSpad)
    ∧ Effects (.stp f) 0x83 f .unused .addr (.value w) none foreign (Faults codeDiv)
    ∧ Effects (.lds f) 0x80 f dest .addr .unused none odd (Faults codeAlign)
    ∧ Effects (.ldp f) 0x82 f dest .addr .unused none odd (Faults codeAlign)
    ∧ Effects (.sts f) 0x81 f .unused .addr (.value w) none odd (Faults codeAlign)
    ∧ Effects (.stp f) 0x83 f .unused .addr (.value w) none odd (Faults codeAlign)
    ∧ Effects (.lds f) 0x80 f dest .addr .unused none past (Faults codeOperand)
    ∧ Effects (.sts f) 0x81 f .unused .addr (.value w) none past (Faults codeOperand))


/-- R217 to R220: a local atomic runs lane by lane in ascending order; each active lane gets the element that the lanes below it left,
and the compare-and-swap stores only where that is the value in D. -/
def Obligations.LocalAtomics : Prop := ∀ f : Form,
  let w := wideTy f.ty
  let n := tySize f.ty
  let k := tyWidth f.ty
  let off := atomicOff f.imm
  let pick := fun (g : Int → Int → Int) (x y : Nat) => wrapInt (g (asInt f.ty x) (asInt f.ty y)) k
  let op := fun (old b : Nat) => match f.var.toNat with
    | 0x0 => (old + b) % 2 ^ k
    | 0x1 => if f.ty = .f32 then fminmax false false old b else pick min old b
    | 0x2 => if f.ty = .f32 then fminmax true false old b else pick max old b
    | 0x3 => old &&& b
    | 0x4 => old ||| b
    | 0x5 => old ^^^ b
    | 0x6 => b
    | 0x7 => if old < b then old + 1 else 0
    | 0x8 => if old = 0 ∨ b < old then b else old - 1
    | 0x9 => fminmax false true old b
    | 0xA => fminmax true true old b
    | _ => dotRound [(dec .f32 old, .one)] (dec .f32 b) .rn
  let rmw := fun (i : Instr) (code : Nat) (d : Allow) (sp : Bool) (new : Ctx → Nat → Nat → Option Nat) =>
    Effects i code f d .addr (.value w) none (fun c => c.Reaches sp true true off (ordRel f.imm 23))
      (fun s c t => Touches sp
        (fun c => [⟨f.d, w, fun l => c.element sp off n (c.afterRmw sp off n (new c) (localByte c.grp s sp) (c.lanesBelow l)) l⟩])
        (fun c _ => c.afterRmw sp off n (new c) (localByte c.grp s sp) (lanesOf c.act)) s c t)
  let swap := fun (c : Ctx) (l old : Nat) => if old = c.patD f l then some (c.patB f l) else none
  rmw (.ats f) 0x86 ((Allow.vreg w).orNone) false (fun c l old => some (op old (c.patB f l)))
  ∧ rmw (.atp f) 0x87 ((Allow.vreg w).orNone) true (fun c l old => some (op old (c.patB f l)))
  ∧ rmw (.cass f) 0x88 (.vreg w) false swap ∧ rmw (.casp f) 0x89 (.vreg w) true swap

/-- R221, R222: a load-reserve gives each active lane the reservation of its sector, and a store-conditional stores in a lane whose
reservation is still that of its sector, once per sector, and ends the reservation of every active lane. -/
def Obligations.Reservations : Prop := ∀ f : Form,
  let w := wideTy f.ty
  let n := tySize f.ty
  let off := atomicOff f.imm
  let rel := ordRel f.imm 23
  let sector := fun (c : Ctx) (sp : Bool) (l : Nat) => c.localKey sp (c.localAddr off l) / 64 + 1
  let holds := fun (c : Ctx) (sp : Bool) (l : Nat) => c.wave.resv sp l = sector c sp l
  let wins := fun (c : Ctx) (sp : Bool) (l : Nat) =>
    decide (holds c sp l ∧ ∀ j ∈ c.lanesBelow l, ¬(holds c sp j ∧ sector c sp j = sector c sp l))
  let loads := fun (i : Instr) (op : Nat) (sp : Bool) =>
    Effects i op f (.vreg w) .addr .unused none (fun c => c.Reaches sp true false off rel)
      (fun s c t =>
        Touches sp (fun c => [⟨f.d, w, fun l => extend f.ty (c.element sp off n (localByte c.grp s sp) l)⟩]) (fun _ b _ => b) s c t
        ∧ ∃ g w', c.Left s t g w' ∧ ∀ sp' l, w'.resv sp' l =
            if sp' = sp ∧ c.act.getLsbD l = true then sector c sp l else c.wave.resv sp' l)
  let stores := fun (i : Instr) (op : Nat) (sp : Bool) =>
    Effects i op f .pred .addr (.value w) none (fun c => c.Reaches sp false true off rel)
      (fun s c t =>
        Touches sp (fun c => [⟨f.d, false, fun l => bitNat (wins c sp l)⟩])
          (fun c => c.storedAt sp off n (c.patB f) ((lanesOf c.act).filter (wins c sp))) s c t
        ∧ ∀ (g : Group) (w' : Wave), t.group? c.grp.id = some g → g.wave? c.wave.id = some w' →
            ∀ l, c.act.getLsbD l = true → w'.resv sp l = 0)
  loads (.lrs f) 0x8A false ∧ stores (.scs f) 0x8B false ∧ loads (.lrp f) 0x8C true ∧ stores (.scp f) 0x8D true

/-- R177, R178, R223: SPILL puts registers of the active lanes into the wave's spill range, and FILL reads them back; nothing else
changes. An odd offset is the misalignment fault, and a range past the end the spill fault, or in a divisible task exhausts it (R285). -/
def Obligations.SpillFill : Prop := ∀ f : Form,
  let k := f.var.toNat + 1
  let o := fun (c : Ctx) => wrapInt (c.read 1 .n32 f.a 0 + sx f.imm.toNat 32) 32
  let step := fun (b : Operand) => if isV b then 256 else 4
  let fits := fun (b : Operand) (c : Ctx) => o c % step b = 0 ∧ o c + step b * k ≤ c.grp.spillSize
  let byte := fun (c : Ctx) (a : Nat) =>
    let i := (a - o c) / step f.b
    let x := if isV f.b then c.wave.readV c.st.tick 2 (vIndex f.b + i) ((a - o c) / 4 % 64)
      else c.wave.readS c.st.tick 2 (sIndex f.b + i)
    BitVec.ofNat 8 (x.toNat / 2 ^ (8 * ((a - o c) % 4)))
  let stored := fun (c : Ctx) (a : Nat) => o c ≤ a ∧ a < o c + step f.b * k
    ∧ (isV f.b = true → c.act.getLsbD ((a - o c) / 4 % 64) = true)
  Effects (.spill f) 0x84 f .unused .spillBase (.spillBlock k) none (fits f.b)
    (fun s c t => ∃ g w, c.Left s t g w
      ∧ t = { s with groups := t.groups, facets := t.facets, badSpad := t.badSpad } ∧ s.sameFacets t
      ∧ g = { c.grp with waves := g.waves } ∧ w.sameBut { c.wave with spill := w.spill } ∧ c.Regs [] g w ∧ c.Advanced w
      ∧ ∀ a, (stored c a → w.spill.read a = byte c a) ∧ (¬stored c a → w.spill.read a = c.wave.spill.read a))
  ∧ Effects (.fill f) 0x85 f (.spillBlock k) .spillBase .unused none
    (fun c => fits f.d c ∧ ∀ a, o c ≤ a → a < o c + step f.d * k → a % 4 = 0 → (isV f.d = true → c.act.getLsbD ((a - o c) / 4 % 64) = true) →
      c.st.badLocal c.grp true (c.grp.facet % 4 * 2 ^ 26 + c.wave.spillAt + a) 4 = none)
    (Computes fun c => (List.range k).map (fun i => if isV f.d
      then ⟨.v (vIndex f.d + i), false, fun l => c.wave.spill.readNum (o c + 256 * i + 4 * l) 4⟩
      else ⟨.s (sIndex f.d + i), false, fun _ => c.wave.spill.readNum (o c + 4 * i) 4⟩))
  ∧ Effects (.spill f) 0x84 f .unused .spillBase (.spillBlock k) none (fun c => o c % step f.b ≠ 0) (Faults codeAlign)
  ∧ Effects (.fill f) 0x85 f (.spillBlock k) .spillBase .unused none (fun c => o c % step f.d ≠ 0) (Faults codeAlign)
  ∧ Effects (.spill f) 0x84 f .unused .spillBase (.spillBlock k) none
    (fun c => o c % step f.b = 0 ∧ c.grp.spillSize < o c + step f.b * k ∧ c.divisible = false) (Faults codeSpill)
  ∧ Effects (.fill f) 0x85 f (.spillBlock k) .spillBase .unused none
    (fun c => o c % step f.d = 0 ∧ c.grp.spillSize < o c + step f.d * k ∧ c.divisible = false) (Faults codeSpill)
  ∧ Exhausts (.spill f) 0x84 f .unused .spillBase (.spillBlock k) none
    (fun c _ => o c % step f.b = 0 ∧ c.grp.spillSize < o c + step f.b * k ∧ c.divisible = true)
  ∧ Exhausts (.fill f) 0x85 f (.spillBlock k) .spillBase .unused none
    (fun c _ => o c % step f.d = 0 ∧ c.grp.spillSize < o c + step f.d * k ∧ c.divisible = true)

/-! ### Commands -/

/-- An instruction that submits a command where `ok` holds: it is accepted where there is room, a key and a translation of its pages,
it waits where its class or its engine is full, and a request of a context with no key is the key fault (R151, R179, R206, R394). -/
def Submits (i : Instr) (op : Nat) (f : Form) (d a b : Allow) (x : Option Allow) (ok : Ctx → Prop) (o : Ctx → Order) : Prop :=
  Effects i op f d a b x (fun c => ok c ∧ c.Takes (o c)) (Accepted o)
  ∧ Effects i op f d a b x (fun c => ok c ∧ c.full (o c).cls = true) Waits
  ∧ Effects i op f d a b x
    (fun c => ok c ∧ c.full (o c).cls = false ∧ (o c).effect.access.1 ≠ [] ∧ c.st.keyBound c.grp.ctx = false) (Faults codeKey)

/-- The fields of a bulk descriptor that R225 allows. -/
def goodBulk (c : Ctx) (d : Bulk) : Prop :=
  4 ≤ d.len ∧ d.len ≤ 2 ^ 24 ∧ d.len % 4 = 0 ∧ 1 ≤ d.rows ∧ d.rows ≤ 2 ^ 16 ∧ d.len * d.rows ≤ 2 ^ 24
    ∧ c.wave.readS c.st.tick 1 (sIndex c.form.a + 7) = 0

/-- R225, R226: the bulk copies read their descriptor at issue and are commands of classes 1 and 2. Fields out of range are the
illegal-operand fault, and odd addresses or strides the misalignment fault. A page that cannot be translated gives the command its
status (R180). -/
def Obligations.BulkCommands : Prop := ∀ f : Form,
  let sp := f.var.getLsbD 0
  let even := fun (c : Ctx) => c.bulk.va.toNat % 4 = 0 ∧ c.bulk.vstr % 4 = 0
  let evenLocal := fun (c : Ctx) => c.bulk.loc.toNat % 4 = 0 ∧ c.bulk.lstr % 4 = 0
  let good := fun (write : Bool) (c : Ctx) => goodBulk c c.bulk ∧ even c ∧ evenLocal c ∧ c.bulk.localCodes c.st c.grp sp write = []
  let handle := some Allow.cmdHandle
  let copyIn := fun (ok : Ctx → Prop) => Effects (.bcin f) 0x90 f .unused .descriptor .unused handle ok
  let copyOut := fun (ok : Ctx → Prop) => Effects (.bcout f) 0x91 f .unused .descriptor .unused handle ok
  let fill := fun (ok : Ctx → Prop) => Effects (.bfill f) 0x94 f .unused .descriptor (.uni false) handle ok
  let pattern := fun (c : Ctx) => word (c.uniform 2 .b32 f.b)
  let fails := fun (cls : Nat) (acc : Access) (e : Ctx → Effect) (st : Byte) (va : Nat) (c : Ctx) => c.full cls = false
    ∧ c.st.keyBound c.grp.ctx = true
    ∧ (c.st.translateAll c.grp.facet c.wave.core c.grp.ctx acc (e c).access.1 []).1 = .error (st, va)
  let failed := fun (cls : Nat) (e : Ctx → Effect) (st : Byte) (va : Nat) (s : State) (c : Ctx) (t : State) => ∃ g w, c.Left s t g w
    ∧ t = { s with groups := t.groups, facets := t.facets, tlb := t.tlb } ∧ s.sameFacets t
    ∧ g = { c.grp with waves := g.waves } ∧ w.sameButCmds c.wave ∧ c.Regs [] g w ∧ c.Advanced w
    ∧ ∃ k ∈ w.cmds, k.cls = cls ∧ k.seq = c.wave.nextSeq cls ∧ k.effect = e c ∧ k.pins = [] ∧ k.status = st
        ∧ k.info = BitVec.ofNat 64 va ∧ k.stage = .queued
  Submits (.bcin f) 0x90 f .unused .descriptor .unused handle (good true)
    (fun c => c.order 1 (.bulkIn c.bulk sp) (handleReg f.c))
  ∧ Submits (.bcout f) 0x91 f .unused .descriptor .unused handle (fun c => good false c ∧ c.divisible = false)
    (fun c => c.order 2 (.bulkOut c.bulk sp) (handleReg f.c))
  ∧ Submits (.bfill f) 0x94 f .unused .descriptor (.uni false) handle (fun c => goodBulk c c.bulk ∧ even c ∧ c.divisible = false)
    (fun c => c.order 2 (.bulkFill c.bulk (pattern c)) (handleReg f.c))
  ∧ copyIn (fun c => ¬goodBulk c c.bulk) (Faults codeOperand)
  ∧ copyOut (fun c => ¬goodBulk c c.bulk) (Faults codeOperand)
  ∧ fill (fun c => ¬goodBulk c c.bulk) (Faults codeOperand)
  ∧ copyIn (fun c => goodBulk c c.bulk ∧ ¬(even c ∧ evenLocal c)) (Faults codeAlign)
  ∧ copyOut (fun c => goodBulk c c.bulk ∧ ¬(even c ∧ evenLocal c)) (Faults codeAlign)
  ∧ fill (fun c => goodBulk c c.bulk ∧ ¬even c) (Faults codeAlign)
  ∧ (∀ st va, st ≠ 0#8 → st ≠ 0xFE#8 →
      let into := fun (c : Ctx) => Effect.bulkIn c.bulk sp
      let out := fun (c : Ctx) => Effect.bulkOut c.bulk sp
      let filled := fun (c : Ctx) => Effect.bulkFill c.bulk (pattern c)
      copyIn (fun c => good true c ∧ fails 1 .read into st va c) (failed 1 into st va)
      ∧ copyOut (fun c => good false c ∧ c.divisible = false ∧ fails 2 .write out st va c) (failed 2 out st va)
      ∧ fill (fun c => goodBulk c c.bulk ∧ even c ∧ c.divisible = false ∧ fails 2 .write filled st va c) (failed 2 filled st va))

/-- The lanes of a per-lane command as it reads them at issue: address, value and local address of each active lane. -/
def laneList (c : Ctx) (val loc : Nat → Nat) : List LaneArg :=
  (lanesOf c.act).map (fun l => ⟨l, BitVec.ofNat 64 (c.read 1 .n64 c.form.a l), BitVec.ofNat 64 (val l), loc l⟩)

/-- R227 to R229, R244, R289: gathers, scatters, memory atomics and the exact-sum instructions complete: each leaves a next state whose
wave has submitted the command that carries what each active lane reads at issue. XRD is no release. An address that is no multiple of the
size in one active lane is the misalignment fault, and an atomic that returns a value is forbidden in a divisible task. No rule orders the
faults of one instruction: that a misaligned address comes before a local address that fails, and before the divisible violation, is the
model's choice (assumption 67). -/
def Obligations.LaneCommands : Prop := ∀ f : Form,
  let w := wideTy f.ty
  let n := tySize f.ty
  let reg := f.var = 0#4
  let h := handleReg f.c
  let handle := some Allow.cmdHandle
  let odd := fun (k : Nat) (c : Ctx) => ∃ l, c.act.getLsbD l = true ∧ c.read 1 .n64 f.a l % 2 ^ 64 % k ≠ 0
  let whole := fun (c : Ctx) => c.divisible = false
  let locals := fun (write : Bool) (c : Ctx) => ¬odd n c
    ∧ (reg ∨ checkLanes c.st c.grp (f.var = 2#4) write n ((lanesOf c.act).map (fun l => c.read 2 .n32 f.b l)) = none)
  let loc := fun (c : Ctx) (l : Nat) => if reg then 0 else c.read 2 .n32 f.b l
  let vals := fun (c : Ctx) => laneList c (c.patB f) (fun _ => 0)
  let none' := fun (c : Ctx) => laneList c (fun _ => 0) (fun _ => 0)
  let both := fun (i : Instr) (op : Nat) (d b : Allow) (k : Nat) (ok : Ctx → Prop) (o : Ctx → Order) =>
    Submits i op f d (.vreg true) b handle (fun c => ¬odd k c ∧ ok c) o
    ∧ Effects i op f d (.vreg true) b handle (odd k) (Faults codeAlign)
  let taken := fun (i : Instr) (op : Nat) (d b : Allow) (k : Nat) (ok : Ctx → Prop) (o : Ctx → Order) => ∀ s c,
    s.issued op f d (.vreg true) b handle = some c → ¬odd k c → ok c → c.Takes (o c) → ∃ t, exec i s = .next t ∧ Accepted o s c t
  (f.var.toNat ≤ 2 → taken (.bgath f) 0x92 (if reg then .vreg w else .unused) (if reg then .unused else .vreg false) n (locals true)
    (fun c => c.order 1 (.gather f.ty f.var.toNat f.d (laneList c (fun _ => 0) (loc c))) h))
  ∧ taken (.matom f) 0x95 (.vreg w) (.value w) n whole (fun c => c.order 3 (.atomic f.var.toNat f.ty f.d (vals c)) h (ordRel f.imm 15))
  ∧ taken (.mcas f) 0x97 (.vreg w) (.value w) n whole
    (fun c => c.order 3 (.cas f.ty f.d (laneList c (c.patB f) (c.patD f))) h (ordRel f.imm 15))
  ∧ taken (.xrd f) 0x99 (.vreg false) .unused 64 (fun _ => True) (fun c => c.order 3 (.xrd f.ty (modeOf f.var) f.d (none' c)) h)
  ∧ (f.var.toNat ≤ 2 → both (.bgath f) 0x92 (if reg then .vreg w else .unused) (if reg then .unused else .vreg false) n (locals true)
    (fun c => c.order 1 (.gather f.ty f.var.toNat f.d (laneList c (fun _ => 0) (loc c))) h))
  ∧ (f.var.toNat ≤ 2 → both (.bscat f) 0x93 .unused (if reg then .value w else .vreg false) n (fun c => locals false c ∧ whole c)
    (fun c => c.order 2 (.scatter f.ty f.var.toNat (if reg then vals c else laneList c (fun _ => 0) (loc c))) h))
  ∧ both (.matom f) 0x95 (.vreg w) (.value w) n whole (fun c => c.order 3 (.atomic f.var.toNat f.ty f.d (vals c)) h (ordRel f.imm 15))
  ∧ both (.mred f) 0x96 .unused (.value w) n whole (fun c => c.order 3 (.atomic f.var.toNat f.ty .none (vals c)) h (ordRel f.imm 15))
  ∧ both (.mcas f) 0x97 (.vreg w) (.value w) n whole
    (fun c => c.order 3 (.cas f.ty f.d (laneList c (c.patB f) (c.patD f))) h (ordRel f.imm 15))
  ∧ both (.xsum f) 0x98 .unused (.value false) 64 whole (fun c => c.order 3 (.xsum f.ty (vals c)) h (ordRel f.imm 15))
  ∧ both (.xrd f) 0x99 (.vreg false) .unused 64 (fun _ => True)
    (fun c => c.order 3 (.xrd f.ty (modeOf f.var) f.d (none' c)) h)
  ∧ both (.xclr f) 0x9A .unused .unused 64 whole (fun c => c.order 3 (.xclr (none' c)) h (ordRel f.imm 15))
  ∧ Effects (.matom f) 0x95 f (.vreg w) (.vreg true) (.value w) handle (fun c => ¬odd n c ∧ c.divisible = true) (Faults codeDiv)
  ∧ Effects (.mcas f) 0x97 f (.vreg w) (.vreg true) (.value w) handle (fun c => ¬odd n c ∧ c.divisible = true) (Faults codeDiv)

/-- R184, R203, R238: in a divisible task, an effect on main memory is held back: the command is accepted as elsewhere and is performed by
the writing of its record, with the bytes it would have stored, where none of them lies in an uncorrectable word; a record that has no
room in the deferred area exhausts the task (R285). That the record is
written, and the source bytes are taken, when the instruction issues is the model's reading of R184 beside R235 (assumption 19). -/
def Obligations.HeldBackEffects : Prop := ∀ f : Form,
  let sp := f.var.getLsbD 0
  let n := tySize f.ty
  let reg := f.var = 0#4
  let h := handleReg f.c
  let handle := some Allow.cmdHandle
  let rel := ordRel f.imm 15
  let sound := fun (e : Effect) (c : Ctx) => (∀ x ∈ e.sharedRanges c.grp.slots c.act, c.st.badLocal c.grp false x.1 x.2 = none)
    ∧ ∀ x ∈ e.spadRanges, c.st.badLocal c.grp true x.1 x.2 = none
  let held := fun (i : Instr) (op : Nat) (a b : Allow) (ok : Ctx → Prop) (o : Ctx → Order) (d : Ctx → Deferred) (size : Ctx → Nat) =>
    let takes := fun (c : Ctx) => ok c ∧ c.divisible = true ∧ c.Takes (o c) ∧ sound (o c).effect c
    Effects i op f .unused a b handle (fun c => takes c ∧ c.grp.deferUsed + size c ≤ c.grp.deferCap) (HeldBack o d size)
    ∧ Exhausts i op f .unused a b handle (fun c _ => takes c ∧ c.grp.deferCap < c.grp.deferUsed + size c)
  let lined := fun (k : Nat) (c : Ctx) => ∀ l, c.act.getLsbD l = true → c.read 1 .n64 f.a l % 2 ^ 64 % k = 0
  let even := fun (c : Ctx) => goodBulk c c.bulk ∧ c.bulk.va.toNat % 4 = 0 ∧ c.bulk.vstr % 4 = 0
  let evenLocal := fun (c : Ctx) => c.bulk.loc.toNat % 4 = 0 ∧ c.bulk.lstr % 4 = 0 ∧ c.bulk.localCodes c.st c.grp sp false = []
  let bytes := fun (c : Ctx) (sp : Bool) (a n : Nat) => (List.range n).map (fun j => localByte c.grp c.st sp (c.localKey sp a + j))
  let rows := fun (c : Ctx) (row : Int → List Byte) => c.bulk.rowList.map (fun (a, l) => (BitVec.ofNat 64 a.toNat, row l))
  let lines := fun (k : Nat) => 64 + (k + 63) / 64 * 64
  let vals := fun (c : Ctx) => laneList c (c.patB f) (fun _ => 0)
  let locs := fun (c : Ctx) => laneList c (fun _ => 0) (fun l => c.read 2 .n32 f.b l)
  let copy := fun (c : Ctx) => c.order 2 (.bulkOut c.bulk sp) h
  let fill := fun (c : Ctx) => c.order 2 (.bulkFill c.bulk (word (c.uniform 2 .b32 f.b))) h
  let scatter := fun (c : Ctx) => c.order 2 (.scatter f.ty f.var.toNat (if reg then vals c else locs c)) h
  let reduce := fun (c : Ctx) => c.order 3 (.atomic f.var.toNat f.ty .none (vals c)) h rel
  let sum := fun (c : Ctx) => c.order 3 (.xsum f.ty (vals c)) h rel
  let clear := fun (c : Ctx) => c.order 3 (.xclr (laneList c (fun _ => 0) (fun _ => 0))) h rel
  let size := fun (c : Ctx) => lines (c.bulk.len * c.bulk.rows)
  held (.bcout f) 0x91 .descriptor .unused (fun c => even c ∧ evenLocal c) copy
    (fun c => .store 4 (rows c (fun l => bytes c sp l.toNat c.bulk.len))) size
  ∧ held (.bfill f) 0x94 .descriptor (.uni false) even fill
    (fun c => .store 4 (rows c (fun _ => (List.range c.bulk.len).map (fun j =>
      BitVec.ofNat 8 (c.uniform 2 .b32 f.b / 2 ^ (8 * (j % 4))))))) size
  ∧ (f.var.toNat ≤ 2 → held (.bscat f) 0x93 (.vreg true) (if reg then .value (wideTy f.ty) else .vreg false)
      (fun c => lined n c ∧ (reg ∨ checkLanes c.st c.grp (f.var = 2#4) false n ((lanesOf c.act).map (fun l => c.read 2 .n32 f.b l)) = none))
      scatter (fun c => .store n ((if reg then vals c else locs c).map (fun x =>
        (x.addr, if reg then toBytes n x.val.toNat else bytes c (f.var = 2#4) x.loc n))))
      (fun c => lines ((lanesOf c.act).length * n)))
  ∧ held (.mred f) 0x96 (.vreg true) (.value (wideTy f.ty)) (lined n) reduce (fun c => .atomic f.var.toNat f.ty (vals c)) (fun _ => 64)
  ∧ held (.xsum f) 0x98 (.vreg true) (.value false) (lined 64) sum (fun c => .xsum f.ty (vals c)) (fun _ => 64)
  ∧ held (.xclr f) 0x9A (.vreg true) .unused (lined 64) clear
    (fun c => .store 64 ((laneList c (fun _ => 0) (fun _ => 0)).map (fun x => (x.addr, List.replicate 64 0#8)))) (fun _ => 128)

/-! ### Waits and handles -/

/-- Whether a command raises something that has not been reported (R209, R210). -/
def Sys2Proof.Machine.Cmd.raises (k : Cmd) : Bool := k.stage = .signalled && !k.reported && (statusCode k.status).isSome

/-- R230 to R233: PREF changes nothing but caches and translations, and waits while the copy engine's queue is full (R41, R179). A FENCE
goes on once every access of its kinds is performed, a WAITC once the commands it covers are signalled, and an HWAIT once its handles are
complete; until then they wait. A WAITC or HWAIT that finds a command with something to raise reports it: here a recoverable trap, with a
handler, in a launch of which no fault has arrived. -/
def Obligations.WaitingInstructions : Prop := ∀ f : Form,
  let kind := fun (cls : Nat) => if cls = 1 ∨ cls = 2 ∨ cls = 3 then 1 else if cls = 4 then 2 else if cls = 5 then 3 else 4
  let toG := fun (k : Cmd) => (∃ key n, k.effect = .npeek key (.g n)) ∨ ∃ x y n, k.effect = .call (.oinfo x y (.g n))
  let passed := fun (c : Ctx) => ∀ k ∈ c.wave.cmds, c.wave.before k = true →
    (f.imm.toNat.testBit (kind k.cls) = true ∨ (f.imm.toNat.testBit 5 = true ∧ toG k)) → k.stage = .performed ∨ k.stage = .signalled
  let classes := if f.var.toNat % 8 = 7 then [1, 2, 3, 4, 5, 6] else [f.var.toNat % 8]
  let covered := fun (c : Ctx) => classes.flatMap (fun (n : Nat) =>
    let cs := c.wave.cmds.filter (fun (k : Cmd) => k.cls = n && c.wave.before k)
    cs.take (cs.length - f.imm.toNat % 256))
  let signalled := fun (c : Ctx) => ∀ k ∈ covered c, k.stage = .signalled
  let regs := match f.a with
    | .h n => [n]
    | _ => (List.range 16).filter (fun i => f.imm.getLsbD i)
  let complete := fun (c : Ctx) => ∀ r ∈ regs, c.grp.handleStatus c.wave (c.wave.h? r) ≠ 0x01#8
  let named := fun (c : Ctx) (r : Nat) => match c.wave.h? r with
    | .own cls seq => c.wave.cmd? cls seq
    | _ => none
  let handled := fun (c : Ctx) => c.wave.frames.length < 4 ∧ c.wave.trapVec ≠ 0 ∧ c.st.ending c.grp = false
  let caught := fun (k : Cmd) (code : Code) => statusCode k.status = some code ∧ recoverable code = true
  let waitc := Effects (.waitc f) 0xA1 f .unused .unused .unused none
  let hwait := Effects (.hwait f) 0xA2 f .unused (Allow.handle.orNone) .unused none
  let busy := fun (c : Ctx) => 64 ≤ c.st.copyQueue c.grp.facet c.wave.core
  Effects (.pref f) 0x9B f .unused .pair (.uni false) none (fun c => ¬busy c) (fun s c t =>
    Computes (fun _ => []) s c { t with
      tlb := s.tlb
      l2 := s.l2
      bad := s.bad
      hostHeld := s.hostHeld })
  ∧ Effects (.pref f) 0x9B f .unused .pair (.uni false) none busy Waits
  ∧ Effects (.fence f) 0xA0 f .unused .unused .unused none passed (Computes fun _ => [])
  ∧ Effects (.fence f) 0xA0 f .unused .unused .unused none (fun c => ¬passed c) Waits
  ∧ waitc (fun c => signalled c ∧ ∀ k ∈ covered c, k.raises = false) (Computes fun _ => [])
  ∧ waitc (fun c => ¬signalled c) Waits
  ∧ (∀ k code, waitc (fun c => signalled c ∧ (covered c).find? Cmd.raises = some k ∧ caught k code ∧ handled c) (Reported k code none))
  ∧ hwait (fun c => complete c ∧ ∀ r ∈ regs, ∀ k, named c r = some k → k.raises = false) (Computes fun _ => [])
  ∧ hwait (fun c => ¬complete c) Waits
  ∧ (∀ r k code, hwait (fun c => complete c ∧ r ∈ regs ∧ named c r = some k ∧ k.raises = true ∧ caught k code ∧ handled c
        ∧ ∀ j ∈ regs, j < r → ∀ k', named c j = some k' → k'.raises = false) (Reported k code (some r)))

/-- R234 to R236, R358, R381: HTEST reads the status of a handle, HCANCEL withdraws a pending own command that has not begun, or that
failed at its acceptance (assumption 87), and HMOV moves handles between h and g registers. An HCANCEL of a command of the NAME or PORT class
first asks the unit that holds it, and waits; then the command is cancelled, and no router and no port keeps a record of it. -/
def Obligations.HandleInstructions : Prop := ∀ f : Form,
  let status := fun (c : Ctx) => match c.wave.h? (hIndex f.a) with
    | .null | .obj _ => 0
    | .ref r => (c.grp.refStatus r).toNat
    | .own cls seq => match c.wave.cmd? cls seq with
      | none => 4
      | some k => if k.stage ≠ .signalled then 1 else if k.reported then 3 else k.status.toNat
  let isPred := match f.d with
    | .p _ => true
    | _ => false
  let fresh := fun (k : Cmd) => k.failedEarly = true
    ∨ (k.stage ≠ .landing ∧ k.stage ≠ .performed ∧ k.stage ≠ .signalled ∧ k.begun = false ∧ k.calling = false ∧ (k.cls = 4 → k.status ≠ 0x02#8))
  let cancelled := fun (k : Cmd) (s : State) (c : Ctx) (t : State) (g : Group) (w : Wave) => c.Left s t g w ∧ s.sameFacets t
    ∧ g = { c.grp with
        waves := g.waves
        g := g.g }
    ∧ w.sameBut { c.wave with
        cmds := w.cmds
        h := w.h }
    ∧ (∀ r, (∀ q, c.wave.h? r ≠ .own 6 q) → w.h? r = c.wave.h? r)
    ∧ c.Regs [⟨f.d, false, fun _ => 1⟩] g w ∧ c.Advanced w
    ∧ ∃ k' ∈ w.cmds, k' = { k with
        status := 0x02#8
        stage := k'.stage }
  let held := fun (c : Ctx) (k : Cmd) (y : IntRec) => y.who = .localCmd c.grp.id c.wave.id k.seq
  let tooLate := fun (c : Ctx) (k : Cmd) => ∃ y ∈ c.st.routers, y.expired = true ∧ ∃ e ∈ y.entries, ∃ x ∈ e.recs, held c k x
  let waiter := fun (c : Ctx) (k : Cmd) (x : Waiter) => x.peer = none ∧ x.group = c.grp.id ∧ x.wave = c.wave.id ∧ x.seq = k.seq
  let own := fun (c : Ctx) (k : Cmd) => c.wave.h? (hIndex f.a) = .own k.cls k.seq ∧ c.wave.cmd? k.cls k.seq = some k
  let cancel := Effects (.hcancel f) 0xA4 f (Allow.pred.orNone) .handle .unused none
  let move := Effects (.hmov f) 0xA5 f { g := true, h := true } { g := true, h := true } .unused none
  let install := Effects (.hmovObj f) 0xA5 f .handle { g := true } .unused none
  let reference := fun (x : Nat) => x / 2 ^ 20 % 4 = 0 ∧ x / 2 ^ 29 ≠ 7 ∧ (x / 2 ^ 29 = 0 → x = 0)
  let object := fun (x : Nat) => x / 2 ^ 23 % 8 < 6 ∧ (x / 2 ^ 23 % 8 = 0 → x = 0)
  Effects (.htest f) 0xA3 f { v := true, s := true, g := true, p := true } .handle .unused none (fun _ => True)
    (Computes fun c => [⟨f.d, false, fun _ => if isPred then bitNat (status c ≠ 1) else status c⟩])
  ∧ cancel (fun c => ∀ k, own c k → ¬fresh k) (Computes fun _ => [⟨f.d, false, fun _ => 0⟩])
  ∧ (∀ k, 1 ≤ k.cls → k.cls ≤ 4 → cancel (fun c => own c k ∧ fresh k ∧ c.wave.live ≠ 0)
      (fun s c t => t = { s with groups := t.groups, facets := t.facets } ∧ ∃ g w, cancelled k s c t g w))
  ∧ (∀ k, 5 ≤ k.cls → cancel (fun c => own c k ∧ fresh k ∧ (k.asked = false ∨ (k.cls = 5 ∧ tooLate c k)))
      (fun s c t => ∃ g w, c.Left s t g w ∧ t = { s with groups := t.groups } ∧ g = { c.grp with waves := g.waves }
        ∧ w = { c.wave with
            cmds := c.wave.cmds.map (fun x => if x.cls = k.cls && x.seq = k.seq then { x with asked := true } else x)
            park := .retry false none
            held := some c.path.id
            parkedAt := 0
            asOf := some (c.wave.asOf.getD c.wave.order) }))
  ∧ (∀ k, k.cls = 5 → k.asked = true → cancel (fun c => own c k ∧ fresh k ∧ ¬tooLate c k ∧ c.wave.live ≠ 0)
      (fun s c t => t = { s with groups := t.groups, facets := t.facets, routers := t.routers } ∧ (∃ g w, cancelled k s c t g w)
        ∧ (∀ y ∈ t.routers, ∀ e ∈ y.entries, ∀ x ∈ e.recs, ¬held c k x)
        ∧ t.routers = (s.withdraw (fun x => x.who = .localCmd c.grp.id c.wave.id k.seq)).routers))
  ∧ (∀ k, k.cls = 6 → k.asked = true → cancel (fun c => own c k ∧ fresh k ∧ c.wave.live ≠ 0)
      (fun s c t => t = { s with groups := t.groups, facets := t.facets, escWait := t.escWait }
        ∧ (∃ g w, cancelled k s c { t with facets := s.facets } g w)
        ∧ (s.dropWaits (fun x => x.peer.isNone && x.group = c.grp.id && x.wave = c.wave.id && x.seq = k.seq)).sameFacets t
        ∧ (∀ x ∈ t.escWait, ¬waiter c k x.2)
        ∧ ∀ y ∈ t.facets, ∀ o ∈ y.objs, ∀ d q ss rs, o.kind = .port d q ss rs → ∀ x ∈ ss ++ rs, ¬waiter c k x))
  ∧ (∀ n k, f.d = .g n → f.a = .h k → move (fun _ => True)
      (Computes fun c => [⟨.g n, false, fun _ => (c.wave.handleOut (c.wave.h? k)).toNat⟩]))
  ∧ (∀ n k, f.d = .h n → f.a = .h k → move (fun _ => True) (Adjusts fun c => c.wave.setH n (c.wave.h? k)))
  ∧ (∀ n k, f.d = .h n → f.a = .g k →
      move (fun c => reference (c.grp.gRead k).toNat)
        (Adjusts fun c => c.wave.setH n (if c.grp.gRead k = 0 then .null else .ref (c.grp.gRead k)))
      ∧ move (fun c => ¬reference (c.grp.gRead k).toNat) (Faults codeOperand))
  ∧ (∀ n k, f.d = .h n → f.a = .g k →
      install (fun c => object (c.grp.gRead k).toNat) (Adjusts fun c => c.wave.setH n (.obj (c.grp.gRead k)))
      ∧ install (fun c => ¬object (c.grp.gRead k).toNat) (Faults codeOperand))

/-! ### The matrix engine -/

/-- A matrix command with the operands that its word names. -/
def matrixOf (f : Form) (kind : MatKind) : MatCmd :=
  ⟨kind, f.hints.reuse, f.ty, f.var.toNat, aIndex f.d, aIndex f.a, aIndex f.b, [], 0, [], 0⟩

/-- R139 to R164: the matrix instructions are commands of class 4 that carry what they read at issue. A non-reusing MMA or MMAB sets the
wave's latch tag, and a reusing one needs it. MMAP packs base, row stride, format, slot and order into a map register at once; a base
or stride that is too large, or no multiple of the element size, is the illegal-operand fault, as is F4X in row order. -/
def Obligations.MatrixCommands : Prop :=
  (∀ f : Form,
    let h := handleReg f.c
    let handle := some Allow.cmdHandle
    let reuse := f.hints.reuse
    let n := tySize f.ty
    let col := f.var.getLsbD 3
    let plain := fun (i : Instr) (op : Nat) (d a b : Allow) (ok : Ctx → Prop) (m : Ctx → MatCmd) =>
      Submits i op f d a b handle ok (fun c => c.order 4 (.matrix (m c)) h)
    let map := fun (c : Ctx) => c.wave.m? (mIndex f.b)
    let fits := fun (e : Nat) (c : Ctx) => let b := mapElem c.grp.slots (map c)
      mapFmt (map c) ≠ 0 ∧ 1 ≤ e ∧ e ≤ 6 ∧ 1 ≤ b ∧ b ≤ 6 ∧ elemDepth e = elemDepth b ∧ (b = 6 → mapKmaj (map c) = true)
        ∧ mapBase (map c) + mapSpan c.grp.slots (map c) ≤ c.grp.cur.sh
    let tagged := fun (kind : MatKind) (c : Ctx) => reuse = true → c.wave.latchTag = some (kind, f.ty, f.var.toNat)
    let tag := fun (kind : MatKind) (c : Ctx) => if reuse then c.wave.latchTag else some (kind, f.ty, f.var.toNat)
    let mma := fun (c : Ctx) => c.order 4 (.matrix { matrixOf f .mma with
      aval := if reuse then [] else c.aBlock (blockRegs (elemCode c.grp.slots f.ty (f.var.toNat % 8)))
      map := map c }) h
    let mmab := fun (c : Ctx) => c.order 4 (.matrix { matrixOf f .mmab with map := map c }) h
    let slotted := fun (c : Ctx) => f.ty = .slot → 1 ≤ slotElem c.slot ∧ slotElem c.slot ≤ 6
    let rowsFit := fun (c : Ctx) => ∀ l, c.act.getLsbD l = true → c.smallA f l % n = 0 ∧ c.smallA f l + 64 * n ≤ c.grp.cur.sh
    let rows := fun (c : Ctx) => (lanesOf c.act).foldl (fun m l => put 0 m l (word (c.smallA f l))) []
    let cols := 8 * 2 ^ (f.var.toNat / 4)
    let mask := fun (c : Ctx) => c.read 1 .n32 f.a 0
    let release := fun (c : Ctx) => c.order 4 (.matrix { matrixOf f .mrela with
      args := put 0 [] 0 (word (mask c))
      col := bitNat (f.var.getLsbD 0) }) none
    (∀ e, Effects (.mma f) 0x68 f .tile (.vblock (blockRegs e) false) { m := true } handle
        (fun c => elemCode c.grp.slots f.ty (f.var.toNat % 8) = e ∧ slotted c ∧ fits e c ∧ tagged .mma c ∧ c.Takes (mma c))
        (AcceptedAs mma (tag .mma) (fun _ g => g))
      ∧ Effects (.mma f) 0x68 f .tile (.vblock (blockRegs e) false) { m := true } handle
        (fun c => elemCode c.grp.slots f.ty (f.var.toNat % 8) = e ∧ slotted c ∧ ¬(fits e c ∧ tagged .mma c)) (Faults codeOperand))
    ∧ Effects (.mmab f) 0x69 f .tile .tile { m := true } handle
        (fun c => fits (elemCode [] f.ty 0) c ∧ tagged .mmab c ∧ c.Takes (mmab c)) (AcceptedAs mmab (tag .mmab) (fun _ g => g))
    ∧ (∀ (c : Ctx) (e k l : Nat), k < e → l < 64 →
        look 0 (c.aBlock e) (k * 64 + l) = c.wave.readV c.st.tick 1 (vIndex c.form.a + k) l)
    ∧ plain (.mzero f) 0x6A .tile .unused .unused (fun _ => True) (fun _ => matrixOf f .mzero)
    ∧ plain (.mlda f) 0x6B .tile (.vreg false) .unused rowsFit (fun c => { matrixOf f .mlda with args := rows c })
    ∧ plain (.msta f) 0x6C .unused (.vreg false) .tile rowsFit (fun c => { matrixOf f .msta with args := rows c })
    ∧ plain (.memit f) 0x6D (.vblock (if f.ty = .f32 then cols else cols / 2) false) .tile (.uni false)
        (fun c => c.uniform 2 .n32 f.b + cols ≤ 64)
        (fun c => { matrixOf f .memit with
          d := vIndex f.d
          col := c.uniform 2 .n32 f.b })
    ∧ plain (.maddt f) 0x70 .tile .tile .tile (fun _ => True) (fun _ => matrixOf f .maddt)
    ∧ plain (.mscl f) 0x71 .tile .tile (if col then .vreg false else .scale) (fun _ => True)
        (fun c => { matrixOf f .mscl with
          args := allLanes.foldl (fun m l =>
            put 0 m l (word (if col then c.lane 2 false (vIndex f.b) l else c.read 2 .f32 f.b l))) [] })
    ∧ Effects (.mlda f) 0x6B f .tile (.vreg false) .unused handle (fun c => ¬rowsFit c) (Faults codeOperand)
    ∧ Effects (.msta f) 0x6C f .unused (.vreg false) .tile handle (fun c => ¬rowsFit c) (Faults codeOperand)
    ∧ Effects (.mrela f) 0x6F f .unused (.uni false) .unused none (fun c => mask c < 2 ^ c.grp.cur.t ∧ c.Takes (release c))
        (AcceptedAs release (fun c => if f.var.getLsbD 0 then none else c.wave.latchTag) (fun _ g => g))
    ∧ Effects (.mrela f) 0x6F f .unused (.uni false) .unused none (fun c => 2 ^ c.grp.cur.t ≤ mask c) (Faults codeOperand))
  ∧ (∀ f : Form,
    let base := fun (c : Ctx) => c.read 1 .n32 f.a 0
    let stride := fun (c : Ctx) => c.read 2 .n32 f.b 0
    let slot := if f.ty = .slot then f.var.toNat % 8 else 0
    let e := fun (c : Ctx) => elemCode c.grp.slots f.ty slot
    let size := fun (c : Ctx) => match e c with
      | 1 => 4
      | 2 | 3 => 2
      | _ => 1
    let slotted := fun (c : Ctx) => f.ty = .slot → 1 ≤ slotElem c.slot ∧ slotElem c.slot ≤ 6
    let good := fun (c : Ctx) => base c < 2 ^ 19 ∧ stride c < 2 ^ 19 ∧ base c % size c = 0 ∧ stride c % size c = 0
      ∧ (e c = 6 → f.var.getLsbD 3 = true)
    Effects (.mmap f) 0x6E f { m := true } (.uni false) (.uni false) none (fun c => slotted c ∧ good c)
      (Adjusts fun c => c.wave.setM (mIndex f.d) (BitVec.ofNat 64
        (base c + 2 ^ 19 * stride c + 2 ^ 46 * f.ty.code.toNat + 2 ^ 50 * slot + 2 ^ 53 * bitNat (f.var.getLsbD 3))))
    ∧ Effects (.mmap f) 0x6E f { m := true } (.uni false) (.uni false) none (fun c => slotted c ∧ ¬good c) (Faults codeOperand))


/-- R144, R156 to R162: what the engine leaves in tiles. In the lanes of a command, row l of the destination takes the product sum, zero,
the row loaded, the sum or the scaled row; every other element of every tile, every other wave, everything of the wave but its latch, and
everything else of the group is as it was. A non-reusing MMA leaves in the latch the A values that it carries, a non-reusing MMAB the window
that it reads, and every other instruction leaves the latch as it is. -/
def Obligations.TileResults : Prop := ∀ (g : Group) (wid : Nat) (w : Wave) (m : MatCmd) (mask : Mask), g.wave? wid = some w →
  let old := g.tile w.core
  let num := fun (x : Nat) => dec .f32 x
  let mode := modeOf (BitVec.ofNat 4 m.var)
  let e := elemCode g.slots m.ty (m.var % 8)
  let aval := if m.reuse then w.latch.elim [] Latch.aval else m.aval
  let rows := fun (latch : Option Latch) (val : Nat → Nat → Nat) => let g' := g.engine wid m mask false [] []
    (∀ k, k ≠ wid → g'.wave? k = g.wave? k)
    ∧ g'.wave? wid = some { w with latch := latch }
    ∧ g'.waves.length = g.waves.length
    ∧ (∀ core t l j, t < 32 → l < 64 → j < 64 → g'.tile core t l j =
      if core = w.core ∧ t = m.d ∧ mask.getLsbD l = true then val l j % 2 ^ 32 else g.tile core t l j)
    ∧ g' = { g with
        tiles := g'.tiles
        inUse := g'.inUse
        badTiles := g'.badTiles
        waves := g'.waves }
    ∧ (m.d < 32 → mask ≠ 0 → w.core * 32 + m.d ∈ g'.inUse)
  let filled := fun (a : SMap Word) => if m.reuse then w.latch else some ⟨m.kind, m.ty, m.var, a⟩
  m.d < 32 →
  (m.kind = .mzero → rows w.latch (fun _ _ => 0))
  ∧ (m.kind = .mma → rows (filled m.aval) (fun l j => dotRound
      ((List.range (elemDepth e)).map (fun k => (aElem aval e (slotExtra (g.slots.getD (m.var % 8) 0)) l k, bElem g m.map k j)))
      (num (old m.d l j)) .rn))
  ∧ (m.kind = .mmab → m.reuse = false → m.a < 32 → (m.var + 1) * elemDepth (elemCode [] m.ty 0) ≤ 64 →
    rows (m.latchAfter false g w) (fun l j => dotRound
      ((List.range (elemDepth e)).map (fun k =>
        (dec (fmtOf m.ty) (if k < elemDepth (elemCode [] m.ty 0)
          then roundF (num (old m.a l (m.var * elemDepth (elemCode [] m.ty 0) + k))) (fmtOf m.ty) .rn
            (m.ty = .f8e4 || m.ty = .f8e5) % 2 ^ 32
          else 0), bElem g m.map k j)))
      (num (old m.d l j)) .rn))
  ∧ (m.kind = .mmab → m.latchAfter false g w = filled (m.operand g w))
  ∧ (m.kind = .mlda → rows w.latch (fun l j => roundF (dec (fmtOf m.ty)
      (ofBytes ((List.range (tySize m.ty)).map (fun i => g.shared.read ((look 0 m.args l).toNat + j * tySize m.ty + i))))) .f32 .rn false))
  ∧ (m.kind = .maddt → rows w.latch (fun l j => dotRound [(num (old m.a l j), .one)]
      (if m.var < 8 then num (old m.b l j) else (num (old m.b l j)).negate) mode))
  ∧ (m.kind = .mscl → rows w.latch (fun l j => mulTo .f32 (num (old m.a l j)) (num (look 0 m.args (if m.var < 8 then l else j)).toNat) mode))

/-- R141, R160, R161, R164: MRELA releases the tiles of its mask, which read as zero from then on, MEMIT writes rounded columns of a tile
to the registers that its group still holds, and MSTA stores rounded rows to shared memory, the highest lane last. -/
def Obligations.TilesLeave : Prop := ∀ (g : Group) (wid : Nat) (w : Wave) (m : MatCmd) (mask : Mask), g.wave? wid = some w →
  let g' := g.engine wid m mask false [] []
  let mode := modeOf (BitVec.ofNat 4 m.var)
  let out := fun (t l j : Nat) (sat : Bool) => roundF (dec .f32 (g.tile w.core t l j)) (fmtOf m.ty) mode sat
  (m.kind = .mrela →
    (∀ core t l j, t < 32 → l < 64 → j < 64 → g'.tile core t l j =
      if core = w.core ∧ (look 0 m.args 0).getLsbD t = true then 0 else g.tile core t l j)
    ∧ (∀ core t, t < 32 → (core * 32 + t ∈ g'.inUse ↔
      core * 32 + t ∈ g.inUse ∧ ¬(core = w.core ∧ (look 0 m.args 0).getLsbD t = true)))
    ∧ g' = { g with
        tiles := g'.tiles
        inUse := g'.inUse
        badTiles := g'.badTiles
        waves := g'.waves })
  ∧ (m.kind = .memit → ∃ w', g'.wave? wid = some w' ∧ g' = { g with waves := g'.waves }
      ∧ ∀ r l, l < 64 → w'.v? r l = if g.cur.v ≤ r then 0 else
          if m.d ≤ r ∧ r < m.d + (if m.ty = .f32 then emitCols m.var else emitCols m.var / 2) ∧ mask.getLsbD l = true
          then word (if m.ty = .f32 then out m.a l (m.col + (r - m.d)) false
            else out m.a l (m.col + 2 * (r - m.d)) false + 2 ^ 16 * out m.a l (m.col + 2 * (r - m.d) + 1) false)
          else w.v? r l)
  ∧ (m.kind = .msta →
      let n := tySize m.ty
      (∀ a, g'.shared.read a = (lanesOf mask).foldl (fun b l =>
        let base := (look 0 m.args l).toNat
        if base ≤ a ∧ a < base + 64 * n
        then BitVec.ofNat 8 (out m.b l ((a - base) / n) (m.var / 4 % 2 = 1) / 2 ^ (8 * ((a - base) % n))) else b) (g.shared.read a))
      ∧ g'.tiles = g.tiles ∧ g'.inUse = g.inUse ∧ g'.g = g.g)

/-! ### Objects -/

/-- The object word that an h register holds. -/
def objWordOf (c : Ctx) (o : Operand) : Word := match c.wave.h? (hIndex o) with
  | .obj x => x
  | _ => 0

/-- Whether an operand names an object of one of the types that an instruction takes, in a facet that its issuer may reach (R332). -/
def namesObject (c : Ctx) (o : Operand) (types : List Nat) : Prop :=
  c.wave.h? (hIndex o) = .obj (objWordOf c o) ∧ objType (objWordOf c o) ∈ types
    ∧ (c.firmware = true ∨ c.st.inPartition c.grp (objFacet (objWordOf c o)) = true)

/-- An instruction that calls the object engine: a command of class 6 where `ok` holds, and the divisible violation in a divisible task
(R336, R360). -/
def CallsEngine (i : Instr) (op : Nat) (f : Form) (d a b : Allow) (x : Option Allow) (ok : Ctx → Prop) (o : Ctx → Order) : Prop :=
  Submits i op f d a b x (fun c => c.divisible = false ∧ ok c) o
  ∧ Effects i op f d a b x (fun c => c.divisible = true) (Faults codeDiv)

/-- R330 to R347: the calls that create objects, and those on waves and ports, carry what they read at issue; a creating call gives its
handle in D. An operand that names no object of the right type is the illegal-operand fault. A wave that kills itself issues nothing
after its WKILL. -/
def Obligations.WaveAndPortCalls : Prop := ∀ f : Form,
  let h := handleReg f.c
  let hd := handleReg f.d
  let handle := some Allow.cmdHandle
  let sp := f.var.getLsbD 0
  let r := fun (slot : Nat) (o : Operand) (c : Ctx) (k : Nat) => c.wave.readS c.st.tick slot (sIndex o + k)
  let n := fun (slot : Nat) (o : Operand) (c : Ctx) (k : Nat) => (r slot o c k).toNat
  let x := fun (c : Ctx) => objWordOf c f.a
  let facet := fun (c : Ctx) => if f.b = .none then c.grp.facet else c.read 2 .n32 f.b 0
  let grants := fun (c : Ctx) => (List.range (min (n 2 f.b c 3) 4)).map (fun k => n 2 f.b c (4 + 2 * k) + n 2 f.b c (5 + 2 * k) * 2 ^ 32)
  let granted := fun (c : Ctx) => (∀ a ∈ grants c, c.st.grantable c.grp.ctx (BitVec.ofNat 64 a) = true) ∧ (grants c).Nodup
  let gva := fun (c : Ctx) => n 2 f.d c 2 + n 2 f.d c 3 * 2 ^ 32
  let room := fun (c : Ctx) => c.read 1 .n32 f.a 0
  let self := fun (c : Ctx) => c.grp.free.map FreeWave.handle = some (x c)
  let kill := fun (c : Ctx) => c.order 6 (.call (.wkill (x c) (if f.b = .none then 255 else c.read 2 .n32 f.b 0 % 256))) h true
  let buffer := fun (o : Operand) (write : Bool) (c : Ctx) => n 2 o c 1 ≤ 192 ∧ n 2 o c 1 % 4 = 0
    ∧ rangeCodes c.st c.grp sp write (n 2 o c 0) (n 2 o c 1) = []
  let wrong := fun (types : List Nat) (c : Ctx) => c.divisible = false ∧
    (c.wave.h? (hIndex f.a) = .null ∨ (c.wave.h? (hIndex f.a) = .obj (x c) ∧ ¬namesObject c f.a types))
  CallsEngine (.wspawn f) 0xB0 f .handle (.sblock 8 true) ((Allow.uni false).orNone) none
    (fun c => goodSpawn (r 1 f.a c) = true ∧ facet c < 64 ∧ (c.firmware = true ∨ c.st.inPartition c.grp (facet c) = true))
    (fun c => c.order 6 (.call (.wspawn (hIndex f.d) (facet c) ((List.range 8).map (r 1 f.a c)))) hd true)
  ∧ CallsEngine (.wkill f) 0xB1 f .unused .handle ((Allow.uni false).orNone) handle (fun c => namesObject c f.a [1] ∧ ¬self c) kill
  ∧ Effects (.wkill f) 0xB1 f .unused .handle ((Allow.uni false).orNone) handle
    (fun c => c.divisible = false ∧ namesObject c f.a [1] ∧ self c ∧ c.Takes (kill c))
    (fun s c t => ∃ g w, c.Left s t g w ∧ t = { s with groups := t.groups, facets := t.facets, tlb := t.tlb } ∧ s.sameFacets t
      ∧ g = { c.grp with waves := g.waves } ∧ w.sameButCmds { c.wave with dead := true } ∧ c.Regs [] g w ∧ c.Ordered (kill c) w)
  ∧ CallsEngine (.pnew f) 0xB2 f .handle (.uni false) .unused none (fun c => 1 ≤ room c ∧ room c ≤ 256)
    (fun c => c.order 6 (.call (.pnew (hIndex f.d) (room c))) hd)
  ∧ CallsEngine (.psend f) 0xB3 f .unused .handle (.sblock 12 true) handle
    (fun c => namesObject c f.a [2, 5] ∧ buffer f.b false c ∧ n 2 f.b c 3 ≤ 4 ∧ ∀ a ∈ grants c, a % 4096 = 0)
    (fun c => c.order 6 (.call (.psend (x c) sp (f.var.getLsbD 1) (n 2 f.b c 0) (n 2 f.b c 1) (r 2 f.b c 2)
      ((grants c).map (BitVec.ofNat 64)) none)) h true (@ite _ (granted c) (Classical.propDecidable _) 0 0x27#8))
  ∧ CallsEngine (.precv f) 0xB4 f (.sblock 8 true) .handle .unused handle
    (fun c => namesObject c f.a [2] ∧ buffer f.d true c ∧ gva c % 16384 = 0)
    (fun c => c.order 6 (.call (.precv (x c) sp (f.var.getLsbD 1) (n 2 f.d c 0) (n 2 f.d c 1) (BitVec.ofNat 64 (gva c)) (sIndex f.d))) h)
  ∧ Effects (.wkill f) 0xB1 f .unused .handle ((Allow.uni false).orNone) handle (wrong [1]) (Faults codeOperand)
  ∧ Effects (.psend f) 0xB3 f .unused .handle (.sblock 12 true) handle (wrong [2, 5]) (Faults codeOperand)
  ∧ Effects (.precv f) 0xB4 f (.sblock 8 true) .handle .unused handle (wrong [2]) (Faults codeOperand)
  ∧ Effects (.pnew f) 0xB2 f .handle (.uni false) .unused none (fun c => c.divisible = false ∧ (room c = 0 ∨ 256 < room c)) (Faults codeOperand)

/-- R351 to R358: the calls on wait sets, timers and names, and OFREE and OINFO. The name 0 is illegal, and a name is bound only on the
package that its peer number names. R352: WWAIT writes the lowest tag of a ready member; with none ready it writes all ones under .POLL
and parks the wave otherwise. A stale handle gives 0xFFFF_FFFE, and a set of another context the object fault. -/
def Obligations.SetTimerAndNameCalls : Prop :=
  (∀ f : Form,
    let h := handleReg f.c
    let hd := handleReg f.d
    let handle := some Allow.cmdHandle
    let x := fun (c : Ctx) => objWordOf c f.a
    let y := fun (c : Ctx) => objWordOf c f.b
    let member := fun (c : Ctx) => namesObject c f.a [3] ∧ namesObject c f.b [2, 4] ∧ objFacet (x c) = objFacet (y c)
    let a := fun (c : Ctx) => c.read 1 .n64 f.a 0
    let b := fun (c : Ctx) => c.read 2 .n64 f.b 0
    let here := fun (c : Ctx) => b c ≠ 0 ∧ (b c / 2 ^ 54 = 0 ∨ b c / 2 ^ 54 = c.st.peerId)
    let any := [1, 2, 3, 4, 5]
    CallsEngine (.snew f) 0xB5 f .handle .unused .unused none (fun _ => True) (fun c => c.order 6 (.call (.snew (hIndex f.d))) hd)
    ∧ CallsEngine (.sadd f) 0xB6 f .unused .handle .handle handle member
      (fun c => c.order 6 (.call (.sadd (x c) (y c) (f.imm.toNat / 2 ^ 12 % 2 ^ 16))) h)
    ∧ CallsEngine (.sdel f) 0xB7 f .unused .handle .handle handle member (fun c => c.order 6 (.call (.sdel (x c) (y c))) h)
    ∧ CallsEngine (.tnew f) 0xB9 f .handle .unused .unused none (fun _ => True) (fun c => c.order 6 (.call (.tnew (hIndex f.d))) hd)
    ∧ CallsEngine (.tarm f) 0xBA f .unused .handle .pair handle (fun c => namesObject c f.a [4])
      (fun c => c.order 6 (.call (.tarm (x c) (f.var.getLsbD 0) (BitVec.ofNat 64 (b c)))) h true)
    ∧ CallsEngine (.tdis f) 0xBB f .unused .handle .unused handle (fun c => namesObject c f.a [4]) (fun c => c.order 6 (.call (.tdis (x c))) h)
    ∧ CallsEngine (.olook f) 0xBC f .handle .pair .unused none (fun c => a c ≠ 0)
      (fun c => c.order 6 (.call (.olook (hIndex f.d) (BitVec.ofNat 64 (a c)))) hd)
    ∧ CallsEngine (.obind f) 0xBD f .unused .handle .pair handle (fun c => namesObject c f.a [2] ∧ here c)
      (fun c => c.order 6 (.call (.obind (x c) (BitVec.ofNat 64 (b c)) false)) h true)
    ∧ CallsEngine (.obindPub f) 0xBD f .unused .handle .pair handle (fun c => namesObject c f.a [2] ∧ here c)
      (fun c => c.order 6 (.call (.obind (x c) (BitVec.ofNat 64 (b c)) true)) h true)
    ∧ CallsEngine (.obindUnb f) 0xBD f .unused .unused .pair handle here
      (fun c => c.order 6 (.call (.ounb (BitVec.ofNat 64 (b c)))) h true)
    ∧ CallsEngine (.ofree f) 0xBE f .unused .handle .unused handle (fun c => namesObject c f.a any)
      (fun c => c.order 6 (.call (.ofree (x c))) h true)
    ∧ Submits (.oinfo f) 0xBF f (.reg false) .handle .unused handle (fun c => namesObject c f.a any)
      (fun c => c.order 6 (.call (.oinfo (x c) (f.var.toNat % 4) f.d)) h)
    ∧ Effects (.sadd f) 0xB6 f .unused .handle .handle handle
      (fun c => c.divisible = false ∧ namesObject c f.a [3] ∧ namesObject c f.b [2, 4] ∧ objFacet (x c) ≠ objFacet (y c)) (Faults codeOperand)
    ∧ Effects (.olook f) 0xBC f .handle .pair .unused none (fun c => c.divisible = false ∧ a c = 0) (Faults codeOperand)
    ∧ Effects (.obindUnb f) 0xBD f .unused .unused .pair handle (fun c => c.divisible = false ∧ ¬here c) (Faults codeOperand))
  ∧ (∀ f : Form, ∀ (i g ctx : Nat) (members : SMap Nat),
    let found := fun (c : Ctx) => namesObject c f.a [3] ∧ c.st.obj? (objWordOf c f.a) = some ⟨i, g, ctx, .waitSet members⟩
    let ready := fun (c : Ctx) (m : Nat × Nat) => m ∈ members ∧ c.st.memberReady (objFacet (objWordOf c f.a)) m.1 = true
    let wwait := Effects (.wwait f) 0xB8 f (.reg false) .handle .unused none
    (∀ m, wwait (fun c => found c ∧ ctx = c.grp.ctx ∧ ready c m ∧ ∀ m', ready c m' → m.2 ≤ m'.2) (Computes fun _ => [⟨f.d, false, fun _ => m.2⟩]))
    ∧ wwait (fun c => found c ∧ ctx = c.grp.ctx ∧ (∀ m, ¬ready c m) ∧ f.var.getLsbD 0 = true) (Computes fun _ => [⟨f.d, false, fun _ => 0xFFFFFFFF⟩])
    ∧ wwait (fun c => found c ∧ ctx = c.grp.ctx ∧ (∀ m, ¬ready c m) ∧ f.var.getLsbD 0 = false)
      (Adjusts fun c => { c.wave with park := .wwait (objWordOf c f.a) f.d c.act })
    ∧ wwait (fun c => found c ∧ ctx ≠ c.grp.ctx) (Faults codeObject)
    ∧ wwait (fun c => namesObject c f.a [3] ∧ c.st.obj? (objWordOf c f.a) = none) (Computes fun _ => [⟨f.d, false, fun _ => 0xFFFFFFFE⟩]))


/-! ### Named tiles and routes -/

/-- R362, R363, R374 to R379, R386: the tile instructions are commands of class 5 that carry the key of their name block; NHAVE is a
release, and in a divisible task it announces from scratchpad only and is held back. That a field outside its limits is the
illegal-operand fault whatever LOCAL holds is the model's choice: R375 gives the two checks no order (assumption 67); so is the illegal-use
fault of a divisible task whose source it may read and does not own, for which R386 names no outcome (assumption 75). -/
def Obligations.TileCommands : Prop := ∀ f : Form,
  let h := handleReg f.c
  let handle := some Allow.cmdHandle
  let sp := f.var.getLsbD 0
  let a := fun (c : Ctx) (k : Nat) => (c.wave.readS c.st.tick 1 (sIndex f.a + k)).toNat
  let b := fun (c : Ctx) (k : Nat) => (c.wave.readS c.st.tick 2 (sIndex f.b + k)).toNat
  let key := fun (c : Ctx) (len : Nat) => ({ nspace := (c.st.ctx? c.grp.ctx).elim 0 CtxDesc.nspace
                                             name := BitVec.ofNat 128 (a c 0 + a c 1 * 2 ^ 32 + a c 2 * 2 ^ 64 + a c 3 * 2 ^ 96)
                                             len := len } : TileKey)
  let long := fun (n : Nat) => 256 ≤ n ∧ n ≤ 65536 ∧ n % 256 = 0
  let good := fun (least : Nat) (write : Bool) (c : Ctx) => long (b c 1) ∧ least ≤ b c 2 ∧ b c 3 = 0 ∧ b c 0 % 64 = 0
    ∧ rangeCodes c.st c.grp sp write (b c 0) (b c 1) = []
  let len := fun (c : Ctx) => c.read 2 .n32 f.b 0
  let have_ := fun (c : Ctx) => c.order 5 (.nhave sp (key c (b c 1)) (b c 0) (b c 2)) h true
  Submits (.nwant f) 0xC0 f .unused .quad .quad handle (good 1 true)
    (fun c => c.order 5 (.nwant sp (key c (b c 1)) (b c 0) (b c 2)) h)
  ∧ Submits (.nhave f) 0xC1 f .unused .quad .quad handle (fun c => good 0 false c ∧ c.divisible = false) have_
  ∧ Effects (.nhave f) 0xC1 f .unused .quad .quad handle
    (fun c => sp = true ∧ c.divisible = true ∧ good 0 true c ∧ c.grp.deferUsed + 64 ≤ c.grp.deferCap ∧ c.Takes (have_ c))
    (HeldBack have_ (fun c => .announce c.grp.die true (key c (b c 1)) (b c 0) (b c 2)) (fun _ => 64))
  ∧ Exhausts (.nhave f) 0xC1 f .unused .quad .quad handle
    (fun c _ => sp = true ∧ c.divisible = true ∧ good 0 true c ∧ c.grp.deferCap < c.grp.deferUsed + 64 ∧ c.Takes (have_ c))
  ∧ Submits (.ndrop f) 0xC2 f .unused .quad (.uni false) handle (fun c => long (len c)) (fun c => c.order 5 (.ndrop (key c (len c))) h)
  ∧ Submits (.npeek f) 0xC3 f (.reg false) .quad (.uni false) handle (fun c => long (len c))
    (fun c => c.order 5 (.npeek (key c (len c)) f.d) h)
  ∧ Effects (.nwant f) 0xC0 f .unused .quad .quad handle (fun c => ¬(long (b c 1) ∧ 1 ≤ b c 2 ∧ b c 3 = 0)) (Faults codeOperand)
  ∧ Effects (.nhave f) 0xC1 f .unused .quad .quad handle (fun c => ¬(long (b c 1) ∧ b c 3 = 0)) (Faults codeOperand)
  ∧ Effects (.nwant f) 0xC0 f .unused .quad .quad handle (fun c => long (b c 1) ∧ 1 ≤ b c 2 ∧ b c 3 = 0 ∧ b c 0 % 64 ≠ 0) (Faults codeAlign)
  ∧ Effects (.nhave f) 0xC1 f .unused .quad .quad handle (fun c => sp = false ∧ c.divisible = true ∧ good 0 false c) (Faults codeDiv)
  ∧ Effects (.nhave f) 0xC1 f .unused .quad .quad handle
    (fun c => sp = true ∧ c.divisible = true ∧ good 0 false c ∧ rangeCodes c.st c.grp sp true (b c 0) (b c 1) ≠ []) (Faults codeUse)
  ∧ Effects (.ndrop f) 0xC2 f .unused .quad (.uni false) handle (fun c => ¬long (len c)) (Faults codeOperand)
  ∧ Effects (.npeek f) 0xC3 f (.reg false) .quad (.uni false) handle (fun c => ¬long (len c)) (Faults codeOperand)

/-- R380: NROUTE edits one router's table: ADD replaces the route of its space, prefix and length or appends while there are fewer than
1024, DEL takes that route out, and CLR takes out every route of a space. From other code it is the privilege fault. -/
def Obligations.RouteTables : Prop := ∀ f : Form,
  let b := fun (c : Ctx) => c.routeBlock
  let rs := fun (c : Ctx) => (c.st.router (b c).router).routes
  let same := fun (c : Ctx) (x : Route) => (b c).route.space = x.space && (b c).route.prefx = x.prefx && (b c).route.length = x.length
  let good := fun (c : Ctx) => c.firmware = true ∧ (b c).ok = true ∧ (b c).router < c.st.routers.length
  let face := fun (c : Ctx) => faceExists (b c).router (b c).route.face = true ∧ ¬((b c).router < 16 ∧ (b c).route.face < 4)
  let edit := fun (i : Instr) (ok : Ctx → Prop) (new : Ctx → List Route) (r : Ctx → Bool) =>
    Effects i 0xC4 f .pred .quad .unused none (fun c => good c ∧ ok c) (fun s c t =>
      Computes (fun c => [⟨f.d, false, fun _ => bitNat (r c)⟩]) s c { t with routers := s.routers }
      ∧ t.routers = s.routers.set (b c).router { s.router (b c).router with routes := new c })
    ∧ Effects i 0xC4 f .pred .quad .unused none (fun c => c.firmware = false) (Faults codePriv)
    ∧ Effects i 0xC4 f .pred .quad .unused none (fun c => c.firmware = true ∧ (b c).ok = false) (Faults codeOperand)
  edit (.nrouteAdd f) (fun c => face c ∧ (rs c).any (same c) = true) (fun c => (rs c).map (fun x => if same c x then (b c).route else x)) (fun _ => true)
  ∧ edit (.nrouteAdd f) (fun c => face c ∧ (rs c).any (same c) = false ∧ (rs c).length < 1024) (fun c => rs c ++ [(b c).route]) (fun _ => true)
  ∧ edit (.nrouteAdd f) (fun c => face c ∧ (rs c).any (same c) = false ∧ 1024 ≤ (rs c).length) rs (fun _ => false)
  ∧ edit (.nrouteDel f) (fun _ => True) (fun c => (rs c).filter (fun x => !same c x)) (fun c => (rs c).any (same c))
  ∧ edit (.nrouteClr f) (fun c => (b c).route.prefx = 0 ∧ (b c).route.length = 0 ∧ (b c).route.face = 0)
    (fun c => (rs c).filter (fun x => x.space ≠ (b c).route.space)) (fun _ => true)

/-! ### Traps and returns -/

/-- The issuing wave's launch or free wave ends with a code at its PC (R412, R413, R343); no memory changes but for
what lands in the scratchpad as a free wave ends. -/
def EndsWith (code : Code) (s : State) (c : Ctx) (t : State) : Prop :=
  (∀ l, c.grp.launch = some l → t.faults = s.faults ++ [⟨l, code, c.path.pc, c.grp.ctx, s.edges, c.grp.facet, c.wave.core, c.wave.slot⟩]
    ∧ ∃ g w, t.group? c.grp.id = some g ∧ g.wave? c.wave.id = some w ∧ w.dead = true)
  ∧ (c.grp.launch = none → c.grp.stat ≠ .exited → ∃ g, t.group? c.grp.id = some g ∧ g.stat = .exited
      ∧ g.free = c.grp.free.map (fun x => { x with
          code := code
          faultPc := c.path.pc }))
  ∧ c.MemoryKept s t

/-- R408, R411, R413, R418, R419: TRAP takes its active lanes to the handler; with no handler, or with four frames on the stack, it ends
its launch; once a fault of the launch has arrived it is discarded: its wave enters no handler and issues nothing more. An RTT waits in
its sub-wave for the other lanes of its frame, and is illegal in the main frontier. -/
def Obligations.TrapsAndReturns : Prop := ∀ f : Form,
  let rtt := fun (i : Instr) (n : Nat) => ∀ s c, s.issued 0xD1 f .unused .unused .unused = some c →
    (c.path.fr ≠ 0 → ∃ t, exec i s = .next (t.settle c.grp.id) ∧ Stands (.rtt n) s c t)
    ∧ (c.path.fr = 0 → ∃ t, exec i s = .next (t.settle c.grp.id) ∧ Faults codeInstr s c t)
  let trap := Effects (.trap f) 0xD0 f .unused .unused .unused none
  trap (fun c => c.st.ending c.grp = false ∧ c.wave.frames.length < 4 ∧ c.wave.trapVec ≠ 0)
    (Trapped fun c => { lanes := c.act, code := codeTrap, pc := c.path.pc, rpc := c.path.pc + 12, info := BitVec.ofNat 64 (f.imm.toNat % 2 ^ 16) })
  ∧ trap (fun c => c.st.ending c.grp = false ∧ c.wave.frames.length < 4 ∧ c.wave.trapVec = 0) (EndsWith codeTrap)
  ∧ trap (fun c => c.st.ending c.grp = false ∧ 4 ≤ c.wave.frames.length) (EndsWith codeOverflow)
  ∧ trap (fun c => c.st.ending c.grp = true) (Adjusts fun c => { c.wave with dead := true })
  ∧ rtt (.rtt f) 0 ∧ rtt (.rttRpl f) 1 ∧ rtt (.rttEsc f) 2

/-- R410, R415, R419, R442: once every lane of a frame stands at an RTT the frame is popped, its lanes go on at the return PC with the return
priority in the frontier that it was pushed from, and everything else of the machine stays; RTT.RPL of a frame that reports no command, and
RTT.ESC of one that is no page request, are the illegal-operand fault. RTT.ESC of a page request makes the frame wait and sends a message
to the die's escalation port; besides, the firmware core may post it to the host's ring, which is free (assumption 2), or holds it
while it changes images. An RTT.RPL waits for room for its command, by a definition of the model's own (assumption 96). -/
def Obligations.TrapReturn : Prop := ∀ (s : State) (gid wid : Nat) (g : Group) (w : Wave) (f : Frame),
  s.group? gid = some g → g.wave? wid = some w → w.dead = false → w.frames.find? (s.mayReturn g w) = some f →
  let at_ := fun (n : Nat) (p : Path) => p ∈ w.paths ∧ p.fr = f.id ∧ p.wait = .rtt n
  let faulted := fun (t : State) => ∃ p n, (at_ 1 p ∨ at_ 2 p) ∧ t = s.raiseFault gid wid codeOperand n
  let only := fun (u s t : State) => t = u ∧ (∀ k, k ≠ gid → t.group? k = s.group? k)
    ∧ ∃ g', t.group? gid = some g' ∧ g' = { g with waves := g'.waves } ∧ ∀ k, k ≠ wid → g'.wave? k = g.wave? k
  ((∀ p, ¬at_ 1 p ∧ ¬at_ 2 p) → ∃ t w', s.settleOnce gid wid = some t ∧ (t.group? gid).bind (fun g => g.wave? wid) = some w'
    ∧ only { s with groups := t.groups } s t
    ∧ w'.frames = w.frames.filter (fun x => x.id ≠ f.id)
    ∧ (∀ l, f.mask.getLsbD l = true → w.exited.getLsbD l = false → w'.standsWith f.parent l f.rpc f.prio)
    ∧ (∀ p ∈ w.paths, p.fr ≠ f.id → w'.stands p.fr p.mask p.pc)
    ∧ (∀ p ∈ w'.paths, p.fr = f.id → f.parent = f.id)
    ∧ w'.sameBut { w with
        frames := w'.frames
        nextId := w'.nextId }
    ∧ (w'.v, w'.s, w'.p) = (w.v, w.s, w.p))
  ∧ ((∃ p, at_ 1 p) → (∀ p, ¬at_ 2 p) → f.cmd = none → ∃ t, s.settleOnce gid wid = some t ∧ faulted t)
  ∧ ((∃ p, at_ 2 p) → f.code ≠ codePage → ∃ t, s.settleOnce gid wid = some t ∧ faulted t)
  ∧ ((∃ p, at_ 2 p) → f.code = codePage → ∃ t w', s.settleOnce gid wid = some t
      ∧ (t.group? gid).bind (fun g => g.wave? wid) = some w'
      ∧ w' = { w with frames := w.frames.map (fun x => if x.id = f.id then { x with esc := true } else x) }
      ∧ (∃ e, t.esc = s.esc ++ [e] ∧ e.addr = f.info ∧ e.pc = f.pc ∧ e.facet = g.facet ∧ e.die = g.facet / 4 ∧ e.kind = 0 ∧ e.code = codePage
        ∧ (s.host.fwNext = none → (t.host, t.mem, t.irqs) = (s.host, s.mem, s.irqs) ∨ (s.host.prSize ≠ 0
            ∧ t.host = { s.host with prTail := s.host.prTail + 1 } ∧ t.irqs = s.irqs ++ [s.host.prVec]
            ∧ (∀ a, a < 2 ^ 48 → t.mem.read a = s.mem.read a)))
        ∧ (s.host.fwNext ≠ none → (t.mem, t.irqs) = (s.mem, s.irqs) ∧ t.host = { s.host with fwHeld := s.host.fwHeld ++ [e] }))
      ∧ only { s with groups := t.groups, esc := t.esc, host := t.host, mem := t.mem, irqs := t.irqs } s t)

/-- R317, R420: MPOINT stops the wave as YIELD does, and puts a release of the tiles that it does not keep into the matrix queue of every
core of its group: where a core's queue is empty it takes effect at once, and behind a command it waits. That it enters every queue at once
is the model's choice (assumption 95). -/
def Obligations.MatrixPoints : Prop := ∀ f : Form,
  let keep := fun (c : Ctx) => c.read 1 .n32 f.a 0
  let asked := fun (c : Ctx) => ∃ p, c.grp.preempt = some p ∧ p.forced = false ∧ (c.st.facet c.grp.facet).ref.toNat ≤ p.deadline.toNat
  let mine := fun (c : Ctx) (core : Nat) (e : MatEntry) => match e with
    | .cmd facet core' _ _ _ => facet = c.grp.facet ∧ core' = core
    | .mpoint facet core' _ _ _ => facet = c.grp.facet ∧ core' = core
  let post := fun (released : Ctx → Nat → Prop) (queue : State → Ctx → List MatEntry) (s : State) (c : Ctx) (t : State) =>
    ∃ g w, c.Left s t g w ∧ t = { s with groups := t.groups, facets := t.facets, matq := t.matq } ∧ s.sameFacets t
      ∧ g = { c.grp with
          waves := g.waves
          tiles := g.tiles
          inUse := g.inUse
          badTiles := g.badTiles
          points := g.points
          faint := g.faint }
      ∧ w.sameBut { c.wave with park := w.park } ∧ (asked c → w.park = .stopped) ∧ (¬asked c → w.park = .no)
      ∧ c.Regs [] g w ∧ c.Advanced w ∧ t.matq = queue s c
      ∧ ∀ core k i j, k < 32 → i < 64 → j < 64 →
          (released c core ∧ (keep c).testBit k = false → g.tile core k i j = 0)
          ∧ (¬(released c core ∧ (keep c).testBit k = false) → g.tile core k i j = c.grp.tile core k i j)
  let point := Effects (.mpoint f) 0xD2 f .unused (.uni false) .unused none
  point (fun c => keep c < 2 ^ c.grp.cur.t ∧ c.grp.cur.t ≤ 32 ∧ ∀ core ∈ c.grp.cores, ∀ e ∈ c.st.matq, ¬mine c core e)
    (post (fun c core => core ∈ c.grp.cores) (fun s _ => s.matq))
  ∧ (∀ core gid wid seq rest, point (fun c => keep c < 2 ^ c.grp.cur.t ∧ c.grp.cur.t ≤ 32 ∧ (∀ x, x ∈ c.grp.cores ↔ x = core)
      ∧ matHead c.grp.facet core c.st.matq = some (.cmd c.grp.facet core gid wid seq, rest)
      ∧ c.st.laterEntry c.grp c.wave (.cmd c.grp.facet core gid wid seq) = false)
    (post (fun _ _ => False) (fun s c => insertMat (s.laterEntry c.grp c.wave)
      (.mpoint c.grp.facet core c.grp.id (word (keep c)) c.st.tick) s.matq)))
  ∧ point (fun c => 2 ^ c.grp.cur.t ≤ keep c) (Faults codeOperand)

/-! ### System registers, counters and privileged instructions -/


/-- R39, R421: SYSR reads the register that A names, or the one whose index A holds; an index that is in no table, one that only
privileged code may read, and a 32-bit register read as 64 bits are the illegal-operand fault. R25, R35, R38, R416: what each register
reads as; the trap registers read the frame of the issuing sub-wave, and 0 in the main frontier. TRAP_DEPTH is the number of frames from
that one down its parents (assumption 93), and ESCPORT names the escalation port of the die, at the index that the model gives it
(assumption 8). RESUME and PREEMPT read as a free value (assumption 5), and CORE_ID and the banks of a firmware core as the model has them
(assumption 65). -/
def Obligations.SystemReads : Prop :=
  (∀ f : Form,
    let w := wideTy f.ty
    let n := tyWidth f.ty
    let sysr := Effects (.sysr f) 0xD3 f (.reg w) { s := true, g := true, imm := true, long := true, sys := 2 } .unused none
    let width := fun (i : Nat) => if i ≤ 0x008 ∨ 0x010 ≤ i ∧ i ≤ 0x013 ∨ 0x020 ≤ i ∧ i ≤ 0x023 ∨ i = 0x028 ∨ i = 0x029 ∨ i = 0x031
        ∨ i = 0x032 ∨ i = 0x037 ∨ i = 0x102 then 32
      else if i = 0x018 ∨ i = 0x030 ∨ 0x033 ≤ i ∧ i ≤ 0x036 ∨ i = 0x100 ∨ i = 0x101 then 64 else 0
    let legal := fun (c : Ctx) (i : Nat) => width i ≠ 0 ∧ (n = 64 → width i = 64) ∧ (0x100 ≤ i → c.firmware = true)
    let value := fun (i : Ctx → Nat) => Computes fun c => [⟨f.d, w, fun l => c.sysValue (i c) l % 2 ^ n⟩]
    (∀ i, f.a = .sys i → sysr (fun c => legal c i.toNat) (value fun _ => i.toNat) ∧ sysr (fun c => ¬legal c i.toNat) (Faults codeOperand))
    ∧ ((∀ i, f.a ≠ .sys i) → sysr (fun c => legal c (c.read 1 .n32 f.a 0)) (value fun c => c.read 1 .n32 f.a 0)
        ∧ sysr (fun c => ¬legal c (c.read 1 .n32 f.a 0)) (Faults codeOperand)))
  ∧ (∀ (c : Ctx) (l : Nat),
    let t := 64 * c.wave.id + l
    let x := c.grp.shape.1
    let y := c.grp.shape.2.1
    let fac := c.st.facet c.grp.facet
    let banks := popCount 32 (fac.vbanks.getD c.wave.core (BitVec.allOnes 32)).toNat
    let reads := fun (i n : Nat) => c.sysValue i l = n
    reads 0x000 l ∧ reads 0x001 c.wave.id ∧ reads 0x002 c.grp.waves.length ∧ reads 0x003 t
    ∧ reads 0x004 (t % x) ∧ reads 0x005 (t / x % y) ∧ reads 0x006 (t / (x * y))
    ∧ reads 0x007 (y - 1 + (x - 1) * 2 ^ 13) ∧ reads 0x008 (c.grp.shape.2.2 - 1)
    ∧ reads 0x010 c.wave.core ∧ reads 0x011 c.grp.facet ∧ reads 0x012 (c.grp.facet / 4) ∧ reads 0x013 c.st.peerId
    ∧ reads 0x018 fac.ref.toNat
    ∧ reads 0x020 (64 * banks + 2 ^ 16 * banks) ∧ reads 0x021 (fac.vbanks.getD c.wave.core (BitVec.allOnes 32)).toNat
    ∧ reads 0x022 (popCount 8 fac.cores.toNat) ∧ reads 0x023 fac.spadUnits
    ∧ reads 0x028 (c.grp.cur.v + 2 ^ 9 * c.grp.cur.s + 2 ^ 18 * c.grp.cur.t + 2 ^ 24 * bitNat (c.grp.cur = c.grp.full))
    ∧ reads 0x029 (c.grp.cur.sh / 256) ∧ reads 0x030 c.wave.trapVec.toNat
    ∧ reads 0x102 (c.grp.facet / 4 * 4 % 64 * 2 ^ 26 + 2 * 2 ^ 23 + 0xFFF00 * 8)
    ∧ (∀ (f : Frame) (fs : List Frame), fs.length < 4 → c.wave.frame? c.path.fr = some f →
        (f :: fs).IsChain (fun a b => c.wave.frame? a.parent = some b) →
        ((f :: fs).getLast?.bind (fun x => c.wave.frame? x.parent)) = none → reads 0x031 (fs.length + 1))
    ∧ (c.wave.frame? c.path.fr = none → reads 0x031 0 ∧ reads 0x032 0 ∧ reads 0x033 0 ∧ reads 0x034 0 ∧ reads 0x035 0 ∧ reads 0x036 0
        ∧ reads 0x037 0)
    ∧ ∀ f, c.wave.frame? c.path.fr = some f →
        reads 0x032 (f.code.toNat + 2 ^ 16 * f.status.toNat + match f.cmd with
          | none => 0
          | some k => 2 ^ 26 * k.1 + 2 ^ 29)
        ∧ reads 0x033 f.pc.toNat ∧ reads 0x034 f.rpc.toNat ∧ reads 0x035 f.info.toNat ∧ reads 0x036 f.mask.toNat ∧ reads 0x037 f.prio.toNat)

/-- R415, R416, R421, R423: SYSW writes TRAP_VEC, and in a sub-wave TRAP_RPC and TRAP_PRIO; privileged code writes RESUME and PREEMPT,
which do nothing where their token or slot names nothing. A register that the code may not write, another width and a value outside the
limits are the illegal-operand fault; a PREEMPT value with a bit set that must be zero is the illegal-use fault, which the model takes
from R6 (assumption 75). -/
def Obligations.SystemWrites : Prop := ∀ f : Form,
  let n := tyWidth f.ty
  let v := fun (c : Ctx) => c.read 1 f.ty f.a 0
  let sysw := Effects (.sysw f) 0xD4 f { sys := 3 } (.uni (wideTy f.ty)) .unused none
  let good := fun (c : Ctx) => v c < 2 ^ 56 ∧ v c % 4 = 0
  let frames := fun (c : Ctx) (u : Frame → Frame) => { c.wave with
    frames := c.wave.frames.map (fun x => if x.id = c.path.fr then u x else x) }
  let may := fun (c : Ctx) (i : Nat) => (i = 0x030 ∧ n = 64) ∨ (i = 0x034 ∧ c.path.fr ≠ 0 ∧ n = 64) ∨ (i = 0x037 ∧ c.path.fr ≠ 0 ∧ n = 32)
    ∨ ((i = 0x100 ∨ i = 0x101) ∧ c.firmware = true ∧ n = 64)
  ∀ i, f.d = .sys i →
    sysw (fun c => ¬may c i.toNat) (Faults codeOperand)
    ∧ (i = 0x030 → n = 64 → sysw good (Adjusts fun c => { c.wave with trapVec := BitVec.ofNat 64 (v c) })
        ∧ sysw (fun c => ¬good c) (Faults codeOperand))
    ∧ (i = 0x034 → n = 64 → sysw (fun c => c.path.fr ≠ 0 ∧ good c)
          (Adjusts fun c => frames c (fun x => { x with rpc := BitVec.ofNat 64 (v c) }))
        ∧ sysw (fun c => c.path.fr ≠ 0 ∧ ¬good c) (Faults codeOperand))
    ∧ (i = 0x037 → n = 32 → sysw (fun c => c.path.fr ≠ 0 ∧ v c < 4096)
          (Adjusts fun c => frames c (fun x => { x with prio := BitVec.ofNat 12 (v c) }))
        ∧ sysw (fun c => c.path.fr ≠ 0 ∧ 4096 ≤ v c) (Faults codeOperand))
    ∧ (i = 0x100 → n = 64 → sysw (fun c => c.firmware = true ∧ v c % 4 < 2 ∧ c.st.waitingFrame (v c / 4) = none) (Computes fun _ => [])
        ∧ sysw (fun c => c.firmware = true ∧ 2 ≤ v c % 4) (Faults codeOperand))
    ∧ (i = 0x101 → n = 64 → sysw (fun c => c.firmware = true ∧ preemptClean (v c) = true
          ∧ ∀ g ∈ c.st.groups, g.facet = v c / 2 ^ 24 % 64 → g.stat = .resident →
              ∀ w ∈ g.waves, ¬(w.core = v c / 2 ^ 16 % 8 ∧ w.slot = v c % 64)) (Computes fun _ => [])
        ∧ sysw (fun c => c.firmware = true ∧ preemptClean (v c) = false) (Faults codeUse))

/-- R397 to R402, R422: a bank is claimed, freed and programmed by its owner, and read by it; CNTR.CLR clears the counter it reads.
Counter 0 also counts the issue itself (R398). That an operand out of range is the illegal-operand fault, whoever owns the bank, is the
model's choice for CNTR, MONCTL.SET and MONCTL.READ: no rule gives the two checks an order (assumption 67). -/
def Obligations.CountersAndCapture : Prop := ∀ f : Form,
  let bank := fun (c : Ctx) (s : State) => (s.facet c.grp.facet).bank
  let mine := fun (c : Ctx) => (bank c c.st).owner = some c.grp.ctx
  let there := fun (c : Ctx) => c.grp.facet < c.st.facets.length
  let u := fun (c : Ctx) => c.read 1 .n32 f.a 0
  let k := fun (c : Ctx) => c.read 2 .n32 f.b 0
  let changes := fun (ws : Ctx → List Write) (owner : Ctx → Option Nat) (counters : Ctx → Nat → DWord) (units : Ctx → List Unit4)
      (s : State) (c : Ctx) (t : State) =>
    Computes ws s c { t with facets := s.facets } ∧ (bank c t).owner = owner c ∧ (bank c t).units = units c
      ∧ (∀ i, i ≠ 0 → look 0 (bank c t).counters i = counters c i)
      ∧ t.facets = s.facets.set c.grp.facet { s.facet c.grp.facet with bank := bank c t }
  let held := fun (c : Ctx) (i : Nat) => look 0 (bank c c.st).counters i
  let cleared := List.replicate 4 Unit4.clear
  let may := fun (c : Ctx) => mine c ∨ ((bank c c.st).owner = none ∧ c.firmware = true)
  let unit := fun (c : Ctx) => (bank c c.st).units.getD (u c) Unit4.clear
  let word32 := fun (x : DWord) (high : Bool) => if high then x.toNat / 2 ^ 32 else x.toNat % 2 ^ 32
  let cntr := Effects (.cntr f) 0xD5 f (.reg true) (.uni false) .unused none
  let claim := Effects (.monctlClaim f) 0xD6 f (Allow.pred.orNone) .unused .unused none
  let free := Effects (.monctlFree f) 0xD6 f .unused .unused .unused none
  let set := Effects (.monctlSet f) 0xD6 f .unused (.uni false) (.uni false) none
  let read := Effects (.monctlRead f) 0xD6 f (.reg false) (.uni false) (.uni false) none
  cntr (fun c => u c ≤ 11 ∧ may c ∧ there c)
    (changes (fun c => [⟨f.d, true, fun _ => (held c (u c)).toNat⟩]) (fun c => (bank c c.st).owner)
      (fun c i => if f.var = 1#4 ∧ i = u c then 0 else held c i) (fun c => (bank c c.st).units))
  ∧ cntr (fun c => 11 < u c) (Faults codeOperand) ∧ cntr (fun c => u c ≤ 11 ∧ ¬may c) (Faults codePriv)
  ∧ claim (fun c => ((bank c c.st).owner = none ∨ mine c) ∧ there c)
    (changes (fun _ => [⟨f.d, false, fun _ => 1⟩]) (fun c => some c.grp.ctx) (fun _ _ => 0) (fun _ => cleared))
  ∧ claim (fun c => ¬((bank c c.st).owner = none ∨ mine c)) (Computes fun _ => [⟨f.d, false, fun _ => 0⟩])
  ∧ free (fun c => mine c ∧ there c) (changes (fun _ => []) (fun _ => none) (fun _ _ => 0) (fun _ => cleared))
  ∧ free (fun c => ¬mine c) (Faults codePriv)
  ∧ set (fun c => u c ≤ 3 ∧ k c ≤ 7 ∧ mine c ∧ there c)
    (changes (fun _ => []) (fun c => some c.grp.ctx) held (fun c => (bank c c.st).units.set (u c) { Unit4.clear with code := k c }))
  ∧ set (fun c => 3 < u c ∨ 7 < k c) (Faults codeOperand) ∧ set (fun c => u c ≤ 3 ∧ k c ≤ 7 ∧ ¬mine c) (Faults codePriv)
  ∧ read (fun c => u c ≤ 3 ∧ may c ∧ (k c ≤ 5 ∨ (8 ≤ k c ∧ k c ≤ 71))) (Computes fun c => [⟨f.d, false, fun _ =>
      if k c ≤ 1 then word32 (unit c).min (k c = 1) else if k c ≤ 3 then word32 (unit c).max (k c = 3)
      else if k c ≤ 5 then word32 (unit c).count (k c = 5) else (look 0 (unit c).bins (k c - 8)).toNat⟩])
  ∧ read (fun c => 3 < u c ∨ k c = 6 ∨ k c = 7 ∨ 71 < k c) (Faults codeOperand)
  ∧ read (fun c => u c ≤ 3 ∧ (k c ≤ 5 ∨ (8 ≤ k c ∧ k c ≤ 71)) ∧ ¬may c) (Faults codePriv)

/-- R237, R394, R395: TLBINV removes the translations it names and waits while a command that is not performed has one of them pinned;
KEYSEL binds a free slot and context, or erases a slot's binding. From other code each is the privilege fault, whatever B holds, which is
the model's order of the two checks (assumption 67). That a TLBINV that waits has dropped its entries already is the model's choice
(assumption 29). -/
def Obligations.TranslationsAndKeys : Prop := ∀ f : Form,
  let a := fun (c : Ctx) => c.read 1 .n32 f.a 0
  let b := fun (c : Ctx) => c.read 2 .n32 f.b 0
  let va := fun (c : Ctx) => c.read 1 .n64 f.a 0
  let fw := fun (c : Ctx) => c.firmware = true
  let pinnedBy := fun (names : Ctx → Nat → Nat → Nat → Bool) (c : Ctx) => ∃ g ∈ c.st.groups, ∃ w ∈ g.waves, ∃ k ∈ w.cmds,
    k.done = false ∧ ∃ p ∈ k.pins, names c g.ctx p.vpage p.span = true
  let inv := fun (i : Instr) (x y : Allow) (ok : Ctx → Prop) (names : Ctx → Nat → Nat → Nat → Bool) =>
    Effects i 0xD7 f .unused x y none (fun c => fw c ∧ ok c ∧ ¬pinnedBy names c) (fun s c t =>
      Computes (fun _ => []) s c { t with tlb := s.tlb } ∧ t.tlb = s.tlb.filter (fun e => !names c e.ctx e.vpage e.span))
    ∧ Effects i 0xD7 f .unused x y none (fun c => fw c ∧ ok c ∧ pinnedBy names c) (fun s c t =>
      Waits s c { t with tlb := s.tlb } ∧ t.tlb = s.tlb.filter (fun e => !names c e.ctx e.vpage e.span))
    ∧ Effects i 0xD7 f .unused x y none (fun c => ¬fw c) (Faults codePriv)
    ∧ Effects i 0xD7 f .unused x y none (fun c => fw c ∧ ¬ok c) (Faults codeOperand)
  let gen := Effects (.keyselGen f) 0xD8 f (Allow.pred.orNone) (.uni false) (.uni false) none
  let del := Effects (.keyselDel f) 0xD8 f (Allow.pred.orNone) (.uni false) .unused none
  let slot := fun (c : Ctx) => 1 ≤ a c ∧ a c ≤ 1023
  let taken := fun (c : Ctx) => ∃ k ∈ c.st.keys, k.1 = a c ∨ k.2 = b c
  let ctx := fun (c : Ctx) => 1 ≤ b c ∧ b c ≤ 65535
  inv (.tlbinvVa f) .pair (.uni false) (fun c => b c < 2 ^ 16)
    (fun c ctx page span => ctx = b c && page / span = va c / 4096 / span)
  ∧ inv (.tlbinvCtx f) .unused (.uni false) (fun c => b c < 2 ^ 16) (fun c ctx _ _ => ctx = b c)
  ∧ inv (.tlbinvAll f) .unused .unused (fun _ => True) (fun _ _ _ _ => true)
  ∧ gen (fun c => fw c ∧ slot c ∧ ctx c ∧ ¬taken c) (fun s c t =>
      Computes (fun _ => [⟨f.d, false, fun _ => 1⟩]) s c { t with keys := s.keys } ∧ t.keys = s.keys ++ [(a c, b c)])
  ∧ gen (fun c => fw c ∧ slot c ∧ ctx c ∧ taken c) (Computes fun _ => [⟨f.d, false, fun _ => 0⟩])
  ∧ gen (fun c => fw c ∧ ¬(slot c ∧ ctx c)) (Faults codeOperand) ∧ gen (fun c => ¬fw c) (Faults codePriv)
  ∧ (∀ x, x < 2 ^ 16 → del (fun c => fw c ∧ slot c ∧ c.st.keys.find? (fun y => y.1 = a c) = some (a c, x)
        ∧ ∀ g ∈ c.st.groups, ∀ w ∈ g.waves, ∀ k ∈ w.cmds, k.done = true ∨ ∀ p ∈ k.pins, p.owner ≠ x) (fun s c t =>
      Computes (fun _ => [⟨f.d, false, fun _ => 1⟩]) s c { t with
        keys := s.keys
        keyed := s.keyed
        nextId := s.nextId }
      ∧ t.keys = s.keys.filter (fun y => y.1 ≠ a c)
      ∧ ∀ sec, look 0 s.keyed sec = x + 1 → look 0 t.keyed sec ≠ x + 1))
  ∧ del (fun c => fw c ∧ slot c ∧ ∀ y ∈ c.st.keys, y.1 ≠ a c) (Computes fun _ => [⟨f.d, false, fun _ => 0⟩])
  ∧ del (fun c => fw c ∧ ¬slot c) (Faults codeOperand) ∧ del (fun c => ¬fw c) (Faults codePriv)

/-! ### Device events: queues and launches -/

/-- A packet of a type stands at READ of a queue that a facet serves, in a state after its translation: its FENCE allows it and its
reserved bits are 0 (R263, R266). -/
def packetReady (s : State) (qid ty : Nat) (stage : QStage) (q : Queue) (f : Nat) (t : State) (h : Held) : Prop :=
  s.queue? qid = some q ∧ s.serving q = some f ∧ q.stage = stage ∧ s.packetAt q f = .ok (t, h) ∧ h.pkt % 256 = ty
    ∧ (h.pkt.testBit 8 = true → ∀ l ∈ s.launches, l.queue ≠ qid) ∧ onlyIn (packetFields ty) h.pkt = true

/-- R261 to R272: what the events of a queue leave. A write of TAIL raises it or does nothing, and one beyond the ring is error 0x07, once
no device request holds up the flip of its page to host bias (R259); a packet consumed has a clear header, and READ has gone on; each
packet has its own effect; a queue is mapped, unmapped and registered. A queue that is unmapped holds no slot, reads STATE IDLE unless
it is in ERROR, and keeps READ (R271). A stalled queue goes on once the page that it missed is present (R265). The fetcher holds a packet
that it has read, and a waiting DEPEND that is another packet by the next reading is processed as that packet; a unit of R239 that has been
written over a packet that is held is found whole, old or new (R448; when the fetcher reads is the model's reading, assumption 84). That an unmapped DEPEND which waits is left
unconsumed is the model's choice too (assumption 70): R271 says so only of a LAUNCH that awaits admission. -/
def Obligations.QueueEvents : Prop := ∀ (s : State) (qid : Nat) (q : Queue), s.queue? qid = some q →
  let next := fun (i : Instr) (t : State) => exec i s = .next t
  let clear := fun (a n : Nat) => ∀ x ∈ s.queues, meets a n (x.key + 16) 8 = false
  let byte := fun (x j : Nat) => field x (8 * j) 8
  let again := fun (f : Nat) (t : State) (h : Held) => s.serving q = some f ∧ q.stage = .depend ∧ s.packetAt q f = .ok (t, h)
  (∀ v : DWord, s.host.boot = 2 → q.key < 2 ^ 40 → (∀ p ∈ s.toFlip (q.key + 16) 8, s.pageBusy p = false) → s.queues.filter (fun x => meets (q.key + 16) 8 (x.key + 16) 8) = [q] → ∃ t, next (.tailWrite qid v) t
    ∧ t.qTail q = max (s.qTail q) v.toNat
    ∧ (v.toNat ≤ s.qTail q → t.mem = s.mem ∧ t.queues = s.queues)
    ∧ (s.qState q ≠ 3 → s.qTail q < v.toNat → s.qRead q + 2 ^ q.log2size < v.toNat → t.qState q = 3 ∧ t.cbRead q 33 1 = 7)
    ∧ (v.toNat ≤ s.qRead q + 2 ^ q.log2size → t.qState q = s.qState q))
  ∧ (∀ key, q.key < 2 ^ 40 → q.key % 64 = 0 → clear key 4 → meets key 4 q.key 64 = false → ∀ t, s.consume q key = t →
      t.readNum (t.under q.ctx key) key 4 = 0 ∧ t.qRead q = (s.qRead q + 1) % 2 ^ 64)
  ∧ (∀ f t h, s.serving q = some f → q.stage = .idle → s.packetAt q f = .ok (t, h) →
      (h.pkt % 256 ≤ 4 → next (.packetHeaderReread qid) (t.setQueue { q with held := if h.pkt % 256 = 0 then none else some h }))
      ∧ (4 < h.pkt % 256 → next (.packetHeaderReread qid) (t.queueError q 1)))
  ∧ (∀ f t h, packetReady s qid 4 .idle q f t h → next (.nopkt qid) (t.consume q h.key))
  ∧ (∀ f t h u k ks, packetReady s qid 3 .idle q f t h → field h.pkt 64 64 % 8 = 0 → field h.pkt 10 2 ≤ 2 →
      t.fetchKeys f q.ctx [(BitVec.ofNat 64 (field h.pkt 64 64), .write)] = (.ok (k :: ks), u) →
      let old := u.readNum (u.under q.ctx k) k 8
      let v := field h.pkt 128 64
      let new := if field h.pkt 10 2 = 0 then v else if field h.pkt 10 2 = 1 then (old + v) % 2 ^ 64 else max old v
      let w := u.storeMain (u.under q.ctx k) k (toBytes 8 new)
      let x := { w with irqs := w.irqs ++ if h.pkt.testBit 9 then [field h.pkt 32 11] else [] }
      next (.signalPacket qid) ((x.queue? q.id).elim x (fun y => x.consume y h.key)))
  ∧ (∀ f t h, s.packetAt q f = .ok (t, h) → ∃ k ks, s.fetchKeys f q.ctx [(s.packetVa q, .write)] = (.ok (k :: ks), t)
      ∧ h.rd = t.qRead q ∧ h.key = k
      ∧ let now := t.readNum (t.under q.ctx k) k 64
        (∀ o, q.held = some o → o.rd = t.qRead q → o.key = k →
          h.pkt = rereadPacket o.pkt now o.upon (foundNew t.tick o.upon).1 ∧ h.upon = (foundNew t.tick o.upon).2)
        ∧ ((∀ o, q.held = some o → o.rd ≠ t.qRead q ∨ o.key ≠ k) → h.pkt = now ∧ h.upon = []))
  ∧ (∀ tick old now upon, let pkt := rereadPacket old now upon (foundNew tick upon).1
      (∀ j, j < 64 → (∀ u ∈ upon, ¬(u.off ≤ j ∧ j < u.off + u.len)) → byte pkt j = byte now j)
      ∧ ∀ u ∈ upon, u.off + u.len ≤ 64 → (∀ v ∈ upon, v = u ∨ meets v.off v.len u.off u.len = false) →
          (∀ j, j < u.len → byte pkt (u.off + j) = byte u.val j) ∨ ∀ j, j < u.len → byte pkt (u.off + j) = byte old (u.off + j))
  ∧ (∀ f t h, again f t h →
      (h.pkt % 256 ≠ 2 → next (.dependRecheck qid) (t.setQueue { q with
          stage := .idle
          held := if h.pkt % 256 = 0 then none else some h }))
      ∧ (h.pkt % 256 = 2 → onlyIn (packetFields 2) h.pkt = false → next (.dependRecheck qid) (t.queueError q 2)))
  ∧ (∀ f t h u ks i, packetReady s qid 2 .idle q f t h ∧ i = .dependPacket qid
        ∨ i = .dependRecheck qid ∧ again f t h ∧ h.pkt % 256 = 2 ∧ onlyIn (packetFields 2) h.pkt = true →
      let n := field h.pkt 32 3
      let deps := (List.range n).map (fun j => field h.pkt (64 + 64 * j) 64)
      1 ≤ n → n ≤ 6 → (∀ a ∈ deps, a % 64 = 0) → (∀ j, n ≤ j → j < 6 → field h.pkt (64 + 64 * j) 64 = 0) →
      t.fetchKeys f q.ctx (deps.map (fun a => (BitVec.ofNat 64 a, Access.read))) = (.ok ks, u) →
      ((∀ k ∈ ks, (u.readByte (u.under q.ctx k) k).getLsbD 0 = true) → next i (u.consume q h.key))
      ∧ ((∃ k ∈ ks, (u.readByte (u.under q.ctx k) k).getLsbD 0 = false) → next i (u.setQueue { q with
          stage := .depend
          held := some h })))
  ∧ (∀ f t h u k ks v ck cks, packetReady s qid 1 .idle q f t h → field h.pkt 64 64 % 256 = 0 →
      t.fetchKeys f q.ctx [(BitVec.ofNat 64 (field h.pkt 64 64), .read)] = (.ok (k :: ks), u) →
      let r := parseRecord (u.readNum (u.under q.ctx k) k 256)
      r.ok (u.readNum (u.under q.ctx k) k 256) = true →
      u.fetchKeys f q.ctx ((r.compl, .write) :: (if r.cancel = 0 then [] else [(r.cancel, .read)])) = (.ok (ck :: cks), v) →
      ∃ x : State, next (.launchPacket qid) x
        ∧ ((∀ c, v.ctx? q.ctx = some c → v.neverAdmissible c r = false) → (v.ctx? q.ctx).isSome = true →
            ∃ l : Launch, l ∈ x.launches ∧ l.id = v.nextId ∧ l.ctx = q.ctx ∧ l.queue = q.id ∧ l.facet = f ∧ l.level = max r.level q.level
              ∧ l.recd = r ∧ l.stat = .presented ∧ l.tasks = r.tasks ∧ l.total = r.count ∧ l.complKey = ck ∧ l.startRef = (v.facet f).ref)
        ∧ (∀ c, v.ctx? q.ctx = some c → v.neverAdmissible c r = true → ∀ y ∈ x.launches, ∃ z ∈ v.launches, z.id = y.id))
  ∧ (s.qState q = 2 → q.slot.isSome = true →
      ((∀ va, q.missing = some va → s.present? q.ctx va = true) →
        next (.queueStallResume qid) ((s.cbWrite q 32 1 1).setQueue { q with missing := none }))
      ∧ ((∃ va, q.missing = some va ∧ s.present? q.ctx va = false) → next (.queueStallResume qid) s))
  ∧ (∀ facet, s.queueWaits q = true → s.queueOn q facet = true → (s.facet facet).runs = true → (s.mapped facet).length < 16 →
      s.queues.find? (fun x => x.level = q.level && s.queueWaits x && s.queueOn x facet) = some q →
      let t := s.cbWrite q 32 1 1
      let borrowed := decide (classMin q.level ≤ ((s.mapped facet).filter (fun x => x.level = q.level)).length)
      next (.queueMap qid facet) { t with queues := t.queues.filter (fun x => x.id ≠ qid)
        ++ [{ q with
              slot := some (facet, borrowed, t.edges)
              stage := .idle
              idleFrom := t.edges }] })
  ∧ (∀ facet cls, s.unmapVictim facet = some q → ((s.mapped facet).filter (fun x => x.level = cls)).length < classMin cls →
      16 ≤ (s.mapped facet).length → (∃ x ∈ s.queues, x.level = cls ∧ s.queueWaits x = true ∧ s.queueOn x facet = true) →
      next (.forcedUnmap facet cls) (s.unmap q))
  ∧ (q.key < 2 ^ 40 → (s.unmap q).queue? qid = some { q with
          slot := none
          stage := .idle
          held := none }
      ∧ (s.unmap q).qState q = (if s.qState q = 3 then 3 else 0) ∧ (s.unmap q).qRead q = s.qRead q ∧ (s.unmap q).qTail q = s.qTail q)
  ∧ (∀ f b e, q.slot = some (f, b, e) → s.qRead q = s.qTail q → q.idleFrom + 10000 ≤ s.edges →
      (∃ x ∈ s.queues, x.level = q.level ∧ s.queueWaits x = true ∧ s.queueOn x f = true) → next (.queueIdleUnmap qid) (s.unmap q))
  ∧ (∀ ctx (cb : DWord) c e level, s.descOf ctx = some c → walk s c cb.toNat 4 c.root = .ok (e, level) →
      let key := leafBase cb.toNat e level + cb.toNat % 4096
      let x := s.readNum (s.under ctx key) key 9
      c.ending = false → cb.toNat < 2 ^ 56 → cb.toNat % 64 = 0 → isLocal key = true → field x 0 64 % 4096 = 0 → 3 ≤ field x 64 5 →
      field x 64 5 ≤ 16 → s.queues.length < 65536 → (∀ y ∈ s.queues, y.key ≠ key) →
      next (.queueRegister ctx cb) { s with
        nextId := s.nextId + 1
        queues := s.queues ++ [⟨s.nextId, ctx, key, cb, BitVec.ofNat 64 (field x 0 64), field x 64 5, field x 69 2, none, .idle, s.edges,
          [(s.readNum (s.under ctx key) (key + 16) 8, s.edges)], none, none⟩] })

/-- R278 to R292, R320, R321, R413, R443: admission, the life of a task and the end of a launch. A task that is placed starts as R31 says; a
set cancel bit of a facet drops the tasks that would be placed there; a task retires once its held-back records are performed, and later
where one of them must wait (R369, R430); a launch ends with the first fault to arrive, unless the firmware cores change images or a
request of it stands at a link that is down (assumption 107). Its retiring tasks are left, and its record is written after them (assumption
81). What would take the room of a launch with the promise of R274 is put off (assumption 78). -/
def Obligations.LaunchEvents : Prop := ∀ (s : State),
  let next := fun (i : Instr) (t : State) => exec i s = .next t
  (∀ lid l q (t : State) h, s.launch? lid = some l → s.queue? l.queue = some q → l.stat = .presented → q.stage = .presented lid →
      q.slot.isSome = true → s.qState q = 1 → s.packetAt q l.facet = .ok (t, h) →
      let u := ({ t with
        launches := t.launches.filter (fun (x : Launch) => x.id ≠ lid) ++ [{ l with
          stat := .accepted
          headFrom := t.edges }] }.dropCode l.ctx).consume q h.key
      (∀ places, l.recd.pclass ≠ 0 ∨ l.bits ≠ 0 → next (.launchAccept lid places) u)
      ∧ (∀ places v, l.recd.pclass = 0 → l.bits = 0 → (∀ p ∈ places, t.turnOf l p.1 = true) →
          State.placeEach lid u l.tasks places = some v → t.spoils (v.updLaunch lid (fun x => { x with tasks := [] })) = false →
          next (.launchAccept lid places) (v.updLaunch lid (fun x => { x with tasks := [] }))))
  ∧ (∀ lid l x xs, s.launch? lid = some l → l.tasks = x :: xs → l.stat = .accepted →
      (∀ facet cores, l.bits.getLsbD facet = true ∨ l.recd.pclass = 0 → next (.groupPlace lid facet cores) (s.updLaunch lid (fun y => { y with
          tasks := xs
          dropped := y.dropped + 1 })))
      ∧ (∀ facet cores t, l.bits.getLsbD facet = false → l.recd.pclass ≠ 0 → s.savedBefore l (if x.order.isEmpty then [l.started] else x.order) = false →
          s.turnOf l facet = true → s.placeTask l x facet cores = some t → s.spoils (t.updLaunch lid (fun y => { y with
            tasks := xs
            headFrom := t.edges })) = false →
          next (.groupPlace lid facet cores) (t.updLaunch lid (fun y => { y with
            tasks := xs
            headFrom := t.edges }))
          ∧ ∃ g ∈ t.groups, g.id = s.nextId ∧ g.ctx = l.ctx ∧ g.launch = some lid ∧ g.facet = facet ∧ g.stat = .resident
            ∧ g.shape = l.recd.shape ∧ g.g = [] ∧ g.tiles = [] ∧ g.shared = [] ∧ g.bars = [] ∧ g.cur = l.recd.pro ∧ g.full = l.recd.full
            ∧ { g.task with order := x.order, born := x.born } = x ∧ g.waves.map (fun (w : Wave) => w.id) = List.range l.recd.waves
            ∧ ∀ w ∈ g.waves, w.v = [] ∧ w.s = [] ∧ w.p = [] ∧ w.h = [] ∧ w.m = [] ∧ w.trapVec = 0 ∧ w.frames = [] ∧ w.exited = 0
              ∧ w.cmds = [] ∧ w.present = presentLanes (l.recd.shape.1 * l.recd.shape.2.1 * l.recd.shape.2.2) w.id
              ∧ ∀ p ∈ w.paths, p.pc = l.recd.code + BitVec.ofNat 64 l.recd.entry ∧ p.mask = w.present ∧ p.prio = l.recd.entryPrio
                  ∧ p.fr = 0 ∧ p.wait = .ready))
  ∧ (∀ gid g n m, s.group? gid = some g → g.stat = .resident → g.acq.find? (fun x => s.acqFits g x.1 x.2) = some (n, m) →
      s.spoils (s.grant gid m) = false →
      ∃ t x, next (.acqGrant gid) t ∧ t.group? gid = some x ∧ x.cur = g.cur.take g.full m ∧ x.acq = g.acq.filter (fun y => y.2 ≠ m))
  ∧ (∀ gid g, s.group? gid = some g → g.stat = .resident → g.lowerable ≠ 0 → ∃ t x, next (.relLower gid) t ∧ t.group? gid = some x
      ∧ x.cur = g.cur.take g.pro g.lowerable
      ∧ (bit g.lowerable 2 = true → ∀ k, x.shared.read k = if k < g.pro.sh then g.shared.read k else 0)
      ∧ (bit g.lowerable 3 = true → ∀ core k i j, k < 32 → i < 64 → j < 64 →
          x.tile core k i j = if k < g.pro.t then g.tile core k i j else 0))
  ∧ (∀ gid g l lid w ws, s.group? gid = some g → g.launch = some lid → s.launch? lid = some l → g.liveWaves = w :: ws → g.div = true →
      g.stat = .resident → 0 < l.recd.allow → l.recd.allow ≤ g.resident →
      next (.allowExpiry gid) (s.exhaust gid w.id ((bestPath w.paths).elim 0 Path.pc)))
  ∧ (∀ gid g lid w ws t left ok, s.group? gid = some g → g.launch = some lid → g.waves = w :: ws → g.retires = true →
      (s.updLaunch lid (fun l => { l with
        exitMax := max l.exitMax g.exitMax
        exitOr := l.exitOr ||| g.exitOr })).retireAll g w g.deferred = (t, left, ok) →
      let kids := if ok = some true && !(t.launch? lid).any (fun l => l.fault.isSome || (t.descOf l.ctx).any CtxDesc.ending) then g.deferred.filterMap (fun x => x.2.child) else []
      (ok = none → next (.taskRetire gid) (t.updGroup gid (fun x => { x with
        deferred := (g.deferred.filter (fun y => y.2.child.isSome)).filter (fun y => !left.contains y) ++ left })))
      ∧ (ok ≠ none → next (.taskRetire gid) (((t.updLaunch lid (fun l => { l with
        headFrom := if l.tasks.isEmpty then t.edges else l.headFrom
        tasks := l.tasks ++ kids
        total := l.total + kids.length
        retired := l.retired + 1 })).dropGroup gid).count g.facet g.ctx 6 1)))
  ∧ (∀ lid l p t, s.launch? lid = some l → l.stat = .accepted → l.tasks = [] → (∀ g ∈ s.groups, g.launch ≠ some lid) →
      (∀ x ∈ s.faults, x.launch ≠ lid) → s.translate l.facet 9 l.ctx .write l.recd.compl.toNat = (.ok p, t) →
      let st := if l.fault.isSome then 2 else if l.dropped + l.aborted = 0 then 0 else 1
      let u := t.storeMain p.owner (p.base + l.recd.compl.toNat % 4096) (l.complBytes (some st) (t.facet l.facet).ref)
      next (.launchComplete lid) { u with launches := u.launches.filter (fun x => x.id ≠ lid) })
  ∧ (∀ lid l k (v : DWord), s.launch? lid = some l → l.cancelKey = some k → (∀ q ∈ s.queues, meets k 8 (q.key + 16) 8 = false) →
      (∀ p ∈ s.toFlip k 8, s.pageBusy p = false) → s.host.boot = 2 ∨ 2 ^ 40 ≤ k →
      ∃ t x, next (.cancelWordWrite lid v) t ∧ t.launch? lid = some x ∧ x.cancel = (l.cancel || v != 0)
        ∧ t.readNum (t.under l.ctx k) k 8 = v.toNat)
  ∧ (∀ lid, s.host.fwNext ≠ none → next (.launchEnd lid) s)
  ∧ (∀ lid, s.launchOut lid = true → next (.launchEnd lid) s)
  ∧ (∀ lid f l, firstFault (s.faults.filter (fun x => x.launch = lid)) = some f → s.host.fwNext = none → s.launchOut lid = false →
      let t := (s.groups.filter (fun g => g.launch = some lid && g.waves.any (fun w => w.alive || w.dead))).foldl
        (fun (a : State) g => (a.finishUnits g.id).abortTask g.id) s
      let u := { t with faults := t.faults.filter (fun x => x.launch ≠ lid) }.updLaunch lid (fun y => { y with
        dropped := y.dropped + y.tasks.length
        tasks := []
        fault := some (f.code, f.pc) })
      let v := u.logEntry 0 f.code.toNat f.ctx f.facet 0xFF 0 f.pc.toNat (u.facet f.facet).ref.toNat
      v.launch? lid = some l → next (.launchEnd lid) (if v.groups.any (fun g => g.launch = some lid) then v else v.finishLaunch l))
  ∧ (∀ fs f, firstFault fs = some f → f ∈ fs ∧ ∀ x ∈ fs, x.first f = false)

/-- R182, R207, R213, R296, R318, R335, R351, R353, R431: a command that nothing holds back is performed, with the effect of its class,
before its completion is signalled, or begun and performed piece by piece (the answer PENDING is the model's choice, assumption 60); its
requests to other packages wait while a link is down or has no room, and so do their answers, and a call waits while its engine has done
with its cycle; a delivery that lands into local storage is completed, or lands some more of its bytes (R212, assumption 11); a wave's
fairness run begins at 4,096 issues with 64 for another path; a sleep ends at its cycle; a timer expires, after which its engine performs
no call before the next edge: the engine is closed until then, by a field of the model's own (assumptions 77 and 58). -/
def Obligations.WaveEvents : Prop := ∀ (s : State) (gid wid : Nat) (g : Group) (w : Wave), s.group? gid = some g → g.wave? wid = some w →
  let next := fun (i : Instr) (t : State) => exec i s = .next t
  let lone := fun (c : Cmd) => c.status = 0 ∧ c.cls ≤ 3 ∧ c.sent = 0 ∧ c.moved = [] ∧ s.consumes g w c = none
  let turn := fun (c : Cmd) => w.cmd? c.cls c.seq = some c ∧ s.mayPerform g w c = true ∧ s.engineClosed g c = false
  let linked := fun (c : Cmd) => ∀ x ∈ c.via, ∀ p, (if (s.port x.2).state = 3 then s.routeTo x.1 else some x.2) = some p → (s.port p).state = 2
    ∧ ∀ y ∈ (s.port p).replay.drop 256, y.tag ≠ some (gid, wid, c.cls, c.seq)
  let ready := fun (c : Cmd) => turn c ∧ linked c ∧ (c.posted = true ∨ s.portsOf c = [])
  (∀ c ans, ready c → ans ≠ 0x01#8 → next (.commandComplete gid wid c.cls c.seq ans) ((s.performCmd g w c ans).signal g wid c.cls))
  ∧ (∀ c ans, turn c → c.posted = false → (∃ p ∈ s.portsOf c, (s.port p).state ≠ 2) →
      next (.commandComplete gid wid c.cls c.seq ans) (s.signal g wid c.cls))
  ∧ (∀ c ans, w.cmd? c.cls c.seq = some c → c.done = false → s.engineClosed g c = true →
      next (.commandComplete gid wid c.cls c.seq ans) s)
  ∧ (∀ c ans, w.cmd? c.cls c.seq = some c → c.done = false → c.posted = true → ¬linked c →
      next (.commandComplete gid wid c.cls c.seq ans) s)
  ∧ (∀ c, w.cmd? c.cls c.seq = some c → c.stage = .landing → c.posted = false → g.works c.cls = true → s.engineClosed g c = false →
      (∀ ans, ans ≠ 0x01#8 → next (.commandComplete gid wid c.cls c.seq ans) ((s.land gid wid c.cls c.seq).signal g wid c.cls))
      ∧ ∃ later, (∀ x ∈ later, x ∈ c.late) ∧ (∀ x ∈ c.late, 2 ^ 63 ≤ x.1 → x ∈ later)
        ∧ next (.commandComplete gid wid c.cls c.seq 0x01)
          (((s.landBytes gid (c.late.filter (fun x => !later.contains x))).updCmd gid wid c.cls c.seq (fun c => { c with
            late := later })).signal g wid c.cls))
  ∧ (∀ c, ready c → c.cls ≤ 4 → c.begun = false → (∀ k, c.effect ≠ .call k) → (∀ sp k l n, c.effect ≠ .nhave sp k l n) →
      next (.commandComplete gid wid c.cls c.seq 0x01) ((s.updCmd g.id w.id c.cls c.seq (fun c => { c with begun := true })).signal g wid c.cls))
  ∧ (∀ c ans, lone c → (∀ k, c.effect ≠ .call k) → (∀ m, c.effect ≠ .matrix m) →
      s.performCmd g w c ans = (s.copyPieces g w c ans [c.effect] [c]).perform gid wid c.cls c.seq
        (if c.lost = true ∨ ∃ x ∈ c.mainKeys, s.reaches ans c x.1 = false then 0x14 else 0))
  ∧ (∀ c e e' rest, ready c → c.cls ≤ 3 → c.begun = true → c.status = 0 → c.moved = [] →
      c.effect.pieces.drop c.sent = e :: e' :: rest → s.consumes g w { c with effect := e } = none →
      (∀ x ∈ ({ c with effect := e } : Cmd).mainKeys, s.reaches 0 c x.1 = true) →
      ∃ t, next (.commandComplete gid wid c.cls c.seq 0x01) t
        ∧ (Config.freeBit s.tick 0x321 c.sent = true →
          t = ((s.copyPieces g w c 0 [e] [{ c with effect := e }]).updCmd g.id w.id c.cls c.seq (fun c => { c with
            sent := c.sent + 1
            moved := [] })).signal g wid c.cls)
        ∧ (Config.freeBit s.tick 0x321 c.sent = false → e.words.length ≤ 1 →
          t = (s.updCmd g.id w.id c.cls c.seq (fun c => c)).signal g wid c.cls))
  ∧ (∀ c op ty x k o m, lone c → c.effect = .atomic op ty .none [x] → pinned c.pins x.addr.toNat = some (k, o, m) → k < 2 ^ 50 →
      (∀ q ∈ s.queues, meets k (tySize ty) (q.key + 16) 8 = false) →
      (s.performCmd g w c 0).readNum o k (tySize ty) = atomOp op ty (s.readNum o k (tySize ty)) x.val.toNat % 2 ^ (8 * tySize ty)
      ∧ ∀ a, ¬(k ≤ a ∧ a < k + tySize ty) → (isLocal a = true → a / 64 ≠ k / 64 ∧ a / 64 ≠ (k + tySize ty - 1) / 64) →
          (s.performCmd g w c 0).mem.read a = s.mem.read a)
  ∧ (∀ c (d : Bulk) k o m, lone c → c.effect = .bulkIn d false → d.rows = 1 → 1 ≤ d.len → d.va.toNat % 4096 + d.len ≤ 4096 →
      d.loc.toNat + d.len ≤ g.cur.sh → pinned c.pins d.va.toNat = some (k, o, m) → k + d.len ≤ 2 ^ 50 →
      ∃ x, (s.performCmd g w c 0).group? gid = some x ∧ (s.performCmd g w c 0).mem = s.mem
        ∧ (∀ j, j < d.len → x.shared.read (d.loc.toNat + j) = s.readByte o (k + j))
        ∧ ∀ a, ¬(d.loc.toNat ≤ a ∧ a < d.loc.toNat + d.len) → x.shared.read a = g.shared.read a)
  ∧ (∃ t x, next (.fairnessRun gid wid) t ∧ t = { s with groups := t.groups } ∧ (t.group? gid).bind (fun y => y.wave? wid) = some x
      ∧ (4096 ≤ w.fair → (∃ p ∈ w.readyPaths, p.id ≠ w.last) → ∃ p ∈ w.readyPaths, p.id ≠ w.last
          ∧ x = { w with run := some (p.id, 64), fair := 0 } ∧ ∀ p' ∈ w.readyPaths, p'.id ≠ w.last → p'.prio.toNat ≤ p.prio.toNat)
      ∧ (w.fair < 4096 → x = w))
  ∧ (∀ d : DWord, w.park = .sleep d → g.stat = .resident → d.toNat ≤ (s.facet g.facet).ref.toNat → ∃ t, next (.sleepWake gid wid) t
      ∧ t = { s with groups := t.groups } ∧ (t.group? gid).bind (fun y => y.wave? wid) = some { w with
          park := .no
          parkedAt := 0 })
  ∧ (∀ facet idx o d, facet < s.facets.length → s.objAt facet idx = some o → o.kind = .timer d true false →
      d.toNat ≤ (s.facet facet).ref.toNat → ∃ t x, next (.timerExpire facet idx) t ∧ t.objAt facet idx = some x ∧ x.kind = .timer d true true
        ∧ (t.facet facet).closed = true)

/-! ### Device events: saves, memory, the network, links, heat and the host -/

/-- R340 to R342, R415, R423 to R427: answers to an escalated fault, requests for pre-emption, saves, restores and the bench. The groups of
a facet are saved in the order in which they stopped, an allowance that runs out comes before the save, and a set cancel bit aborts the task
instead. A save, where no copy-engine command is in the middle of a chunk or line and no delivery is landing, and a restore, where no release of
MPOINT waits in the matrix queue, leave every register, handle, map, path, frame and tile as it was, and a save ends the reservations. An
answer that comes after the launch's first fault does nothing (R413), and a retry that finds no room for its command is kept for later
(assumption 96). The groups of a concurrent launch take the place of the last to stop
(assumption 91); a PREEMPT value with a bit that must be zero does nothing here (assumption 75), and an event that is not due leaves the
state as it is (assumption 17). A save waits for a request at a link that is down (assumption 107), and a restore or a bench placement that
would take the room of a launch with the promise of R274 is put off (assumption 78). -/
def Obligations.SaveEvents : Prop := ∀ (s : State),
  let next := fun (i : Instr) (t : State) => exec i s = .next t
  let kept := fun (a b : Wave) => a.v = b.v ∧ a.s = b.s ∧ a.p = b.p ∧ a.h = b.h ∧ a.m = b.m ∧ a.paths = b.paths ∧ a.frames = b.frames
    ∧ a.exited = b.exited ∧ a.trapVec = b.trapVec ∧ a.spill = b.spill
  (∀ token gid wid f g w, s.waitingFrame token = some (gid, wid, f) → s.group? gid = some g → g.wave? wid = some w →
      let held := fun (retry : Bool) => s.updGroup gid (fun x => { x with answers := x.answers ++ [(token, retry)] })
      (g.holdsSlots = true → s.ending g = false →
        next (.resumeRetry token) (if s.mayResubmit g w f then (s.resubmit gid wid f).updWave gid wid (fun w => w.popFrame f) else held true)
        ∧ next (.resumeEnd token) (s.raiseFault gid wid codePage f.pc))
      ∧ (g.holdsSlots = true → s.ending g = true → next (.resumeRetry token) s ∧ next (.resumeEnd token) s)
      ∧ (g.holdsSlots = false → next (.resumeRetry token) (held true) ∧ next (.resumeEnd token) (held false)))
  ∧ (∀ token, s.waitingFrame token = none → next (.resumeRetry token) s ∧ next (.resumeEnd token) s)
  ∧ (∀ (v : DWord) g, preemptClean v.toNat = true → s.group? g.id = some g → g.stat = .resident
      → (∀ l, g.launch.bind s.launch? = some l → l.recd.pclass ≠ 0)
      → (s.onFacet (v.toNat / 2 ^ 24 % 64)).find? (fun x => x.stat = .resident
          && x.waves.any (fun w => w.core = v.toNat / 2 ^ 16 % 8 && w.slot = v.toNat % 64 && w.holdsSlot)) = some g →
      let d := (s.facet g.facet).ref + BitVec.ofNat 64 (v.toNat / 2 ^ 32)
      ∃ t x, next (.preemptWrite v) t ∧ t = { s with groups := t.groups } ∧ t.group? g.id = some x
        ∧ (g.preempt = none → x = { g with preempt := some ⟨d, false⟩ })
        ∧ ∀ p, g.preempt = some p → x = { g with preempt := some ⟨if d.toNat < p.deadline.toNat then d else p.deadline, p.forced⟩ })
  ∧ (∀ v, preemptClean v.toNat = false → next (.preemptWrite v) s)
  ∧ (∀ id facet level g, s.overdue id facet = some level → level ≤ 1 →
      let gs := s.groups.filter (fun x => x.stat = .resident && x.facet = facet && !x.firmware && level < s.levelOf x)
      gs.find? (fun x => x.placed = gs.foldl (fun acc y => max acc y.placed) 0) = some g →
      next (.priorityPreempt id facet) (s.postPreempt g.id 5000))
  ∧ (∀ gid g p, s.group? gid = some g → g.preempt = some p →
      (s.allowDue g = false → g.stat = .resident → p.deadline.toNat ≤ (s.facet g.facet).ref.toNat →
        ∃ t, next (.saveDeadline gid) t ∧ t = { s with groups := t.groups }
          ∧ t.group? gid = some { g with preempt := some { p with forced := true } })
      ∧ (∀ w ws, g.liveWaves = w :: ws → s.allowDue g = true →
        next (.saveDeadline gid) (s.exhaust g.id w.id ((bestPath w.paths).elim 0 Path.pc))))
  ∧ (∀ gid g, s.group? gid = some g → let gs := s.together g
      let placed := fun (x : Group) (n : Nat) => (∀ z ∈ s.together x, ∃ k, z.stopAt = some k ∧ k ≤ n) ∧ ∃ z ∈ s.together x, z.stopAt = some n
      let first := fun (x : Group) => ∀ y ∈ s.groups, y.stat = .resident → y.facet = x.facet → (∀ z ∈ gs, z.id ≠ y.id) →
        ∀ n m, placed y n → placed x m → m ≤ n
      let ready := (∀ x ∈ gs, x.stopped = true ∧ s.copyOut x = false ∧ first x ∧ (x.free = none ∨ s.benchRoom x.facet = true))
        ∧ (∀ f ∈ s.faults, g.launch ≠ some f.launch) ∧ ∀ x ∈ gs, s.allowDue x = false
      (ready → (∀ x ∈ gs, s.cancelled x = false) → next (.groupSave gid) (gs.foldl (fun (a : State) x => a.saveGroup x.id .saved true) s))
      ∧ (ready → (∀ x ∈ gs, s.cancelled x = true) → next (.groupSave gid) (gs.foldl (fun (a : State) x => a.abortTask x.id) s))
      ∧ ((∃ x ∈ gs, x.stopped = false ∨ s.copyOut x = true ∨ ¬first x) → next (.groupSave gid) s))
  ∧ (∀ gid g stat calls, s.group? gid = some g →
      (∀ w ∈ g.waves, ∀ c ∈ w.cmds, c.stage ≠ .landing ∧ (c.cls ≤ 3 → c.begun = false ∨ c.done = true)) →
      ∃ x, (s.saveGroup gid stat calls).group? gid = some x ∧ x.stat = stat ∧ x.preempt = none
      ∧ x.g = g.g ∧ x.tiles = g.tiles ∧ x.shared = g.shared ∧ x.bars = g.bars ∧ x.cur = g.cur ∧ x.deferred = g.deferred
      ∧ ∀ wid w, g.wave? wid = some w → ∃ w', x.wave? wid = some w' ∧ kept w' w ∧ w'.resvS = [] ∧ w'.resvP = [])
  ∧ (∀ gid g places t, s.group? gid = some g → (∀ y ∈ (s.together g).zip places, s.mayRestore y.1 y.2.1 = true) →
      s.seatAll (s.together g) places = some t → s.spoils t = false → next (.groupRestore gid places) t)
  ∧ (∀ gid g facet cores t, s.group? gid = some g → s.seat gid facet cores = some t → g.answers = [] →
      (∀ e ∈ s.matq ++ g.savedMat, ∀ f core id keep p, e ≠ .mpoint f core id keep p) →
      g.waves.map (fun (w : Wave) => w.id) = List.range g.waves.length →
      (g.launch ≠ none ∨ ∀ w ∈ g.waves, ∀ c ∈ w.cmds, c.done = true ∨ 3 < c.cls) →
      ∃ x, t.group? gid = some x ∧ x.facet = facet ∧ x.stat = .resident ∧ x.g = g.g ∧ x.shared = g.shared ∧ x.bars = g.bars ∧ x.cur = g.cur
        ∧ ∀ wid w, g.wave? wid = some w → ∃ w', x.wave? wid = some w' ∧ kept w' w ∧ cores[wid]? = some w'.core
          ∧ ∀ k i j, k < 32 → i < 64 → j < 64 → x.tile w'.core k i j = g.tile w.core k i j)
  ∧ (∀ facet core n g t, s.benchHead facet = some (n, g) → g.stat = .benched ∨ g.stat = .saved → g.facet = facet →
      (∀ x ∈ s.partLaunches g.ctx, x.pending = true → x.level < benchClass n → s.launchFits x facet = false) →
      (g.placed = 0 → s.closed g.ctx (benchClass n) 0 = false) → s.seat g.id facet [core] = some t →
      s.spoils (t.updFacet facet (fun f => { f with bench := f.bench.filter (fun x => x.2 ≠ g.id) })) = false →
      next (.benchPlace facet core) (t.updFacet facet (fun f => { f with bench := f.bench.filter (fun x => x.2 ≠ g.id) })))
  ∧ (∀ gid g, s.group? gid = some g → g.eligible = true → g.parkedAt + 1000000 ≤ (s.facet g.facet).ref.toNat →
      s.benchRoom g.facet = true → s.copyOut g = false → s.nextAt g.facet s.tick [g] = true → next (.standDown gid) ((s.saveGroup gid .stoodDown false).count g.facet g.ctx 11 1))
  ∧ (∀ gid g fw, s.group? gid = some g → g.free = some fw → g.stat = .stoodDown → (∀ w ∈ g.waves, w.woken = true) →
      g.facet < s.facets.length → ∃ t, next (.stoodDownWake gid) t ∧ (t.facet g.facet).bench = (s.facet g.facet).bench ++ [(fw.level, gid)]
        ∧ t.group? gid = some { g with
            stat := .benched
            since := s.edges })

/-- R187, R197, R258, R259, R367 to R373, R385: a page migrates to the facet whose request took its counter past the threshold, the host
reads and writes device memory and its own (at addresses that the model gives it, assumption 63) and recalls a sector, and what arrives at
a router, or runs out there, has its effect; a tile that comes after an expiry of the router's cycle arrives in a later one (assumption
77), and an interest from a face that has a record already extends it (assumption 109). A free frame in another quarter than the passing facet's only resets the counter (assumption 51). -/
def Obligations.MemoryAndNetworkEvents : Prop := ∀ (s : State),
  let next := fun (i : Instr) (t : State) => exec i s = .next t
  (∀ ctx (va : DWord) facet frame c e level key, s.ctx? ctx = some c → va.toNat < 2 ^ 56 → walk s c va.toNat 4 c.root = .ok (e, level) →
      leafKey s c va.toNat 4 c.root = some key → e / 2 ^ 60 % 4 = 0 → e / 2 ^ 48 % 4 = 2 → ctxOwns c facet = true →
      let span := leafSpan e level
      let size := 4096 * span
      let first := leafBase va.toNat e level / size * size
      homeFacet first ≠ facet → look 0 s.migPass (first / 4096 * 4 + e / 2 ^ 10 % 4) = facet + 1 →
      (homeFacet frame = facet → frame % size = 0 → frame < 2 ^ 40 → s.pinnedBy ctx va.toNat = false →
        let r := s.recallRange first size
        let lost := r.bad.filter (fun x => first / 64 ≤ x && x < (first + size) / 64)
        let u := r.storeMain ctx frame (r.readBytes ctx first size)
        let t := (entryKeys key e level).foldl (fun (a : State) k => a.storeMain ctx k (toBytes 8 (movedEntry (a.readNum ctx k 8) first frame)))
          ({ u with
            icache := r.icache
            bad := u.bad.filter (fun x => !lost.contains x) ++ lost.map (fun x => x - first / 64 + frame / 64) }.moveCode first frame size)
        next (.pageMigrate ctx va facet frame) ((({ t with
          tlb := t.tlb.filter (fun x => !(x.ctx = ctx && covers span x.vpage (va.toNat / 4096))) }).moveKeys first frame size).resetMig
            (first / 4096)))
      ∧ (homeFacet frame ≠ facet → next (.pageMigrate ctx va facet frame) (s.resetMig (first / 4096))))
  ∧ (∀ facet mode page key, ∃ t, t = s.countMig facet mode page key
      ∧ t = { s with
          migCount := t.migCount
          migPass := t.migPass }
      ∧ (mode = 2 → key < 2 ^ 40 → homeFacet key ≠ facet → look 0 t.migCount page = min 65535 (look 0 s.migCount page + 1)
        ∧ ∀ c, c < 4 → look 0 s.migPass (page * 4 + c) = 0 → look 0 s.migCount page = 64 * 8 ^ c →
          look 0 t.migPass (page * 4 + c) = facet + 1)
      ∧ (homeFacet key = facet → t = s))
  ∧ (∀ pa write bytes, 
      let a := s.hostAddress pa
      let n := max 1 bytes.length
      let flips := ((pagesOf a n).map (· / 4096)).filter (fun p => s.devBias.contains p)
      s.host.boot = 2 → a + n ≤ 2 ^ 40 → (∀ p ∈ flips, s.pageBusy p = false) →
      let t := (flips.foldl (fun (x : State) p => x.flipHost p) s).recallRange a n
      next (.hostMemAccess pa write bytes) ((if write then t.storeMain 0 a bytes 1 else t).hostTakes a n)
      ∧ (∀ p ∈ flips, p ∉ t.devBias) ∧ ∀ l ∈ t.l2, ¬(a / 64 ≤ l.sector ∧ l.sector ≤ (a + n - 1) / 64))
  ∧ (∀ pa write bytes, s.host.boot ≠ 2 → s.hostAddress pa < 2 ^ 48 → next (.hostMemAccess pa write bytes) s)
  ∧ (∀ pa bytes, 2 ^ 48 ≤ pa → pa < 2 ^ 50 → next (.hostMemAccess pa true bytes) (s.storeMain 0 pa bytes 1))
  ∧ (∀ pa, s.host.boot = 2 → ∃ t, next (.hostRecall pa) t ∧ t = { s with l2 := t.l2 } ∧ ∀ l, l ∈ t.l2 ↔ l ∈ s.l2 ∧ l.sector ≠ s.hostAddress pa / 64)
  ∧ (∀ i r face key n, s.net[i]? = some ⟨r, face, .interest key n⟩ →
      let t := { s with net := s.net.eraseIdx i }
      let x : IntRec := ⟨.face face, 0, false, (s.router r).ref + BitVec.ofNat 64 n⟩
      next (.interestArrive i) (t.record r key x)
      ∧ (r < s.routers.length → ((s.router r).entries.foldl (fun acc e => acc + e.recs.length) 0) < 16384 →
          (∀ c ∈ (s.router r).shelf, c.key ≠ key) → (∀ e ∈ (s.router r).entries, e.key ≠ key) → s.faceFor r key = none →
          ((t.record r key x).router r).entries = (s.router r).entries ++ [⟨key, [x], none⟩])
      ∧ (r < s.routers.length → ((s.router r).entries.foldl (fun acc e => acc + e.recs.length) 0) < 16384 →
          ∀ c, (s.router r).shelf.find? (fun c => c.key = key) = some c → c.bad = [] → (s.router r).downs.contains face = false →
          ∀ r' f', faceLink r face = some (r', f') → facePort r face = none →
          (t.record r key x).net = t.net ++ [⟨r', f', .tile key c.bytes 0 false⟩])
      ∧ (r < s.routers.length → (∀ c ∈ (s.router r).shelf, c.key ≠ key) → ∀ e, (s.router r).entries.find? (fun e => e.key = key) = some e →
          (∃ y ∈ e.recs, y.who = .face face) → ∃ d ∈ ((t.record r key x).router r).entries, d.key = key
            ∧ d.recs = e.recs.map (fun y => if y.who = .face face ∧ y.deadline.toNat < x.deadline.toNat
                then { y with deadline := x.deadline } else y)))
  ∧ (∀ i r face key bytes shelf announced, s.net[i]? = some ⟨r, face, .tile key bytes shelf announced⟩ → (s.router r).closed = true →
      next (.tileArrive i) s)
  ∧ (∀ i r face key bytes shelf announced, s.net[i]? = some ⟨r, face, .tile key bytes shelf announced⟩ → (s.router r).closed = false →
      ∃ t, next (.tileArrive i) t ∧ t = ({ s with net := s.net.eraseIdx i } : State).tileAt r key bytes shelf announced
        ∧ ∀ e ∈ (t.router r).entries, e.key ≠ key)
  ∧ (∀ r key, ∃ t, next (.interestExpire r key) t ∧ ∀ e ∈ (t.router r).entries, e.key = key →
      e.recs ≠ [] ∧ ∀ x ∈ e.recs, (s.router r).ref.toNat < x.deadline.toNat)
  ∧ (∀ r key, ∃ t, next (.shelfCopyExpire r key) t ∧ t = { s with routers := t.routers } ∧ (∀ k, k ≠ r → t.router k = s.router k)
      ∧ t.router r = { s.router r with shelf := (s.router r).shelf.filter (fun c =>
          !(c.key = key && c.home && c.expires.toNat ≤ (s.router r).ref.toNat)) })
  ∧ (∀ i r face key e, s.net[i]? = some ⟨r, face, .notice key⟩ →
      (s.router r).entries.find? (fun x => x.key = key && x.fwd.any (fun y => y.1 = face)) = some e → ∃ t, next (.expiryNotice i) t
        ∧ t = ({ s with net := s.net.eraseIdx i } : State).expireEntry r e ∧ ∀ x ∈ (t.router r).entries, x.key ≠ key)

/-- R429 to R433, R446: flits, replays, training and retirement of a link port, routes made anew, and what a junction's temperature does.
The model's own readings are the layout of a flit's payload and the convention of its CRC (assumption 66), the port that retrains at the
fourth send that fails (assumption 40), LANES 0 and SPEED 3 of a port that is not up (assumption 41), and the times of the throttle steps
(assumption 42). -/
def Obligations.LinkAndThermalEvents : Prop := ∀ (s : State),
  let next := fun (i : Instr) (t : State) => exec i s = .next t
  let now := fun (p : Nat) => s.portRef p
  let resent := fun (p : Nat) (a b : List Sent) (x : Sent) => s.setPort p { s.port p with
    replay := a ++ { x with
      fails := x.fails + 1
      at_ := now p } :: b.map (fun y => { y with at_ := now p }) }
  let powered := fun (facet : Nat) => facet < s.facets.length ∧ (s.facet facet).powered = true
  let therm := fun (t : State) (facet core : Nat) => look 0 (t.facet facet).therm core
  let trailer := fun (f : Flit) => ofBytes (f.bytes.drop 240)
  let sound := fun (p : Nat) (f : Flit) => trailer f / 2 ^ 96 % 2 ^ 32 = (crc32 (f.bytes.take 252)).toNat
    ∧ trailer f / 2 ^ 32 % 2 ^ 64 = (Config.linkTag (s.port p).key (f.bytes.take 244)).toNat
  (∀ p (f : Flit), (s.port p).state = 2 → trailer f / 2 ^ 4 % 16 = 1 →
      let good := sound p f
      (good → trailer f / 2 ^ 20 % 2 ^ 12 = (s.port p).expected →
        (∀ m, f.msg = some m → ∃ body, m.2 = .net body ∧ trailer f / 2 ^ 2 % 4 = 2) → ∃ t,
        next (.flitReceive p f) t ∧ (t.port p).expected = ((s.port p).expected + 1) % 4096 ∧ (t.port p).asked = none
        ∧ (∀ peer body, f.msg = some (peer, .net body) → t.net = s.net ++ [⟨(portFace p).1, (portFace p).2, body⟩])
        ∧ (f.msg = none → t.net = s.net))
      ∧ (good → trailer f / 2 ^ 20 % 2 ^ 12 = (s.port p).expected → ∀ peer pa n l, f.msg = some (peer, .load pa n) →
        trailer f / 2 ^ 2 % 4 = 0 → p < s.ports.length → pa % 4096 + n ≤ 4096 →
        s.lends.find? (fun l => l.frame = pa / 4096 * 4096 && l.dest = 2 ^ 16 + peer) = some l → ∃ t y, next (.flitReceive p f) t
          ∧ (t.port p).replay.getLast? = some y ∧ y.vc = 1 ∧ y.data = s.readBytes l.owner pa n)
      ∧ (good → trailer f / 2 ^ 20 % 2 ^ 12 = (s.port p).expected → ∀ peer body, f.msg = some (peer, .net body) →
        trailer f / 2 ^ 2 % 4 ≠ 2 → ∃ t, next (.flitReceive p f) t ∧ t.net = s.net ∧ (t.port p).expected = ((s.port p).expected + 1) % 4096)
      ∧ (¬good → (∀ m, f.msg = some m → s.peerWaits m.2 = false) →
        next (.flitReceive p f) (s.setPort p { s.port p with asked := some (s.port p).expected })))
  ∧ (∀ p (f : Flit) a b x, (s.port p).state = 2 → trailer f / 2 ^ 4 % 16 = 3 → f.msg = none →
      let ack := trailer f / 2 ^ 8 % 2 ^ 12
      (¬sound p f → next (.replayRequest p f) s)
      ∧ (sound p f → (∀ y ∈ (s.port p).replay.take 256, y.seq ≠ ack) → f.names = x.seq → (s.port p).replay = a ++ x :: b →
        a.length < 256 → (∀ y ∈ a, y.seq ≠ x.seq) → x.fails < 3 → next (.replayRequest p f) (resent p a b x)))
  ∧ (∀ p (f : Flit) a b x, (s.port p).state = 2 → trailer f / 2 ^ 4 % 16 = 2 → f.msg = none → sound p f →
      x.seq = trailer f / 2 ^ 8 % 2 ^ 12 → (s.port p).replay = a ++ x :: b → a.length < 256 → (∀ y ∈ a, y.seq ≠ x.seq) →
      ∃ t, next (.flitReceive p f) t ∧ (t.port p).replay.map (fun y => y.seq) = b.map (fun y => y.seq))
  ∧ (∀ p x, (s.port p).state = 2 → (s.port p).replay.head? = some x →
      let due := fun (y : Sent) => y.at_.toNat + 1000 ≤ (now p).toNat
      (due x → (∀ y ∈ (s.port p).replay, y.fails < 3) → next (.ackTimeout p) (s.setPort p { s.port p with
        replay := (s.port p).replay.mapIdx (fun i (y : Sent) => { y with
          fails := if i < 256 ∧ due y then y.fails + 1 else y.fails
          at_ := now p }) }))
      ∧ (¬due x → next (.ackTimeout p) s))
  ∧ (∀ p maskA maskB speedsA speedsB, (s.port p).state = 1 →
      (∀ lanes speed, linkConfig maskA maskB speedsA speedsB = some (lanes, speed) →
        ∃ key, next (.linkTraining p maskA maskB speedsA speedsB true) (s.setPort p { s.port p with
          state := 2
          lanes := lanes
          speed := speed
          key := key
          replay := (s.port p).replay.map (fun y => { y with at_ := now p }) }))
      ∧ (∀ verified, linkConfig maskA maskB speedsA speedsB = none ∨ verified = false →
        next (.linkTraining p maskA maskB speedsA speedsB verified) (((s.setPort p { s.port p with
          state := 0
          lanes := 0
          speed := 3
          retryAt := now p + 1000000
          retrains := min 0xFFFFFFFF ((s.port p).retrains + 1) }).portLog 5 p).addToken p)))
  ∧ (∀ p, s.host.boot = 2 → (s.port p).state = 0 → (s.port p).retryAt.toNat ≤ (now p).toNat → next (.trainingRetry p) (s.setPort p { s.port p with state := 1 }))
  ∧ (∀ r, (s.router r).hour < (s.router r).ref.toNat / 360000000000 → ∃ t, next (.bucketDrain r) t
      ∧ t.ports.length = s.ports.length
      ∧ ∀ p, p < s.ports.length → t.port p = if portRouter p = r then { s.port p with bucket := (s.port p).bucket - 1 } else s.port p)
  ∧ (∀ gid wid g w c peers, s.group? gid = some g → g.wave? wid = some w → w.cmd? c.cls c.seq = some c → c.posted = true → c.done = false →
      ∃ x y, (s.loseRequest (gid, wid, c.cls, c.seq) peers).group? gid = some x ∧ x.wave? wid = some y ∧ y.cmd? c.cls c.seq = some { c with
          via := c.via.filter (fun x => !peers.contains x.1)
          lost := true })
  ∧ (∀ p (f : Flit), trailer f / 2 ^ 4 % 16 ≠ 4 ∨ ¬sound p f → next (.peerRetireFlit ⟨p, f⟩) s)
  ∧ (∀ p (f : Flit), p < s.ports.length → (s.port p).state ≠ 3 → (∀ x ∈ (s.port p).replay, x.tag = none) →
      trailer f / 2 ^ 4 % 16 = 4 → sound p f → ∃ t, next (.peerRetireFlit ⟨p, f⟩) t
      ∧ (t.port p).state = 3 ∧ (t.port p).replay = [] ∧ (t.port p).final = true
      ∧ t.fabric = s.fabric.filter (fun x => x.2 ≠ p) ∧ t.host.linksRet = s.host.linksRet + 1 ∧ t.host.replace = true)
  ∧ (∀ fabric routes, s.host.boot = 2 → s.host.fwNext = none → (∀ x ∈ fabric, x.2 < 24 ∧ (s.port x.2).state ≠ 3) →
      (∀ x ∈ routes, routeOk x.1 x.2 = true ∧ ∀ p, facePort x.1 x.2.face = some p → p < 24 ∧ (s.port p).state ≠ 3) →
      (∀ r, (routes.filter (fun x => x.1 = r)).length ≤ 1024) → ∃ t, next (.routeRegenerate fabric routes) t ∧ t.fabric = fabric
        ∧ t = { s with
            fabric := t.fabric
            routers := t.routers }
        ∧ t.routers.length = s.routers.length ∧ ∀ r, r < s.routers.length →
          t.router r = { s.router r with routes := (routes.filter (fun x => x.1 = r)).map (fun x => x.2) })
  ∧ (∀ facet core, powered facet → therm s facet core ≤ 1 → ∃ t, next (.thermHot facet core) t ∧ therm t facet core = 1
      ∧ t.host.therm = t.hottest)
  ∧ (∀ facet core, powered facet → therm s facet core ≤ 2 → ∃ t, next (.thermThrottle facet core) t ∧ therm t facet core = 2
      ∧ core ∈ (t.facet facet).stepping ∧ t.host.therm = t.hottest)
  ∧ (∀ facet, powered facet → (s.facet facet).stepping ≠ [] → (s.facet facet).steppedAt.toNat + 10000 ≤ (s.facet facet).ref.toNat →
      next (.throttleStep facet) (s.setFacet facet { s.facet facet with
        mhz := max 350 ((s.facet facet).mhz - 50)
        steppedAt := (s.facet facet).ref }))
  ∧ (∀ facet core, powered facet → ∃ t, next (.thermTrip facet core) t ∧ t.groups = [] ∧ t.launches = [] ∧ t.l2 = []
      ∧ (∀ f, f < s.facets.length → (t.facet f).powered = false) ∧ therm t facet core = 3 ∧ t.host.therm = t.hottest)
  ∧ (∀ facet core level, powered facet → therm s facet core ≠ 3 → ∃ t, next (.thermDrop facet core level) t
      ∧ therm t facet core = (if level = 0 then 0 else min (therm s facet core) 1)
      ∧ (level < 2 → core ∉ (t.facet facet).stepping) ∧ (2 ≤ level → (t.facet facet).stepping = (s.facet facet).stepping)
      ∧ t.host.therm = t.hottest)

/-- R43, R274, R290, R388 to R393, R404, R434 to R447: cold reset, the host port's registers, the commands of the driver with their
results, contexts and partitions, and the reference clock. A command while another runs sets OVER; after a DRAIN has begun only DRAIN is not
refused, and after a trip too (assumption 44). An FWUPD that names another verdict than the image's does nothing (assumptions 4 and 17), and
BIAS stops at a page with device requests and goes on later (assumption 45). Before the host port is trained the host reads nothing and
changes nothing; a cold reset verifies the image in flash and starts the firmware cores that it names, with what the image brings standing
beside it (assumptions 65 and 72). The descriptor of a context stands at the place that its creation gives (assumption 82). How far the
counters differ after a cold reset is the boot's, and a clock edge waits for what R274 promises (assumptions 72 and 78). That a cold reset
leaves no partition, context, queue or launch, no key but that of slot 0, an empty TLB, L2 and scratchpad, and 0 in memory that nothing has
written since, is the model's choice (assumptions 12, 47 and 3). The end of a context waits for its retiring tasks, and begins once its
requests on links that are down are performed (assumptions 81 and 107). -/
def Obligations.HostAndContextEvents : Prop := ∀ (s : State),
  let next := fun (i : Instr) (t : State) => exec i s = .next t
  let h := s.host
  let arg := fun (i : Nat) => (h.args.getD i 0).toNat
  let trained := h.boot = 2
  let idle := trained ∧ h.busy = false ∧ h.draining = false ∧ h.therm ≠ 3
  let begun := fun (op : BitVec 4) => ({ s with host := { h with drvcmd := op } } : State)
  let result := fun (t : State) (r : Byte) => ({ t with host := { t.host with
    result := r
    busy := false } } : State)
  let commands := fun (accepted : Bool) (version : Nat) => [(0x1#4, Instr.qclear), (0x3#4, .pageans), (0x4#4, .fwupd accepted version),
    (0x6#4, .attest), (0x7#4, .logset), (0x8#4, .prset), (0x0#4, .drvcmdBadOp 0), (0xF#4, .drvcmdBadOp 15)]
  let ring := fun (n v : Nat) => (∃ k, k ≤ 10 ∧ n = 64 * 2 ^ k) ∧ v < 2048
  let emptied := fun (n : Nat) (t : State) =>
    (∀ l ∈ t.launches, l.ctx ≠ n) ∧ (∀ g ∈ t.groups, g.ctx ≠ n) ∧ (∀ x ∈ t.names, x.ctx ≠ n) ∧ (∀ e ∈ t.tlb, e.ctx ≠ n)
    ∧ ∀ f ∈ t.facets, (∀ o ∈ f.objs, o.ctx ≠ n) ∧ (∀ r ∈ f.regions, r.ctx ≠ n) ∧ f.bank.owner ≠ some n
  (∀ b : Boot, ∃ t, next (.coldReset b) t ∧ t.peerId = b.peer ∧ t.parts = [] ∧ t.ctxs = [] ∧ t.queues = [] ∧ t.launches = []
      ∧ (Config.imageVerifies b.flash = true ∧ h.fwMin ≤ Config.imageVersion b.flash →
          t.host.boot = 1 ∧ t.host.fwImage = b.flash ∧ t.host.fwVersion = Config.imageVersion b.flash ∧ t.fwRoot = some b.root
          ∧ t.groups.length = b.start.length ∧ ∀ (i die : Nat) (pc : DWord), b.start[i]? = some (die, pc) → die < 16 →
            ∃ (g : Group) (w : Wave) (p : Path), t.groups[i]? = some g
            ∧ g.facet = die * 4 ∧ g.ctx = 0 ∧ g.stat = .resident ∧ g.waves = [w] ∧ w.core = 8 ∧ w.paths = [p] ∧ p.pc = pc
            ∧ w.present = BitVec.allOnes 64)
      ∧ (¬(Config.imageVerifies b.flash = true ∧ h.fwMin ≤ Config.imageVersion b.flash) →
          t.host.boot = 0 ∧ t.fwRoot = none ∧ t.groups = [] ∧ ∀ a, a < 2 ^ 48 → t.mem.read a = 0)
      ∧ t.keys = [(0, 0)] ∧ t.routers.length = 18 ∧ t.ports = State.reset.ports ∧ t.spad = [] ∧ t.tlb = [] ∧ t.l2 = []
      ∧ t.host.coresOut = (bootOut b).length ∧ t.host.banksOut = (bootBanks b).length ∧ t.host.busy = false ∧ t.host.draining = false
      ∧ (∀ r, r < 18 → t.router r = { Router.reset with ref := BitVec.ofNat 64 (b.skew.getD (64 + r) 0) })
      ∧ ∀ f, f < 64 → (t.facet f).ref = BitVec.ofNat 64 (b.skew.getD f 0) ∧ (t.facet f).powered = true ∧ ∀ c, c < 8 → bit (t.facet f).cores c = !(bootOut b).contains (f, c))
  ∧ (∀ rate width cxl, (h.boot = 0 → next (.hostPortTrain rate width cxl) s)
      ∧ (h.boot ≠ 0 → next (.hostPortTrain rate width cxl) { s with host := { h with
        rate := rate
        width := width
        cxl := cxl
        boot := 2 } }))
  ∧ (¬trained → (∀ off, s.readBar0 off = none) ∧ (∀ v, next (.healthWrite v) s ∧ next (.drvstatWrite v) s)
      ∧ (∀ off v, next (.registerWrite off v) s) ∧ (∀ accepted version, ∀ x ∈ commands accepted version, next x.2 s)
      ∧ next .bias s ∧ next .drain s ∧ ∀ p, next (.trainingRetry p) s)
  ∧ (trained → ∀ off, s.readBar0 off = some (s.bar0 off))
  ∧ (trained → ∀ v : DWord, next (.healthWrite v) { s with host := { h with
        qerr := h.qerr && !v.getLsbD 8
        lognew := h.lognew && !v.getLsbD 7 } })
  ∧ (trained → ∀ v : DWord, next (.drvstatWrite v) { s with host := { h with overrun := h.overrun && !v.getLsbD 1 } })
  ∧ (trained → ∀ off (v : DWord), h.args.length = 4 → ∃ t, next (.registerWrite off v) t ∧ t = { s with host := t.host }
      ∧ (off ∈ [0x50, 0x58, 0x60, 0x68] → t.bar0 off = v) ∧ (off = 0x08 → t.bar0 off = v &&& 0xF000000000#64)
      ∧ (off ∉ [0x08, 0x50, 0x58, 0x60, 0x68] → t = s) ∧ ∀ x, x ≠ off → t.bar0 x = s.bar0 x)
  ∧ (trained → ∀ accepted version, ∀ x ∈ commands accepted version, (h.busy = true → next x.2 { s with host := { h with overrun := true } })
      ∧ (h.busy = false → h.draining = true ∨ h.therm = 3 → next x.2 (result (begun x.1) 3)))
  ∧ (idle → ∀ op : BitVec 4, (op = 0 ∨ 9 ≤ op.toNat) → next (.drvcmdBadOp op) (result (begun op) 1))
  ∧ (idle → ∀ q, s.queues.find? (fun x => x.ctx = arg 1 % 2 ^ 16 && x.va.toNat = arg 0) = some q → s.qState q = 3 → arg 2 ≤ 2 →
      arg 1 < 2 ^ 16 → next .qclear (result ((begun 1).clearQueue q (arg 2)) 0))
  ∧ (idle → arg 0 % 4096 = 0 → 1 ≤ arg 1 → arg 1 ≤ 262144 → arg 2 ≤ 1 → arg 0 + 4096 * arg 1 ≤ 2 ^ 40 →
      (arg 2 = 0 → ∀ i, i < arg 1 → s.pageBusy (arg 0 / 4096 + i) = false) → ∃ t, next .bias t ∧ t.host.result = 0 ∧ t.host.busy = false
        ∧ t.mem = s.mem ∧ ∀ page, page ∈ t.devBias ↔ (if arg 0 / 4096 ≤ page ∧ page < arg 0 / 4096 + arg 1 then arg 2 = 1 else page ∈ s.devBias))
  ∧ (idle → arg 0 % 4096 = 0 → arg 1 ≤ 262144 → arg 2 = 0 → arg 0 + 4096 * arg 1 ≤ 2 ^ 40 →
      (∃ i, i < arg 1 ∧ s.pageBusy (arg 0 / 4096 + i) = true) → ∃ t, next .bias t ∧ t.host.busy = true ∧ t.mem = s.mem)
  ∧ (idle → arg 1 ≤ 1 → next .pageans (result ((begun 3).answer (arg 0) (arg 1 = 0)) 0))
  ∧ (idle → arg 0 % 4096 = 0 → arg 0 + arg 1 ≤ 2 ^ 40 → arg 1 ≠ 0 →
      let image := s.readBytes 0 (arg 0) (arg 1)
      let version := Config.imageVersion image
      (Config.imageVerifies image = true → h.fwMin ≤ version → h.fwVersion ≤ version →
        next (.fwupd true version) { s with host := { h with
          drvcmd := 4
          fwBusy := true
          busy := true
          fwNext := some version
          fwNew := image } })
      ∧ (Config.imageVerifies image = false ∨ version < h.fwMin ∨ version < h.fwVersion →
        next (.fwupd (Config.imageVerifies image) version) (result (begun 4) 2))
      ∧ (∀ accepted v, (accepted, v) ≠ (Config.imageVerifies image, version) → next (.fwupd accepted v) s))
  ∧ (∀ v, h.fwNext = some v → ∃ t, next .fwupdSwitch t ∧ t.host.fwVersion = v ∧ t.host.fwImage = h.fwNew ∧ t.host.fwNext = none ∧ t.host.result = 0
      ∧ t.host.busy = false ∧ t.host.fwBusy = false ∧ t.host.fwHeld = [])
  ∧ (trained → h.busy = false → arg 0 % 2 ^ 21 = 0 → (∃ f, f < 64 ∧ (arg 1).testBit f = true) →
      arg 0 + 2 ^ 40 ≤ 2 ^ 48 → arg 2 + 64 ≤ 2 ^ 48 → ∃ t, next .drain t ∧ t.host.draining = true
      ∧ t.host.busy = true ∧ t.host.runArgs = h.args
      ∧ ∀ f, f < s.facets.length → f < 64 → (arg 1).testBit f = true → (t.facet f).stopped = true)
  ∧ (h.draining = true → h.busy = true →
      let drains := fun (g : Group) => g.stat = .resident ∧ g.firmware = false ∧ g.facet < 64
        ∧ (h.runArgs.getD 1 0).toNat.testBit g.facet = true
      ((∀ g ∈ s.groups, ¬drains g) → ∃ t, next .drainComplete t ∧ t.host.drained = true ∧ t.host.result = 0 ∧ t.host.busy = false
        ∧ (t.groups, t.queues, t.facets, t.spad) = (s.groups, s.queues, s.facets, s.spad)
        ∧ ∀ a, a < 2 ^ 48 → t.mem.read a = s.mem.read a)
      ∧ ∀ g, s.groups = [g] → drains g → g.leaving = false → s.engineOut g = true →
        next .drainComplete (s.updGroup g.id (fun y => { y with preempt := some ⟨(s.facet g.facet).ref, true⟩ })))
  ∧ (idle → arg 0 + 64 ≤ 2 ^ 48 → arg 1 + 388 ≤ 2 ^ 48 → let r := s.report (s.readBytes 0 (hostKey (arg 0)) 64)
      next .attest (result ((begun 6).writeRaw 0 (hostKey (arg 1)) (r ++ sized 132 (Config.signature r))) 0) ∧ r.length = 256)
  ∧ (idle → ring (arg 1) (arg 2) → arg 0 + 32 * arg 1 ≤ 2 ^ 48 →
      next .logset { s with host := { h with
        drvcmd := 7
        logBase := BitVec.ofNat 64 (arg 0)
        logSize := arg 1
        logVec := arg 2
        logTail := 0
        result := 0
        busy := false } }
      ∧ next .prset { s with host := { h with
        drvcmd := 8
        prBase := BitVec.ofNat 64 (arg 0)
        prSize := arg 1
        prVec := arg 2
        prTail := 0
        result := 0
        busy := false } })
  ∧ (∀ n c, s.descOf n = some c → s.facets.length ≤ 64 → (∀ x ∈ s.ctxs, x.num ≠ n → meets c.area 64 x.area 64 = false) →
      (c.ending = false → (∃ l ∈ s.launches, l.ctx = n ∧ s.launchOut l.id = true) → next (.contextEnd n) s)
      ∧ (c.ending = false → (∀ l ∈ s.launches, l.ctx = n → s.launchOut l.id = false) → ∃ t, next (.contextEnd n) t
        ∧ (c.num < 2 ^ 16 → c.kslot < 1024 → c.pbase < 64 → c.plog2 < 8 → c.root < 2 ^ 40 → (∀ x ∈ s.ctxs, x.num = n → x = c) →
            (∀ q ∈ s.queues, meets c.area 64 (q.key + 16) 8 = false) → (∀ l ∈ s.launches, l.ctx ≠ n) → (∀ g ∈ s.groups, g.ctx ≠ n) →
            (∀ f ∈ s.facets, ∀ o ∈ f.objs, o.ctx ≠ n) → t.descOf n = some { c with ending := true })
        ∧ (∀ q ∈ t.queues, q.ctx ≠ n)
        ∧ ((∀ g ∈ s.groups, g.ctx = n → g.launch ≠ none → g.leaving = false ∧ ∃ l ∈ s.launches, l.ctx = n ∧ g.launch = some l.id) →
            (∀ g ∈ s.groups, g.ctx = n → g.launch = none → ∀ w ∈ g.waves, ∀ k ∈ w.cmds, k.done = true) → emptied n t)
        ∧ ((∀ g ∈ s.groups, g.leaving = true) → ∀ g ∈ s.groups, g.ctx = n → g.launch ≠ none → ∃ x ∈ t.groups, x.id = g.id))
      ∧ (c.ending = true → (∃ g ∈ s.groups, g.ctx = n ∧ g.launch ≠ none) → next (.contextEnd n) s)
      ∧ (c.ending = true → (∀ g ∈ s.groups, g.ctx = n → g.launch = none ∧ g.stat = .exited) →
          (∃ g ∈ s.groups, g.ctx = n ∧ ∃ w ∈ g.waves, ∃ k ∈ w.cmds, k.done = false) → ∃ t, next (.contextEnd n) t ∧ t.groups = s.groups)
      ∧ (c.ending = true → (∀ g ∈ s.groups, g.ctx = n → g.launch = none ∧ ∀ w ∈ g.waves, ∀ k ∈ w.cmds, k.done = true) → let u := s.emptyContext c
        emptied n u
        ∧ (u.pinsLeft (fun _ p => p.owner = n) = false → ∃ t, next (.contextEnd n) t ∧ t.descOf n = none ∧ (∀ k ∈ t.keys, k.2 ≠ n))
        ∧ (u.pinsLeft (fun _ p => p.owner = n) = true → next (.contextEnd n) u)))
  ∧ (∀ base log2 shelf reserve, log2 ≤ 6 → base + 2 ^ log2 ≤ 64 → base % 2 ^ log2 = 0 → shelf ≤ 128 → reserve ≤ 2 ^ 34 → trained → h.fwNext = none →
      s.ctxs = [] → s.parts = [] → (∀ f, f < 64 → (s.facet f).part = none) → ∃ t, next (.partitionChange base log2 shelf reserve) t
        ∧ t.parts = [(base, log2)] ∧ t.facets.length = s.facets.length ∧ (∀ r ∈ t.routers, r.shelf = [])
        ∧ ∀ f, f < s.facets.length → f < 64 → t.facet f = if base ≤ f ∧ f < base + 2 ^ log2 then
            (s.facet f).moved (some (base, log2)) shelf reserve else s.facet f)
  ∧ (∀ c : CtxDesc, trained → 0 < c.num → c.num < 2 ^ 16 → 0 < c.kslot → c.kslot < 1024 → c.nspace.toNat / 2 ^ 22 = s.peerId →
      c.nspace.toNat % 2 ^ 22 ≠ 0x3FFFFF → (c.pbase, c.plog2) ∈ s.parts → c.pbase < 64 → c.root % 65536 = 0 → c.root < 2 ^ 40 →
      ctxOwns c (homeFacet c.root) = true → c.area % 64 = 0 → c.area < 2 ^ 40 → c.plog2 ≤ 6 →
      (∀ x ∈ s.ctxs, x.num ≠ c.num ∧ x.kslot ≠ c.kslot ∧ x.nspace ≠ c.nspace ∧ meets c.area 64 x.area 64 = false) →
      ∃ t, next (.contextCreate c) t ∧ t.ctxs = s.ctxs ++ [{ c with ending := false }]
        ∧ ((∀ q ∈ s.queues, meets c.area 64 (q.key + 16) 8 = false) →
          t.readNum 0 c.area 64 = c.nspace.toNat * 2 ^ 224 + c.num * 2 ^ 208 + c.kslot * 2 ^ 198 + c.pbase * 2 ^ 192
            + c.plog2 * 2 ^ 189 + c.root * 2 ^ 144 + 1))
  ∧ (s.owesIssue = true → next .referenceClockEdge s)
  ∧ (s.owesIssue = false → ∃ t, next .referenceClockEdge t ∧ t.edges = s.edges + 1
      ∧ ((∀ c ∈ s.ctxs, c.ending = false) → t.mem = s.mem ∧ t.spad = s.spad)
      ∧ ((∀ c ∈ s.ctxs, c.ending = false) → ∀ lid l, s.launch? lid = some l → ∃ x, t.launch? lid = some x ∧ (l.cancel = false → x = l)
        ∧ (l.cancel = true → l.cancelAt + 200 ≤ s.edges + 1 → x.bits = BitVec.allOnes 64))
      ∧ (∀ f, f < s.facets.length → (t.facet f).ref = (s.facet f).ref + 1)
      ∧ ∀ r, r < s.routers.length → (t.router r).ref = (s.router r).ref + 1)

/-! ### The machine as a whole -/

/-- R15, R49, R53, R61: no instruction is refused, and no device event stops. An instruction of the word goes on wherever a wave is set to
issue, and only there; the guard selects its lanes; with no active lane it does nothing but go on; and an operand that names nothing is
the illegal-operand fault, whatever the guard. That a device event that is not due is a next state, and no stop, is the model's choice
(assumption 17); where no wave is set to issue, an instruction has no issuer, and the stop is the model's own, by its own field `cur`
(assumption 58). -/
def Obligations.IssueRules : Prop :=
  (∀ i s r, exec i s ≠ .refused r)
  ∧ (∀ i s, isEvent i = true → ∃ t, exec i s = .next t)
  ∧ (∀ i op f s, wordOf i = some (op, f) → (s.context f = none → exec i s = .fault .noIssuer)
      ∧ ∀ c, s.context f = some c →
        (∃ t, exec i s = .next t)
        ∧ (c.act = 0 → ∃ t, exec i s = .next t ∧ (Computes (fun _ => []) s c t ∨ Faults codeOperand s c t))
        ∧ ((∃ x, f.d = .bad x ∨ f.a = .bad x ∨ f.b = .bad x) → ∃ t, exec i s = .next t ∧ Faults codeOperand s c t))
  ∧ (∀ (s : State) (f : Form) (c : Ctx), s.context f = some c →
      (f.guard.pred = 7#3 → c.act = if f.guard.neg then 0 else c.path.mask)
      ∧ (f.guard.pred ≠ 7#3 → c.wave.fresh = [] →
          c.act = c.path.mask &&& (if f.guard.neg then ~~~c.wave.p? f.guard.pred.toNat else c.wave.p? f.guard.pred.toNat)))

/-- R46, R47, R61: a step takes the turn that the agenda names first (the agenda is the model's choice, assumption 1). A wave's turn
fetches the twelve bytes at its PC, least significant first, and runs the instruction that they decode to, and then what its group's waves
can complete among themselves; a word that is no instruction is the illegal-instruction fault; a device event is run as it is. After each
turn the receivers that wait at an escalation port take what has come to it (R347, assumption 73), and senders that wait at a port a place
that is free (R345). -/
def Obligations.StepRunsDecoded : Prop := ∀ (s : State) (rest : List Turn),
  let s' := { s with
    tick := s.tick + 1
    agenda := rest }
  (∀ g w, s.agenda = .issue g w :: rest →
      (∀ t x i, s'.fetchTurn g w = .ok (t, x) → decodeWord x = .ok i →
          step s = onNext (fun u => ((t.noteIssue g w u).settle g).servePorts) (exec i t))
      ∧ (∀ t x e, s'.fetchTurn g w = .ok (t, x) → decodeWord x = .error e → step s = .next ((t.noteIssue g w t.illegalWord).settle g).servePorts)
      ∧ (∀ t, s'.fetchTurn g w = .error t → step s = .next (t.settle g).servePorts))
  ∧ (∀ i, s.agenda = .event i :: rest → isEvent i = true → step s = onNext (fun u => u.settleAll.servePorts) (exec i s'))
  ∧ (∀ g w (grp : Group) (wv : Wave) (p : Path) pins u k o m, s.group? g = some grp → grp.wave? w = some wv → grp.issuable wv = true →
      s.mustStop grp = false → (∀ x, grp.preempt = some x → (s.facet grp.facet).ref.toNat ≤ x.deadline.toNat) → wv.startRun.choose = some p → (p.pc.toNat + 11) / 4096 = p.pc.toNat / 4096 →
      let t := { (s'.updWave g w (fun _ => wv.startRun)).startClock grp wv.startRun with cur := some (g, w) }
      t.translateAll grp.facet wv.core grp.ctx .fetch [p.pc.toNat] [] = (.ok pins, u) → pinned pins p.pc.toNat = some (k, o, m) → s.bad = [] →
      (∀ l ∈ s.l2, l.bad = []) →
      (∀ r ∈ s.icache, grp.ctx ∉ r.ctxs) →
      ∃ v, s'.fetchTurn g w = .ok (v, BitVec.ofNat 96 (ofBytes ((List.range 12).map (fun j => u.loadPinned pins (p.pc.toNat + j)))))
        ∧ v.cur = some (g, w) ∧ v.mem = s.mem)

/-- R46 to R61: decoding the word of a well-formed instruction gives that instruction, with whatever bytes follow it; a word that decodes
is the word of the well-formed instruction that it decodes to; and a device event, and nothing else, has no word. -/
def Obligations.DecodeEncodeRoundTrip : Prop :=
  (∀ i x bs, wellFormed i = true → encodeWord i = some x → decodeWord x = .ok i ∧ decode (toBytes 12 x.toNat ++ bs) = .ok (i, bs))
  ∧ (∀ x i, decodeWord x = .ok i → wellFormed i = true ∧ encodeWord i = some x)
  ∧ (∀ i, isEvent i = true ↔ encodeWord i = none)

/-- R46, R49: words that the spec writes out decode to the instructions that it writes them for, and words with an OP that is not
assigned, with a reserved hint bit, with a field that is not used, or with bits of IMM that are not used, decode to none (R52, R54,
R62). -/
def Obligations.DecodedWords : Prop :=
  let always : Guard := ⟨false, 7#3⟩
  let plain : Hints := ⟨false, false, false, 0#2⟩
  let switch : Hints := ⟨true, false, false, 0#2⟩
  let is := fun (w : Nat) (i : Instr) => decodeTableWord 96 w = some i
  is 0x0000E00E00E0070000000000 (.nop ⟨0#4, .b32, .none, .none, .none, always, plain, 0#32⟩)
  ∧ is 0x4B0300800900A2800000000B (.ffma ⟨0#4, .f32, .v 8, .v 9, .v 10, ⟨false, 2#3⟩, switch, 0xB#32⟩)
  ∧ is 0x0100E00E00E0010012C00002 (.bra ⟨0#4, .b32, .none, .none, .none, ⟨false, 1#3⟩, plain, 0x12C00002#32⟩)
  ∧ is 0x403000100082078000000000 (.shfl ⟨3#4, .b32, .v 1, .v 0, .imm 32#9, always, switch, 0#32⟩)
  ∧ is 0x680760001043010000000411 (.mma ⟨0#4, .f16, .a 0, .v 16, .m 0, ⟨false, 1#3⟩, plain, 0x411#32⟩)
  ∧ is 0x860200400280170001900040 (.ats ⟨0#4, .n32, .v 4, .v 2, .imm 1#9, always, plain, 0x01900040#32⟩)
  ∧ is 0x0830202401E0070000000000 (.vote ⟨3#4, .b32, .s 2, .p 1, .none, always, plain, 0#32⟩)
  ∧ is 0xB800208414E0070000000000 (.wwait ⟨0#4, .b32, .s 8, .h 4, .none, always, plain, 0#32⟩)
  ∧ is 0xC000E0020820C70000000412 (.nwant ⟨0#4, .b32, .none, .s 8, .s 12, always, plain, 0x412#32⟩)
  ∧ is 0xD404A30204E0070000000000 (.sysw ⟨0#4, .b64, .sys 0x30#9, .s 4, .none, always, plain, 0#32⟩)
  ∧ ∀ w ∈ [0x1600E00E00E0070000000000, 0x0000E00E00E0070100000000, 0x0000E00E0010070000000000, 0x0000E00E00E0070000000001],
      decodeTableWord 96 w = none

/-- The package is whole in every state that a step from a whole state reaches: main memory and the scratchpad stay in canonical form,
and no facet, router or port is lost (R20, R364, R429). -/
def Obligations.StepKeepsWhole : Prop := ∀ s t : State, s.whole = true → step s = .next t → t.whole = true

/-- R43, R364, R436 to R440, R447: after cold reset the package is whole; every reference counter and every register of BAR0 reads 0;
no partition, context, queue, launch, wave or name exists; and every link port is down. That none of these exists, nor an object, region,
lend, matrix queue entry or router entry, is read from R447 and R43 and is the model's (assumption 12), and so are the registers of BAR0
that the spec gives no reset value (assumption 7). The host port is not trained (assumption 72). What memory that nothing has written
reads as is no rule of the spec (assumption 3). -/
def Obligations.ResetState : Prop :=
  let s := State.reset
  s.whole = true ∧ (∀ f, f < 64 → (s.facet f).ref = 0 ∧ (s.facet f).part = none ∧ (s.facet f).regions = [] ∧ (s.facet f).objs = [])
  ∧ (∀ r, r < 18 → (s.router r).ref = 0 ∧ (s.router r).entries = [] ∧ (s.router r).shelf = [])
  ∧ (∀ p, p < 24 → (s.port p).state = 0 ∧ (s.port p).bucket = 0 ∧ (s.port p).retrains = 0) ∧ (∀ off, s.bar0 off = 0)
  ∧ (s.parts, s.ctxs, s.queues, s.launches, s.groups) = ([], [], [], [], [])
  ∧ (s.names, s.lends, s.matq, s.net, s.fabric) = ([], [], [], [], []) ∧ (∀ off, s.readBar0 off = none)
end

