-- ==== Sys2Proof/Laws/State.lean ====
section
/-! SUPPORT. What each update of a record leaves: one lemma for each field that an update does not write. -/

namespace Sys2Proof.Machine

open Sys2Proof

/-! ### One group changed -/

@[simp] theorem State.updGroup_tick (s : State) (g : Nat) (f : Group → Group) : (s.updGroup g f).tick = s.tick := rfl
@[simp] theorem State.updGroup_edges (s : State) (g : Nat) (f : Group → Group) : (s.updGroup g f).edges = s.edges := rfl
@[simp] theorem State.updGroup_nextId (s : State) (g : Nat) (f : Group → Group) : (s.updGroup g f).nextId = s.nextId := rfl
@[simp] theorem State.updGroup_agenda (s : State) (g : Nat) (f : Group → Group) : (s.updGroup g f).agenda = s.agenda := rfl
@[simp] theorem State.updGroup_cur (s : State) (g : Nat) (f : Group → Group) : (s.updGroup g f).cur = s.cur := rfl
@[simp] theorem State.updGroup_peerId (s : State) (g : Nat) (f : Group → Group) : (s.updGroup g f).peerId = s.peerId := rfl
@[simp] theorem State.updGroup_mem (s : State) (g : Nat) (f : Group → Group) : (s.updGroup g f).mem = s.mem := rfl
@[simp] theorem State.updGroup_keyed (s : State) (g : Nat) (f : Group → Group) : (s.updGroup g f).keyed = s.keyed := rfl
@[simp] theorem State.updGroup_bad (s : State) (g : Nat) (f : Group → Group) : (s.updGroup g f).bad = s.bad := rfl
@[simp] theorem State.updGroup_spad (s : State) (g : Nat) (f : Group → Group) : (s.updGroup g f).spad = s.spad := rfl
@[simp] theorem State.updGroup_badSpad (s : State) (g : Nat) (f : Group → Group) : (s.updGroup g f).badSpad = s.badSpad := rfl
@[simp] theorem State.updGroup_icache (s : State) (g : Nat) (f : Group → Group) : (s.updGroup g f).icache = s.icache := rfl
@[simp] theorem State.updGroup_tlb (s : State) (g : Nat) (f : Group → Group) : (s.updGroup g f).tlb = s.tlb := rfl
@[simp] theorem State.updGroup_l2 (s : State) (g : Nat) (f : Group → Group) : (s.updGroup g f).l2 = s.l2 := rfl
@[simp] theorem State.updGroup_devBias (s : State) (g : Nat) (f : Group → Group) : (s.updGroup g f).devBias = s.devBias := rfl
@[simp] theorem State.updGroup_hostHeld (s : State) (g : Nat) (f : Group → Group) : (s.updGroup g f).hostHeld = s.hostHeld := rfl
@[simp] theorem State.updGroup_migCount (s : State) (g : Nat) (f : Group → Group) : (s.updGroup g f).migCount = s.migCount := rfl
@[simp] theorem State.updGroup_migPass (s : State) (g : Nat) (f : Group → Group) : (s.updGroup g f).migPass = s.migPass := rfl
@[simp] theorem State.updGroup_parts (s : State) (g : Nat) (f : Group → Group) : (s.updGroup g f).parts = s.parts := rfl
@[simp] theorem State.updGroup_fwRoot (s : State) (g : Nat) (f : Group → Group) : (s.updGroup g f).fwRoot = s.fwRoot := rfl
@[simp] theorem State.updGroup_ctxs (s : State) (g : Nat) (f : Group → Group) : (s.updGroup g f).ctxs = s.ctxs := rfl
@[simp] theorem State.updGroup_keys (s : State) (g : Nat) (f : Group → Group) : (s.updGroup g f).keys = s.keys := rfl
@[simp] theorem State.updGroup_names (s : State) (g : Nat) (f : Group → Group) : (s.updGroup g f).names = s.names := rfl
@[simp] theorem State.updGroup_lends (s : State) (g : Nat) (f : Group → Group) : (s.updGroup g f).lends = s.lends := rfl
@[simp] theorem State.updGroup_queues (s : State) (g : Nat) (f : Group → Group) : (s.updGroup g f).queues = s.queues := rfl
@[simp] theorem State.updGroup_launches (s : State) (g : Nat) (f : Group → Group) : (s.updGroup g f).launches = s.launches := rfl
@[simp] theorem State.updGroup_matq (s : State) (g : Nat) (f : Group → Group) : (s.updGroup g f).matq = s.matq := rfl
@[simp] theorem State.updGroup_facets (s : State) (g : Nat) (f : Group → Group) : (s.updGroup g f).facets = s.facets := rfl
@[simp] theorem State.updGroup_routers (s : State) (g : Nat) (f : Group → Group) : (s.updGroup g f).routers = s.routers := rfl
@[simp] theorem State.updGroup_net (s : State) (g : Nat) (f : Group → Group) : (s.updGroup g f).net = s.net := rfl
@[simp] theorem State.updGroup_ports (s : State) (g : Nat) (f : Group → Group) : (s.updGroup g f).ports = s.ports := rfl
@[simp] theorem State.updGroup_fabric (s : State) (g : Nat) (f : Group → Group) : (s.updGroup g f).fabric = s.fabric := rfl
@[simp] theorem State.updGroup_outbox (s : State) (g : Nat) (f : Group → Group) : (s.updGroup g f).outbox = s.outbox := rfl
@[simp] theorem State.updGroup_host (s : State) (g : Nat) (f : Group → Group) : (s.updGroup g f).host = s.host := rfl
@[simp] theorem State.updGroup_irqs (s : State) (g : Nat) (f : Group → Group) : (s.updGroup g f).irqs = s.irqs := rfl
@[simp] theorem State.updGroup_faults (s : State) (g : Nat) (f : Group → Group) : (s.updGroup g f).faults = s.faults := rfl
@[simp] theorem State.updGroup_esc (s : State) (g : Nat) (f : Group → Group) : (s.updGroup g f).esc = s.esc := rfl
@[simp] theorem State.updGroup_escWait (s : State) (g : Nat) (f : Group → Group) : (s.updGroup g f).escWait = s.escWait := rfl

/-! ### One wave changed -/

@[simp] theorem State.updWave_tick (s : State) (g w : Nat) (f : Wave → Wave) : (s.updWave g w f).tick = s.tick := rfl
@[simp] theorem State.updWave_edges (s : State) (g w : Nat) (f : Wave → Wave) : (s.updWave g w f).edges = s.edges := rfl
@[simp] theorem State.updWave_nextId (s : State) (g w : Nat) (f : Wave → Wave) : (s.updWave g w f).nextId = s.nextId := rfl
@[simp] theorem State.updWave_agenda (s : State) (g w : Nat) (f : Wave → Wave) : (s.updWave g w f).agenda = s.agenda := rfl
@[simp] theorem State.updWave_cur (s : State) (g w : Nat) (f : Wave → Wave) : (s.updWave g w f).cur = s.cur := rfl
@[simp] theorem State.updWave_peerId (s : State) (g w : Nat) (f : Wave → Wave) : (s.updWave g w f).peerId = s.peerId := rfl
@[simp] theorem State.updWave_mem (s : State) (g w : Nat) (f : Wave → Wave) : (s.updWave g w f).mem = s.mem := rfl
@[simp] theorem State.updWave_keyed (s : State) (g w : Nat) (f : Wave → Wave) : (s.updWave g w f).keyed = s.keyed := rfl
@[simp] theorem State.updWave_bad (s : State) (g w : Nat) (f : Wave → Wave) : (s.updWave g w f).bad = s.bad := rfl
@[simp] theorem State.updWave_spad (s : State) (g w : Nat) (f : Wave → Wave) : (s.updWave g w f).spad = s.spad := rfl
@[simp] theorem State.updWave_badSpad (s : State) (g w : Nat) (f : Wave → Wave) : (s.updWave g w f).badSpad = s.badSpad := rfl
@[simp] theorem State.updWave_icache (s : State) (g w : Nat) (f : Wave → Wave) : (s.updWave g w f).icache = s.icache := rfl
@[simp] theorem State.updWave_tlb (s : State) (g w : Nat) (f : Wave → Wave) : (s.updWave g w f).tlb = s.tlb := rfl
@[simp] theorem State.updWave_l2 (s : State) (g w : Nat) (f : Wave → Wave) : (s.updWave g w f).l2 = s.l2 := rfl
@[simp] theorem State.updWave_devBias (s : State) (g w : Nat) (f : Wave → Wave) : (s.updWave g w f).devBias = s.devBias := rfl
@[simp] theorem State.updWave_hostHeld (s : State) (g w : Nat) (f : Wave → Wave) : (s.updWave g w f).hostHeld = s.hostHeld := rfl
@[simp] theorem State.updWave_migCount (s : State) (g w : Nat) (f : Wave → Wave) : (s.updWave g w f).migCount = s.migCount := rfl
@[simp] theorem State.updWave_migPass (s : State) (g w : Nat) (f : Wave → Wave) : (s.updWave g w f).migPass = s.migPass := rfl
@[simp] theorem State.updWave_parts (s : State) (g w : Nat) (f : Wave → Wave) : (s.updWave g w f).parts = s.parts := rfl
@[simp] theorem State.updWave_fwRoot (s : State) (g w : Nat) (f : Wave → Wave) : (s.updWave g w f).fwRoot = s.fwRoot := rfl
@[simp] theorem State.updWave_ctxs (s : State) (g w : Nat) (f : Wave → Wave) : (s.updWave g w f).ctxs = s.ctxs := rfl
@[simp] theorem State.updWave_keys (s : State) (g w : Nat) (f : Wave → Wave) : (s.updWave g w f).keys = s.keys := rfl
@[simp] theorem State.updWave_names (s : State) (g w : Nat) (f : Wave → Wave) : (s.updWave g w f).names = s.names := rfl
@[simp] theorem State.updWave_lends (s : State) (g w : Nat) (f : Wave → Wave) : (s.updWave g w f).lends = s.lends := rfl
@[simp] theorem State.updWave_queues (s : State) (g w : Nat) (f : Wave → Wave) : (s.updWave g w f).queues = s.queues := rfl
@[simp] theorem State.updWave_launches (s : State) (g w : Nat) (f : Wave → Wave) : (s.updWave g w f).launches = s.launches := rfl
@[simp] theorem State.updWave_matq (s : State) (g w : Nat) (f : Wave → Wave) : (s.updWave g w f).matq = s.matq := rfl
@[simp] theorem State.updWave_facets (s : State) (g w : Nat) (f : Wave → Wave) : (s.updWave g w f).facets = s.facets := rfl
@[simp] theorem State.updWave_routers (s : State) (g w : Nat) (f : Wave → Wave) : (s.updWave g w f).routers = s.routers := rfl
@[simp] theorem State.updWave_net (s : State) (g w : Nat) (f : Wave → Wave) : (s.updWave g w f).net = s.net := rfl
@[simp] theorem State.updWave_ports (s : State) (g w : Nat) (f : Wave → Wave) : (s.updWave g w f).ports = s.ports := rfl
@[simp] theorem State.updWave_fabric (s : State) (g w : Nat) (f : Wave → Wave) : (s.updWave g w f).fabric = s.fabric := rfl
@[simp] theorem State.updWave_outbox (s : State) (g w : Nat) (f : Wave → Wave) : (s.updWave g w f).outbox = s.outbox := rfl
@[simp] theorem State.updWave_host (s : State) (g w : Nat) (f : Wave → Wave) : (s.updWave g w f).host = s.host := rfl
@[simp] theorem State.updWave_irqs (s : State) (g w : Nat) (f : Wave → Wave) : (s.updWave g w f).irqs = s.irqs := rfl
@[simp] theorem State.updWave_faults (s : State) (g w : Nat) (f : Wave → Wave) : (s.updWave g w f).faults = s.faults := rfl
@[simp] theorem State.updWave_esc (s : State) (g w : Nat) (f : Wave → Wave) : (s.updWave g w f).esc = s.esc := rfl
@[simp] theorem State.updWave_escWait (s : State) (g w : Nat) (f : Wave → Wave) : (s.updWave g w f).escWait = s.escWait := rfl

/-! ### One launch changed -/

@[simp] theorem State.updLaunch_tick (s : State) (l : Nat) (f : Launch → Launch) : (s.updLaunch l f).tick = s.tick := rfl
@[simp] theorem State.updLaunch_edges (s : State) (l : Nat) (f : Launch → Launch) : (s.updLaunch l f).edges = s.edges := rfl
@[simp] theorem State.updLaunch_nextId (s : State) (l : Nat) (f : Launch → Launch) : (s.updLaunch l f).nextId = s.nextId := rfl
@[simp] theorem State.updLaunch_agenda (s : State) (l : Nat) (f : Launch → Launch) : (s.updLaunch l f).agenda = s.agenda := rfl
@[simp] theorem State.updLaunch_cur (s : State) (l : Nat) (f : Launch → Launch) : (s.updLaunch l f).cur = s.cur := rfl
@[simp] theorem State.updLaunch_peerId (s : State) (l : Nat) (f : Launch → Launch) : (s.updLaunch l f).peerId = s.peerId := rfl
@[simp] theorem State.updLaunch_mem (s : State) (l : Nat) (f : Launch → Launch) : (s.updLaunch l f).mem = s.mem := rfl
@[simp] theorem State.updLaunch_keyed (s : State) (l : Nat) (f : Launch → Launch) : (s.updLaunch l f).keyed = s.keyed := rfl
@[simp] theorem State.updLaunch_bad (s : State) (l : Nat) (f : Launch → Launch) : (s.updLaunch l f).bad = s.bad := rfl
@[simp] theorem State.updLaunch_spad (s : State) (l : Nat) (f : Launch → Launch) : (s.updLaunch l f).spad = s.spad := rfl
@[simp] theorem State.updLaunch_badSpad (s : State) (l : Nat) (f : Launch → Launch) : (s.updLaunch l f).badSpad = s.badSpad := rfl
@[simp] theorem State.updLaunch_icache (s : State) (l : Nat) (f : Launch → Launch) : (s.updLaunch l f).icache = s.icache := rfl
@[simp] theorem State.updLaunch_tlb (s : State) (l : Nat) (f : Launch → Launch) : (s.updLaunch l f).tlb = s.tlb := rfl
@[simp] theorem State.updLaunch_l2 (s : State) (l : Nat) (f : Launch → Launch) : (s.updLaunch l f).l2 = s.l2 := rfl
@[simp] theorem State.updLaunch_devBias (s : State) (l : Nat) (f : Launch → Launch) : (s.updLaunch l f).devBias = s.devBias := rfl
@[simp] theorem State.updLaunch_hostHeld (s : State) (l : Nat) (f : Launch → Launch) : (s.updLaunch l f).hostHeld = s.hostHeld := rfl
@[simp] theorem State.updLaunch_migCount (s : State) (l : Nat) (f : Launch → Launch) : (s.updLaunch l f).migCount = s.migCount := rfl
@[simp] theorem State.updLaunch_migPass (s : State) (l : Nat) (f : Launch → Launch) : (s.updLaunch l f).migPass = s.migPass := rfl
@[simp] theorem State.updLaunch_parts (s : State) (l : Nat) (f : Launch → Launch) : (s.updLaunch l f).parts = s.parts := rfl
@[simp] theorem State.updLaunch_fwRoot (s : State) (l : Nat) (f : Launch → Launch) : (s.updLaunch l f).fwRoot = s.fwRoot := rfl
@[simp] theorem State.updLaunch_ctxs (s : State) (l : Nat) (f : Launch → Launch) : (s.updLaunch l f).ctxs = s.ctxs := rfl
@[simp] theorem State.updLaunch_keys (s : State) (l : Nat) (f : Launch → Launch) : (s.updLaunch l f).keys = s.keys := rfl
@[simp] theorem State.updLaunch_names (s : State) (l : Nat) (f : Launch → Launch) : (s.updLaunch l f).names = s.names := rfl
@[simp] theorem State.updLaunch_lends (s : State) (l : Nat) (f : Launch → Launch) : (s.updLaunch l f).lends = s.lends := rfl
@[simp] theorem State.updLaunch_queues (s : State) (l : Nat) (f : Launch → Launch) : (s.updLaunch l f).queues = s.queues := rfl
@[simp] theorem State.updLaunch_groups (s : State) (l : Nat) (f : Launch → Launch) : (s.updLaunch l f).groups = s.groups := rfl
@[simp] theorem State.updLaunch_matq (s : State) (l : Nat) (f : Launch → Launch) : (s.updLaunch l f).matq = s.matq := rfl
@[simp] theorem State.updLaunch_facets (s : State) (l : Nat) (f : Launch → Launch) : (s.updLaunch l f).facets = s.facets := rfl
@[simp] theorem State.updLaunch_routers (s : State) (l : Nat) (f : Launch → Launch) : (s.updLaunch l f).routers = s.routers := rfl
@[simp] theorem State.updLaunch_net (s : State) (l : Nat) (f : Launch → Launch) : (s.updLaunch l f).net = s.net := rfl
@[simp] theorem State.updLaunch_ports (s : State) (l : Nat) (f : Launch → Launch) : (s.updLaunch l f).ports = s.ports := rfl
@[simp] theorem State.updLaunch_fabric (s : State) (l : Nat) (f : Launch → Launch) : (s.updLaunch l f).fabric = s.fabric := rfl
@[simp] theorem State.updLaunch_outbox (s : State) (l : Nat) (f : Launch → Launch) : (s.updLaunch l f).outbox = s.outbox := rfl
@[simp] theorem State.updLaunch_host (s : State) (l : Nat) (f : Launch → Launch) : (s.updLaunch l f).host = s.host := rfl
@[simp] theorem State.updLaunch_irqs (s : State) (l : Nat) (f : Launch → Launch) : (s.updLaunch l f).irqs = s.irqs := rfl
@[simp] theorem State.updLaunch_faults (s : State) (l : Nat) (f : Launch → Launch) : (s.updLaunch l f).faults = s.faults := rfl
@[simp] theorem State.updLaunch_esc (s : State) (l : Nat) (f : Launch → Launch) : (s.updLaunch l f).esc = s.esc := rfl
@[simp] theorem State.updLaunch_escWait (s : State) (l : Nat) (f : Launch → Launch) : (s.updLaunch l f).escWait = s.escWait := rfl

/-! ### One queue changed -/

@[simp] theorem State.setQueue_tick (s : State) (q : Queue) : (s.setQueue q).tick = s.tick := rfl
@[simp] theorem State.setQueue_edges (s : State) (q : Queue) : (s.setQueue q).edges = s.edges := rfl
@[simp] theorem State.setQueue_nextId (s : State) (q : Queue) : (s.setQueue q).nextId = s.nextId := rfl
@[simp] theorem State.setQueue_agenda (s : State) (q : Queue) : (s.setQueue q).agenda = s.agenda := rfl
@[simp] theorem State.setQueue_cur (s : State) (q : Queue) : (s.setQueue q).cur = s.cur := rfl
@[simp] theorem State.setQueue_peerId (s : State) (q : Queue) : (s.setQueue q).peerId = s.peerId := rfl
@[simp] theorem State.setQueue_mem (s : State) (q : Queue) : (s.setQueue q).mem = s.mem := rfl
@[simp] theorem State.setQueue_keyed (s : State) (q : Queue) : (s.setQueue q).keyed = s.keyed := rfl
@[simp] theorem State.setQueue_bad (s : State) (q : Queue) : (s.setQueue q).bad = s.bad := rfl
@[simp] theorem State.setQueue_spad (s : State) (q : Queue) : (s.setQueue q).spad = s.spad := rfl
@[simp] theorem State.setQueue_badSpad (s : State) (q : Queue) : (s.setQueue q).badSpad = s.badSpad := rfl
@[simp] theorem State.setQueue_icache (s : State) (q : Queue) : (s.setQueue q).icache = s.icache := rfl
@[simp] theorem State.setQueue_tlb (s : State) (q : Queue) : (s.setQueue q).tlb = s.tlb := rfl
@[simp] theorem State.setQueue_l2 (s : State) (q : Queue) : (s.setQueue q).l2 = s.l2 := rfl
@[simp] theorem State.setQueue_devBias (s : State) (q : Queue) : (s.setQueue q).devBias = s.devBias := rfl
@[simp] theorem State.setQueue_hostHeld (s : State) (q : Queue) : (s.setQueue q).hostHeld = s.hostHeld := rfl
@[simp] theorem State.setQueue_migCount (s : State) (q : Queue) : (s.setQueue q).migCount = s.migCount := rfl
@[simp] theorem State.setQueue_migPass (s : State) (q : Queue) : (s.setQueue q).migPass = s.migPass := rfl
@[simp] theorem State.setQueue_parts (s : State) (q : Queue) : (s.setQueue q).parts = s.parts := rfl
@[simp] theorem State.setQueue_fwRoot (s : State) (q : Queue) : (s.setQueue q).fwRoot = s.fwRoot := rfl
@[simp] theorem State.setQueue_ctxs (s : State) (q : Queue) : (s.setQueue q).ctxs = s.ctxs := rfl
@[simp] theorem State.setQueue_keys (s : State) (q : Queue) : (s.setQueue q).keys = s.keys := rfl
@[simp] theorem State.setQueue_names (s : State) (q : Queue) : (s.setQueue q).names = s.names := rfl
@[simp] theorem State.setQueue_lends (s : State) (q : Queue) : (s.setQueue q).lends = s.lends := rfl
@[simp] theorem State.setQueue_launches (s : State) (q : Queue) : (s.setQueue q).launches = s.launches := rfl
@[simp] theorem State.setQueue_groups (s : State) (q : Queue) : (s.setQueue q).groups = s.groups := rfl
@[simp] theorem State.setQueue_matq (s : State) (q : Queue) : (s.setQueue q).matq = s.matq := rfl
@[simp] theorem State.setQueue_facets (s : State) (q : Queue) : (s.setQueue q).facets = s.facets := rfl
@[simp] theorem State.setQueue_routers (s : State) (q : Queue) : (s.setQueue q).routers = s.routers := rfl
@[simp] theorem State.setQueue_net (s : State) (q : Queue) : (s.setQueue q).net = s.net := rfl
@[simp] theorem State.setQueue_ports (s : State) (q : Queue) : (s.setQueue q).ports = s.ports := rfl
@[simp] theorem State.setQueue_fabric (s : State) (q : Queue) : (s.setQueue q).fabric = s.fabric := rfl
@[simp] theorem State.setQueue_outbox (s : State) (q : Queue) : (s.setQueue q).outbox = s.outbox := rfl
@[simp] theorem State.setQueue_host (s : State) (q : Queue) : (s.setQueue q).host = s.host := rfl
@[simp] theorem State.setQueue_irqs (s : State) (q : Queue) : (s.setQueue q).irqs = s.irqs := rfl
@[simp] theorem State.setQueue_faults (s : State) (q : Queue) : (s.setQueue q).faults = s.faults := rfl
@[simp] theorem State.setQueue_esc (s : State) (q : Queue) : (s.setQueue q).esc = s.esc := rfl
@[simp] theorem State.setQueue_escWait (s : State) (q : Queue) : (s.setQueue q).escWait = s.escWait := rfl

/-! ### One facet changed -/

@[simp] theorem State.updFacet_tick (s : State) (x : Nat) (f : Facet → Facet) : (s.updFacet x f).tick = s.tick := rfl
@[simp] theorem State.updFacet_edges (s : State) (x : Nat) (f : Facet → Facet) : (s.updFacet x f).edges = s.edges := rfl
@[simp] theorem State.updFacet_nextId (s : State) (x : Nat) (f : Facet → Facet) : (s.updFacet x f).nextId = s.nextId := rfl
@[simp] theorem State.updFacet_agenda (s : State) (x : Nat) (f : Facet → Facet) : (s.updFacet x f).agenda = s.agenda := rfl
@[simp] theorem State.updFacet_cur (s : State) (x : Nat) (f : Facet → Facet) : (s.updFacet x f).cur = s.cur := rfl
@[simp] theorem State.updFacet_peerId (s : State) (x : Nat) (f : Facet → Facet) : (s.updFacet x f).peerId = s.peerId := rfl
@[simp] theorem State.updFacet_mem (s : State) (x : Nat) (f : Facet → Facet) : (s.updFacet x f).mem = s.mem := rfl
@[simp] theorem State.updFacet_keyed (s : State) (x : Nat) (f : Facet → Facet) : (s.updFacet x f).keyed = s.keyed := rfl
@[simp] theorem State.updFacet_bad (s : State) (x : Nat) (f : Facet → Facet) : (s.updFacet x f).bad = s.bad := rfl
@[simp] theorem State.updFacet_spad (s : State) (x : Nat) (f : Facet → Facet) : (s.updFacet x f).spad = s.spad := rfl
@[simp] theorem State.updFacet_badSpad (s : State) (x : Nat) (f : Facet → Facet) : (s.updFacet x f).badSpad = s.badSpad := rfl
@[simp] theorem State.updFacet_icache (s : State) (x : Nat) (f : Facet → Facet) : (s.updFacet x f).icache = s.icache := rfl
@[simp] theorem State.updFacet_tlb (s : State) (x : Nat) (f : Facet → Facet) : (s.updFacet x f).tlb = s.tlb := rfl
@[simp] theorem State.updFacet_l2 (s : State) (x : Nat) (f : Facet → Facet) : (s.updFacet x f).l2 = s.l2 := rfl
@[simp] theorem State.updFacet_devBias (s : State) (x : Nat) (f : Facet → Facet) : (s.updFacet x f).devBias = s.devBias := rfl
@[simp] theorem State.updFacet_hostHeld (s : State) (x : Nat) (f : Facet → Facet) : (s.updFacet x f).hostHeld = s.hostHeld := rfl
@[simp] theorem State.updFacet_migCount (s : State) (x : Nat) (f : Facet → Facet) : (s.updFacet x f).migCount = s.migCount := rfl
@[simp] theorem State.updFacet_migPass (s : State) (x : Nat) (f : Facet → Facet) : (s.updFacet x f).migPass = s.migPass := rfl
@[simp] theorem State.updFacet_parts (s : State) (x : Nat) (f : Facet → Facet) : (s.updFacet x f).parts = s.parts := rfl
@[simp] theorem State.updFacet_fwRoot (s : State) (x : Nat) (f : Facet → Facet) : (s.updFacet x f).fwRoot = s.fwRoot := rfl
@[simp] theorem State.updFacet_ctxs (s : State) (x : Nat) (f : Facet → Facet) : (s.updFacet x f).ctxs = s.ctxs := rfl
@[simp] theorem State.updFacet_keys (s : State) (x : Nat) (f : Facet → Facet) : (s.updFacet x f).keys = s.keys := rfl
@[simp] theorem State.updFacet_names (s : State) (x : Nat) (f : Facet → Facet) : (s.updFacet x f).names = s.names := rfl
@[simp] theorem State.updFacet_lends (s : State) (x : Nat) (f : Facet → Facet) : (s.updFacet x f).lends = s.lends := rfl
@[simp] theorem State.updFacet_queues (s : State) (x : Nat) (f : Facet → Facet) : (s.updFacet x f).queues = s.queues := rfl
@[simp] theorem State.updFacet_launches (s : State) (x : Nat) (f : Facet → Facet) : (s.updFacet x f).launches = s.launches := rfl
@[simp] theorem State.updFacet_groups (s : State) (x : Nat) (f : Facet → Facet) : (s.updFacet x f).groups = s.groups := rfl
@[simp] theorem State.updFacet_matq (s : State) (x : Nat) (f : Facet → Facet) : (s.updFacet x f).matq = s.matq := rfl
@[simp] theorem State.updFacet_routers (s : State) (x : Nat) (f : Facet → Facet) : (s.updFacet x f).routers = s.routers := rfl
@[simp] theorem State.updFacet_net (s : State) (x : Nat) (f : Facet → Facet) : (s.updFacet x f).net = s.net := rfl
@[simp] theorem State.updFacet_ports (s : State) (x : Nat) (f : Facet → Facet) : (s.updFacet x f).ports = s.ports := rfl
@[simp] theorem State.updFacet_fabric (s : State) (x : Nat) (f : Facet → Facet) : (s.updFacet x f).fabric = s.fabric := rfl
@[simp] theorem State.updFacet_outbox (s : State) (x : Nat) (f : Facet → Facet) : (s.updFacet x f).outbox = s.outbox := rfl
@[simp] theorem State.updFacet_host (s : State) (x : Nat) (f : Facet → Facet) : (s.updFacet x f).host = s.host := rfl
@[simp] theorem State.updFacet_irqs (s : State) (x : Nat) (f : Facet → Facet) : (s.updFacet x f).irqs = s.irqs := rfl
@[simp] theorem State.updFacet_faults (s : State) (x : Nat) (f : Facet → Facet) : (s.updFacet x f).faults = s.faults := rfl
@[simp] theorem State.updFacet_esc (s : State) (x : Nat) (f : Facet → Facet) : (s.updFacet x f).esc = s.esc := rfl
@[simp] theorem State.updFacet_escWait (s : State) (x : Nat) (f : Facet → Facet) : (s.updFacet x f).escWait = s.escWait := rfl

/-! ### A counter -/

@[simp] theorem State.count_tick (s : State) (x ctx i n : Nat) : (s.count x ctx i n).tick = s.tick := rfl
@[simp] theorem State.count_edges (s : State) (x ctx i n : Nat) : (s.count x ctx i n).edges = s.edges := rfl
@[simp] theorem State.count_nextId (s : State) (x ctx i n : Nat) : (s.count x ctx i n).nextId = s.nextId := rfl
@[simp] theorem State.count_agenda (s : State) (x ctx i n : Nat) : (s.count x ctx i n).agenda = s.agenda := rfl
@[simp] theorem State.count_cur (s : State) (x ctx i n : Nat) : (s.count x ctx i n).cur = s.cur := rfl
@[simp] theorem State.count_peerId (s : State) (x ctx i n : Nat) : (s.count x ctx i n).peerId = s.peerId := rfl
@[simp] theorem State.count_mem (s : State) (x ctx i n : Nat) : (s.count x ctx i n).mem = s.mem := rfl
@[simp] theorem State.count_keyed (s : State) (x ctx i n : Nat) : (s.count x ctx i n).keyed = s.keyed := rfl
@[simp] theorem State.count_bad (s : State) (x ctx i n : Nat) : (s.count x ctx i n).bad = s.bad := rfl
@[simp] theorem State.count_spad (s : State) (x ctx i n : Nat) : (s.count x ctx i n).spad = s.spad := rfl
@[simp] theorem State.count_badSpad (s : State) (x ctx i n : Nat) : (s.count x ctx i n).badSpad = s.badSpad := rfl
@[simp] theorem State.count_icache (s : State) (x ctx i n : Nat) : (s.count x ctx i n).icache = s.icache := rfl
@[simp] theorem State.count_tlb (s : State) (x ctx i n : Nat) : (s.count x ctx i n).tlb = s.tlb := rfl
@[simp] theorem State.count_l2 (s : State) (x ctx i n : Nat) : (s.count x ctx i n).l2 = s.l2 := rfl
@[simp] theorem State.count_devBias (s : State) (x ctx i n : Nat) : (s.count x ctx i n).devBias = s.devBias := rfl
@[simp] theorem State.count_hostHeld (s : State) (x ctx i n : Nat) : (s.count x ctx i n).hostHeld = s.hostHeld := rfl
@[simp] theorem State.count_migCount (s : State) (x ctx i n : Nat) : (s.count x ctx i n).migCount = s.migCount := rfl
@[simp] theorem State.count_migPass (s : State) (x ctx i n : Nat) : (s.count x ctx i n).migPass = s.migPass := rfl
@[simp] theorem State.count_parts (s : State) (x ctx i n : Nat) : (s.count x ctx i n).parts = s.parts := rfl
@[simp] theorem State.count_fwRoot (s : State) (x ctx i n : Nat) : (s.count x ctx i n).fwRoot = s.fwRoot := rfl
@[simp] theorem State.count_ctxs (s : State) (x ctx i n : Nat) : (s.count x ctx i n).ctxs = s.ctxs := rfl
@[simp] theorem State.count_keys (s : State) (x ctx i n : Nat) : (s.count x ctx i n).keys = s.keys := rfl
@[simp] theorem State.count_names (s : State) (x ctx i n : Nat) : (s.count x ctx i n).names = s.names := rfl
@[simp] theorem State.count_lends (s : State) (x ctx i n : Nat) : (s.count x ctx i n).lends = s.lends := rfl
@[simp] theorem State.count_queues (s : State) (x ctx i n : Nat) : (s.count x ctx i n).queues = s.queues := rfl
@[simp] theorem State.count_launches (s : State) (x ctx i n : Nat) : (s.count x ctx i n).launches = s.launches := rfl
@[simp] theorem State.count_groups (s : State) (x ctx i n : Nat) : (s.count x ctx i n).groups = s.groups := rfl
@[simp] theorem State.count_matq (s : State) (x ctx i n : Nat) : (s.count x ctx i n).matq = s.matq := rfl
@[simp] theorem State.count_routers (s : State) (x ctx i n : Nat) : (s.count x ctx i n).routers = s.routers := rfl
@[simp] theorem State.count_net (s : State) (x ctx i n : Nat) : (s.count x ctx i n).net = s.net := rfl
@[simp] theorem State.count_ports (s : State) (x ctx i n : Nat) : (s.count x ctx i n).ports = s.ports := rfl
@[simp] theorem State.count_fabric (s : State) (x ctx i n : Nat) : (s.count x ctx i n).fabric = s.fabric := rfl
@[simp] theorem State.count_outbox (s : State) (x ctx i n : Nat) : (s.count x ctx i n).outbox = s.outbox := rfl
@[simp] theorem State.count_host (s : State) (x ctx i n : Nat) : (s.count x ctx i n).host = s.host := rfl
@[simp] theorem State.count_irqs (s : State) (x ctx i n : Nat) : (s.count x ctx i n).irqs = s.irqs := rfl
@[simp] theorem State.count_faults (s : State) (x ctx i n : Nat) : (s.count x ctx i n).faults = s.faults := rfl
@[simp] theorem State.count_esc (s : State) (x ctx i n : Nat) : (s.count x ctx i n).esc = s.esc := rfl
@[simp] theorem State.count_escWait (s : State) (x ctx i n : Nat) : (s.count x ctx i n).escWait = s.escWait := rfl

/-! ### A capture unit -/

@[simp] theorem State.capture_tick (s : State) (x ctx code v : Nat) : (s.capture x ctx code v).tick = s.tick := rfl
@[simp] theorem State.capture_edges (s : State) (x ctx code v : Nat) : (s.capture x ctx code v).edges = s.edges := rfl
@[simp] theorem State.capture_nextId (s : State) (x ctx code v : Nat) : (s.capture x ctx code v).nextId = s.nextId := rfl
@[simp] theorem State.capture_agenda (s : State) (x ctx code v : Nat) : (s.capture x ctx code v).agenda = s.agenda := rfl
@[simp] theorem State.capture_cur (s : State) (x ctx code v : Nat) : (s.capture x ctx code v).cur = s.cur := rfl
@[simp] theorem State.capture_peerId (s : State) (x ctx code v : Nat) : (s.capture x ctx code v).peerId = s.peerId := rfl
@[simp] theorem State.capture_mem (s : State) (x ctx code v : Nat) : (s.capture x ctx code v).mem = s.mem := rfl
@[simp] theorem State.capture_keyed (s : State) (x ctx code v : Nat) : (s.capture x ctx code v).keyed = s.keyed := rfl
@[simp] theorem State.capture_bad (s : State) (x ctx code v : Nat) : (s.capture x ctx code v).bad = s.bad := rfl
@[simp] theorem State.capture_spad (s : State) (x ctx code v : Nat) : (s.capture x ctx code v).spad = s.spad := rfl
@[simp] theorem State.capture_badSpad (s : State) (x ctx code v : Nat) : (s.capture x ctx code v).badSpad = s.badSpad := rfl
@[simp] theorem State.capture_icache (s : State) (x ctx code v : Nat) : (s.capture x ctx code v).icache = s.icache := rfl
@[simp] theorem State.capture_tlb (s : State) (x ctx code v : Nat) : (s.capture x ctx code v).tlb = s.tlb := rfl
@[simp] theorem State.capture_l2 (s : State) (x ctx code v : Nat) : (s.capture x ctx code v).l2 = s.l2 := rfl
@[simp] theorem State.capture_devBias (s : State) (x ctx code v : Nat) : (s.capture x ctx code v).devBias = s.devBias := rfl
@[simp] theorem State.capture_hostHeld (s : State) (x ctx code v : Nat) : (s.capture x ctx code v).hostHeld = s.hostHeld := rfl
@[simp] theorem State.capture_migCount (s : State) (x ctx code v : Nat) : (s.capture x ctx code v).migCount = s.migCount := rfl
@[simp] theorem State.capture_migPass (s : State) (x ctx code v : Nat) : (s.capture x ctx code v).migPass = s.migPass := rfl
@[simp] theorem State.capture_parts (s : State) (x ctx code v : Nat) : (s.capture x ctx code v).parts = s.parts := rfl
@[simp] theorem State.capture_fwRoot (s : State) (x ctx code v : Nat) : (s.capture x ctx code v).fwRoot = s.fwRoot := rfl
@[simp] theorem State.capture_ctxs (s : State) (x ctx code v : Nat) : (s.capture x ctx code v).ctxs = s.ctxs := rfl
@[simp] theorem State.capture_keys (s : State) (x ctx code v : Nat) : (s.capture x ctx code v).keys = s.keys := rfl
@[simp] theorem State.capture_names (s : State) (x ctx code v : Nat) : (s.capture x ctx code v).names = s.names := rfl
@[simp] theorem State.capture_lends (s : State) (x ctx code v : Nat) : (s.capture x ctx code v).lends = s.lends := rfl
@[simp] theorem State.capture_queues (s : State) (x ctx code v : Nat) : (s.capture x ctx code v).queues = s.queues := rfl
@[simp] theorem State.capture_launches (s : State) (x ctx code v : Nat) : (s.capture x ctx code v).launches = s.launches := rfl
@[simp] theorem State.capture_groups (s : State) (x ctx code v : Nat) : (s.capture x ctx code v).groups = s.groups := rfl
@[simp] theorem State.capture_matq (s : State) (x ctx code v : Nat) : (s.capture x ctx code v).matq = s.matq := rfl
@[simp] theorem State.capture_routers (s : State) (x ctx code v : Nat) : (s.capture x ctx code v).routers = s.routers := rfl
@[simp] theorem State.capture_net (s : State) (x ctx code v : Nat) : (s.capture x ctx code v).net = s.net := rfl
@[simp] theorem State.capture_ports (s : State) (x ctx code v : Nat) : (s.capture x ctx code v).ports = s.ports := rfl
@[simp] theorem State.capture_fabric (s : State) (x ctx code v : Nat) : (s.capture x ctx code v).fabric = s.fabric := rfl
@[simp] theorem State.capture_outbox (s : State) (x ctx code v : Nat) : (s.capture x ctx code v).outbox = s.outbox := rfl
@[simp] theorem State.capture_host (s : State) (x ctx code v : Nat) : (s.capture x ctx code v).host = s.host := rfl
@[simp] theorem State.capture_irqs (s : State) (x ctx code v : Nat) : (s.capture x ctx code v).irqs = s.irqs := rfl
@[simp] theorem State.capture_faults (s : State) (x ctx code v : Nat) : (s.capture x ctx code v).faults = s.faults := rfl
@[simp] theorem State.capture_esc (s : State) (x ctx code v : Nat) : (s.capture x ctx code v).esc = s.esc := rfl
@[simp] theorem State.capture_escWait (s : State) (x ctx code v : Nat) : (s.capture x ctx code v).escWait = s.escWait := rfl

/-! ### One router changed -/

@[simp] theorem State.updRouter_tick (s : State) (r : Nat) (f : Router → Router) : (s.updRouter r f).tick = s.tick := rfl
@[simp] theorem State.updRouter_edges (s : State) (r : Nat) (f : Router → Router) : (s.updRouter r f).edges = s.edges := rfl
@[simp] theorem State.updRouter_nextId (s : State) (r : Nat) (f : Router → Router) : (s.updRouter r f).nextId = s.nextId := rfl
@[simp] theorem State.updRouter_agenda (s : State) (r : Nat) (f : Router → Router) : (s.updRouter r f).agenda = s.agenda := rfl
@[simp] theorem State.updRouter_cur (s : State) (r : Nat) (f : Router → Router) : (s.updRouter r f).cur = s.cur := rfl
@[simp] theorem State.updRouter_peerId (s : State) (r : Nat) (f : Router → Router) : (s.updRouter r f).peerId = s.peerId := rfl
@[simp] theorem State.updRouter_mem (s : State) (r : Nat) (f : Router → Router) : (s.updRouter r f).mem = s.mem := rfl
@[simp] theorem State.updRouter_keyed (s : State) (r : Nat) (f : Router → Router) : (s.updRouter r f).keyed = s.keyed := rfl
@[simp] theorem State.updRouter_bad (s : State) (r : Nat) (f : Router → Router) : (s.updRouter r f).bad = s.bad := rfl
@[simp] theorem State.updRouter_spad (s : State) (r : Nat) (f : Router → Router) : (s.updRouter r f).spad = s.spad := rfl
@[simp] theorem State.updRouter_badSpad (s : State) (r : Nat) (f : Router → Router) : (s.updRouter r f).badSpad = s.badSpad := rfl
@[simp] theorem State.updRouter_icache (s : State) (r : Nat) (f : Router → Router) : (s.updRouter r f).icache = s.icache := rfl
@[simp] theorem State.updRouter_tlb (s : State) (r : Nat) (f : Router → Router) : (s.updRouter r f).tlb = s.tlb := rfl
@[simp] theorem State.updRouter_l2 (s : State) (r : Nat) (f : Router → Router) : (s.updRouter r f).l2 = s.l2 := rfl
@[simp] theorem State.updRouter_devBias (s : State) (r : Nat) (f : Router → Router) : (s.updRouter r f).devBias = s.devBias := rfl
@[simp] theorem State.updRouter_hostHeld (s : State) (r : Nat) (f : Router → Router) : (s.updRouter r f).hostHeld = s.hostHeld := rfl
@[simp] theorem State.updRouter_migCount (s : State) (r : Nat) (f : Router → Router) : (s.updRouter r f).migCount = s.migCount := rfl
@[simp] theorem State.updRouter_migPass (s : State) (r : Nat) (f : Router → Router) : (s.updRouter r f).migPass = s.migPass := rfl
@[simp] theorem State.updRouter_parts (s : State) (r : Nat) (f : Router → Router) : (s.updRouter r f).parts = s.parts := rfl
@[simp] theorem State.updRouter_fwRoot (s : State) (r : Nat) (f : Router → Router) : (s.updRouter r f).fwRoot = s.fwRoot := rfl
@[simp] theorem State.updRouter_ctxs (s : State) (r : Nat) (f : Router → Router) : (s.updRouter r f).ctxs = s.ctxs := rfl
@[simp] theorem State.updRouter_keys (s : State) (r : Nat) (f : Router → Router) : (s.updRouter r f).keys = s.keys := rfl
@[simp] theorem State.updRouter_names (s : State) (r : Nat) (f : Router → Router) : (s.updRouter r f).names = s.names := rfl
@[simp] theorem State.updRouter_lends (s : State) (r : Nat) (f : Router → Router) : (s.updRouter r f).lends = s.lends := rfl
@[simp] theorem State.updRouter_queues (s : State) (r : Nat) (f : Router → Router) : (s.updRouter r f).queues = s.queues := rfl
@[simp] theorem State.updRouter_launches (s : State) (r : Nat) (f : Router → Router) : (s.updRouter r f).launches = s.launches := rfl
@[simp] theorem State.updRouter_groups (s : State) (r : Nat) (f : Router → Router) : (s.updRouter r f).groups = s.groups := rfl
@[simp] theorem State.updRouter_matq (s : State) (r : Nat) (f : Router → Router) : (s.updRouter r f).matq = s.matq := rfl
@[simp] theorem State.updRouter_facets (s : State) (r : Nat) (f : Router → Router) : (s.updRouter r f).facets = s.facets := rfl
@[simp] theorem State.updRouter_net (s : State) (r : Nat) (f : Router → Router) : (s.updRouter r f).net = s.net := rfl
@[simp] theorem State.updRouter_ports (s : State) (r : Nat) (f : Router → Router) : (s.updRouter r f).ports = s.ports := rfl
@[simp] theorem State.updRouter_fabric (s : State) (r : Nat) (f : Router → Router) : (s.updRouter r f).fabric = s.fabric := rfl
@[simp] theorem State.updRouter_outbox (s : State) (r : Nat) (f : Router → Router) : (s.updRouter r f).outbox = s.outbox := rfl
@[simp] theorem State.updRouter_host (s : State) (r : Nat) (f : Router → Router) : (s.updRouter r f).host = s.host := rfl
@[simp] theorem State.updRouter_irqs (s : State) (r : Nat) (f : Router → Router) : (s.updRouter r f).irqs = s.irqs := rfl
@[simp] theorem State.updRouter_faults (s : State) (r : Nat) (f : Router → Router) : (s.updRouter r f).faults = s.faults := rfl
@[simp] theorem State.updRouter_esc (s : State) (r : Nat) (f : Router → Router) : (s.updRouter r f).esc = s.esc := rfl
@[simp] theorem State.updRouter_escWait (s : State) (r : Nat) (f : Router → Router) : (s.updRouter r f).escWait = s.escWait := rfl

/-! ### One port changed -/

@[simp] theorem State.updPort_tick (s : State) (p : Nat) (f : Port → Port) : (s.updPort p f).tick = s.tick := rfl
@[simp] theorem State.updPort_edges (s : State) (p : Nat) (f : Port → Port) : (s.updPort p f).edges = s.edges := rfl
@[simp] theorem State.updPort_nextId (s : State) (p : Nat) (f : Port → Port) : (s.updPort p f).nextId = s.nextId := rfl
@[simp] theorem State.updPort_agenda (s : State) (p : Nat) (f : Port → Port) : (s.updPort p f).agenda = s.agenda := rfl
@[simp] theorem State.updPort_cur (s : State) (p : Nat) (f : Port → Port) : (s.updPort p f).cur = s.cur := rfl
@[simp] theorem State.updPort_peerId (s : State) (p : Nat) (f : Port → Port) : (s.updPort p f).peerId = s.peerId := rfl
@[simp] theorem State.updPort_mem (s : State) (p : Nat) (f : Port → Port) : (s.updPort p f).mem = s.mem := rfl
@[simp] theorem State.updPort_keyed (s : State) (p : Nat) (f : Port → Port) : (s.updPort p f).keyed = s.keyed := rfl
@[simp] theorem State.updPort_bad (s : State) (p : Nat) (f : Port → Port) : (s.updPort p f).bad = s.bad := rfl
@[simp] theorem State.updPort_spad (s : State) (p : Nat) (f : Port → Port) : (s.updPort p f).spad = s.spad := rfl
@[simp] theorem State.updPort_badSpad (s : State) (p : Nat) (f : Port → Port) : (s.updPort p f).badSpad = s.badSpad := rfl
@[simp] theorem State.updPort_icache (s : State) (p : Nat) (f : Port → Port) : (s.updPort p f).icache = s.icache := rfl
@[simp] theorem State.updPort_tlb (s : State) (p : Nat) (f : Port → Port) : (s.updPort p f).tlb = s.tlb := rfl
@[simp] theorem State.updPort_l2 (s : State) (p : Nat) (f : Port → Port) : (s.updPort p f).l2 = s.l2 := rfl
@[simp] theorem State.updPort_devBias (s : State) (p : Nat) (f : Port → Port) : (s.updPort p f).devBias = s.devBias := rfl
@[simp] theorem State.updPort_hostHeld (s : State) (p : Nat) (f : Port → Port) : (s.updPort p f).hostHeld = s.hostHeld := rfl
@[simp] theorem State.updPort_migCount (s : State) (p : Nat) (f : Port → Port) : (s.updPort p f).migCount = s.migCount := rfl
@[simp] theorem State.updPort_migPass (s : State) (p : Nat) (f : Port → Port) : (s.updPort p f).migPass = s.migPass := rfl
@[simp] theorem State.updPort_parts (s : State) (p : Nat) (f : Port → Port) : (s.updPort p f).parts = s.parts := rfl
@[simp] theorem State.updPort_fwRoot (s : State) (p : Nat) (f : Port → Port) : (s.updPort p f).fwRoot = s.fwRoot := rfl
@[simp] theorem State.updPort_ctxs (s : State) (p : Nat) (f : Port → Port) : (s.updPort p f).ctxs = s.ctxs := rfl
@[simp] theorem State.updPort_keys (s : State) (p : Nat) (f : Port → Port) : (s.updPort p f).keys = s.keys := rfl
@[simp] theorem State.updPort_names (s : State) (p : Nat) (f : Port → Port) : (s.updPort p f).names = s.names := rfl
@[simp] theorem State.updPort_lends (s : State) (p : Nat) (f : Port → Port) : (s.updPort p f).lends = s.lends := rfl
@[simp] theorem State.updPort_queues (s : State) (p : Nat) (f : Port → Port) : (s.updPort p f).queues = s.queues := rfl
@[simp] theorem State.updPort_launches (s : State) (p : Nat) (f : Port → Port) : (s.updPort p f).launches = s.launches := rfl
@[simp] theorem State.updPort_groups (s : State) (p : Nat) (f : Port → Port) : (s.updPort p f).groups = s.groups := rfl
@[simp] theorem State.updPort_matq (s : State) (p : Nat) (f : Port → Port) : (s.updPort p f).matq = s.matq := rfl
@[simp] theorem State.updPort_facets (s : State) (p : Nat) (f : Port → Port) : (s.updPort p f).facets = s.facets := rfl
@[simp] theorem State.updPort_routers (s : State) (p : Nat) (f : Port → Port) : (s.updPort p f).routers = s.routers := rfl
@[simp] theorem State.updPort_net (s : State) (p : Nat) (f : Port → Port) : (s.updPort p f).net = s.net := rfl
@[simp] theorem State.updPort_fabric (s : State) (p : Nat) (f : Port → Port) : (s.updPort p f).fabric = s.fabric := rfl
@[simp] theorem State.updPort_outbox (s : State) (p : Nat) (f : Port → Port) : (s.updPort p f).outbox = s.outbox := rfl
@[simp] theorem State.updPort_host (s : State) (p : Nat) (f : Port → Port) : (s.updPort p f).host = s.host := rfl
@[simp] theorem State.updPort_irqs (s : State) (p : Nat) (f : Port → Port) : (s.updPort p f).irqs = s.irqs := rfl
@[simp] theorem State.updPort_faults (s : State) (p : Nat) (f : Port → Port) : (s.updPort p f).faults = s.faults := rfl
@[simp] theorem State.updPort_esc (s : State) (p : Nat) (f : Port → Port) : (s.updPort p f).esc = s.esc := rfl
@[simp] theorem State.updPort_escWait (s : State) (p : Nat) (f : Port → Port) : (s.updPort p f).escWait = s.escWait := rfl

/-! ### The host registers changed -/

@[simp] theorem State.updHost_tick (s : State) (f : HostRegs → HostRegs) : (s.updHost f).tick = s.tick := rfl
@[simp] theorem State.updHost_edges (s : State) (f : HostRegs → HostRegs) : (s.updHost f).edges = s.edges := rfl
@[simp] theorem State.updHost_nextId (s : State) (f : HostRegs → HostRegs) : (s.updHost f).nextId = s.nextId := rfl
@[simp] theorem State.updHost_agenda (s : State) (f : HostRegs → HostRegs) : (s.updHost f).agenda = s.agenda := rfl
@[simp] theorem State.updHost_cur (s : State) (f : HostRegs → HostRegs) : (s.updHost f).cur = s.cur := rfl
@[simp] theorem State.updHost_peerId (s : State) (f : HostRegs → HostRegs) : (s.updHost f).peerId = s.peerId := rfl
@[simp] theorem State.updHost_mem (s : State) (f : HostRegs → HostRegs) : (s.updHost f).mem = s.mem := rfl
@[simp] theorem State.updHost_keyed (s : State) (f : HostRegs → HostRegs) : (s.updHost f).keyed = s.keyed := rfl
@[simp] theorem State.updHost_bad (s : State) (f : HostRegs → HostRegs) : (s.updHost f).bad = s.bad := rfl
@[simp] theorem State.updHost_spad (s : State) (f : HostRegs → HostRegs) : (s.updHost f).spad = s.spad := rfl
@[simp] theorem State.updHost_badSpad (s : State) (f : HostRegs → HostRegs) : (s.updHost f).badSpad = s.badSpad := rfl
@[simp] theorem State.updHost_icache (s : State) (f : HostRegs → HostRegs) : (s.updHost f).icache = s.icache := rfl
@[simp] theorem State.updHost_tlb (s : State) (f : HostRegs → HostRegs) : (s.updHost f).tlb = s.tlb := rfl
@[simp] theorem State.updHost_l2 (s : State) (f : HostRegs → HostRegs) : (s.updHost f).l2 = s.l2 := rfl
@[simp] theorem State.updHost_devBias (s : State) (f : HostRegs → HostRegs) : (s.updHost f).devBias = s.devBias := rfl
@[simp] theorem State.updHost_hostHeld (s : State) (f : HostRegs → HostRegs) : (s.updHost f).hostHeld = s.hostHeld := rfl
@[simp] theorem State.updHost_migCount (s : State) (f : HostRegs → HostRegs) : (s.updHost f).migCount = s.migCount := rfl
@[simp] theorem State.updHost_migPass (s : State) (f : HostRegs → HostRegs) : (s.updHost f).migPass = s.migPass := rfl
@[simp] theorem State.updHost_parts (s : State) (f : HostRegs → HostRegs) : (s.updHost f).parts = s.parts := rfl
@[simp] theorem State.updHost_fwRoot (s : State) (f : HostRegs → HostRegs) : (s.updHost f).fwRoot = s.fwRoot := rfl
@[simp] theorem State.updHost_ctxs (s : State) (f : HostRegs → HostRegs) : (s.updHost f).ctxs = s.ctxs := rfl
@[simp] theorem State.updHost_keys (s : State) (f : HostRegs → HostRegs) : (s.updHost f).keys = s.keys := rfl
@[simp] theorem State.updHost_names (s : State) (f : HostRegs → HostRegs) : (s.updHost f).names = s.names := rfl
@[simp] theorem State.updHost_lends (s : State) (f : HostRegs → HostRegs) : (s.updHost f).lends = s.lends := rfl
@[simp] theorem State.updHost_queues (s : State) (f : HostRegs → HostRegs) : (s.updHost f).queues = s.queues := rfl
@[simp] theorem State.updHost_launches (s : State) (f : HostRegs → HostRegs) : (s.updHost f).launches = s.launches := rfl
@[simp] theorem State.updHost_groups (s : State) (f : HostRegs → HostRegs) : (s.updHost f).groups = s.groups := rfl
@[simp] theorem State.updHost_matq (s : State) (f : HostRegs → HostRegs) : (s.updHost f).matq = s.matq := rfl
@[simp] theorem State.updHost_facets (s : State) (f : HostRegs → HostRegs) : (s.updHost f).facets = s.facets := rfl
@[simp] theorem State.updHost_routers (s : State) (f : HostRegs → HostRegs) : (s.updHost f).routers = s.routers := rfl
@[simp] theorem State.updHost_net (s : State) (f : HostRegs → HostRegs) : (s.updHost f).net = s.net := rfl
@[simp] theorem State.updHost_ports (s : State) (f : HostRegs → HostRegs) : (s.updHost f).ports = s.ports := rfl
@[simp] theorem State.updHost_fabric (s : State) (f : HostRegs → HostRegs) : (s.updHost f).fabric = s.fabric := rfl
@[simp] theorem State.updHost_outbox (s : State) (f : HostRegs → HostRegs) : (s.updHost f).outbox = s.outbox := rfl
@[simp] theorem State.updHost_irqs (s : State) (f : HostRegs → HostRegs) : (s.updHost f).irqs = s.irqs := rfl
@[simp] theorem State.updHost_faults (s : State) (f : HostRegs → HostRegs) : (s.updHost f).faults = s.faults := rfl
@[simp] theorem State.updHost_esc (s : State) (f : HostRegs → HostRegs) : (s.updHost f).esc = s.esc := rfl
@[simp] theorem State.updHost_escWait (s : State) (f : HostRegs → HostRegs) : (s.updHost f).escWait = s.escWait := rfl

/-! ### A g register written -/

@[simp] theorem Group.setG_id (g : Group) (r : Nat) (x : Word) : (g.setG r x).id = g.id := rfl
@[simp] theorem Group.setG_ctx (g : Group) (r : Nat) (x : Word) : (g.setG r x).ctx = g.ctx := rfl
@[simp] theorem Group.setG_launch (g : Group) (r : Nat) (x : Word) : (g.setG r x).launch = g.launch := rfl
@[simp] theorem Group.setG_clockAt (g : Group) (r : Nat) (x : Word) : (g.setG r x).clockAt = g.clockAt := rfl
@[simp] theorem Group.setG_free (g : Group) (r : Nat) (x : Word) : (g.setG r x).free = g.free := rfl
@[simp] theorem Group.setG_task (g : Group) (r : Nat) (x : Word) : (g.setG r x).task = g.task := rfl
@[simp] theorem Group.setG_facet (g : Group) (r : Nat) (x : Word) : (g.setG r x).facet = g.facet := rfl
@[simp] theorem Group.setG_stat (g : Group) (r : Nat) (x : Word) : (g.setG r x).stat = g.stat := rfl
@[simp] theorem Group.setG_shape (g : Group) (r : Nat) (x : Word) : (g.setG r x).shape = g.shape := rfl
@[simp] theorem Group.setG_waves (g : Group) (r : Nat) (x : Word) : (g.setG r x).waves = g.waves := rfl
@[simp] theorem Group.setG_clock (g : Group) (r : Nat) (x : Word) : (g.setG r x).clock = g.clock := rfl
@[simp] theorem Group.setG_gPrev (g : Group) (r : Nat) (x : Word) : (g.setG r x).gPrev = g.gPrev := rfl
@[simp] theorem Group.setG_gBy (g : Group) (r : Nat) (x : Word) : (g.setG r x).gBy = g.gBy := rfl
@[simp] theorem Group.setG_tiles (g : Group) (r : Nat) (x : Word) : (g.setG r x).tiles = g.tiles := rfl
@[simp] theorem Group.setG_inUse (g : Group) (r : Nat) (x : Word) : (g.setG r x).inUse = g.inUse := rfl
@[simp] theorem Group.setG_shared (g : Group) (r : Nat) (x : Word) : (g.setG r x).shared = g.shared := rfl
@[simp] theorem Group.setG_bars (g : Group) (r : Nat) (x : Word) : (g.setG r x).bars = g.bars := rfl
@[simp] theorem Group.setG_cur (g : Group) (r : Nat) (x : Word) : (g.setG r x).cur = g.cur := rfl
@[simp] theorem Group.setG_pro (g : Group) (r : Nat) (x : Word) : (g.setG r x).pro = g.pro := rfl
@[simp] theorem Group.setG_full (g : Group) (r : Nat) (x : Word) : (g.setG r x).full = g.full := rfl
@[simp] theorem Group.setG_slots (g : Group) (r : Nat) (x : Word) : (g.setG r x).slots = g.slots := rfl
@[simp] theorem Group.setG_spillSize (g : Group) (r : Nat) (x : Word) : (g.setG r x).spillSize = g.spillSize := rfl
@[simp] theorem Group.setG_ceil (g : Group) (r : Nat) (x : Word) : (g.setG r x).ceil = g.ceil := rfl
@[simp] theorem Group.setG_div (g : Group) (r : Nat) (x : Word) : (g.setG r x).div = g.div := rfl
@[simp] theorem Group.setG_acq (g : Group) (r : Nat) (x : Word) : (g.setG r x).acq = g.acq := rfl
@[simp] theorem Group.setG_deferred (g : Group) (r : Nat) (x : Word) : (g.setG r x).deferred = g.deferred := rfl
@[simp] theorem Group.setG_deferUsed (g : Group) (r : Nat) (x : Word) : (g.setG r x).deferUsed = g.deferUsed := rfl
@[simp] theorem Group.setG_deferCap (g : Group) (r : Nat) (x : Word) : (g.setG r x).deferCap = g.deferCap := rfl
@[simp] theorem Group.setG_resident (g : Group) (r : Nat) (x : Word) : (g.setG r x).resident = g.resident := rfl
@[simp] theorem Group.setG_saveAt (g : Group) (r : Nat) (x : Word) : (g.setG r x).saveAt = g.saveAt := rfl
@[simp] theorem Group.setG_preempt (g : Group) (r : Nat) (x : Word) : (g.setG r x).preempt = g.preempt := rfl
@[simp] theorem Group.setG_stopAt (g : Group) (r : Nat) (x : Word) : (g.setG r x).stopAt = g.stopAt := rfl
@[simp] theorem Group.setG_hot (g : Group) (r : Nat) (x : Word) : (g.setG r x).hot = g.hot := rfl
@[simp] theorem Group.setG_exitMax (g : Group) (r : Nat) (x : Word) : (g.setG r x).exitMax = g.exitMax := rfl
@[simp] theorem Group.setG_exitOr (g : Group) (r : Nat) (x : Word) : (g.setG r x).exitOr = g.exitOr := rfl
@[simp] theorem Group.setG_badShared (g : Group) (r : Nat) (x : Word) : (g.setG r x).badShared = g.badShared := rfl
@[simp] theorem Group.setG_badTiles (g : Group) (r : Nat) (x : Word) : (g.setG r x).badTiles = g.badTiles := rfl
@[simp] theorem Group.setG_points (g : Group) (r : Nat) (x : Word) : (g.setG r x).points = g.points := rfl
@[simp] theorem Group.setG_faint (g : Group) (r : Nat) (x : Word) : (g.setG r x).faint = g.faint := rfl
@[simp] theorem Group.setG_savedMat (g : Group) (r : Nat) (x : Word) : (g.setG r x).savedMat = g.savedMat := rfl
@[simp] theorem Group.setG_placed (g : Group) (r : Nat) (x : Word) : (g.setG r x).placed = g.placed := rfl
@[simp] theorem Group.setG_since (g : Group) (r : Nat) (x : Word) : (g.setG r x).since = g.since := rfl
@[simp] theorem Group.setG_answers (g : Group) (r : Nat) (x : Word) : (g.setG r x).answers = g.answers := rfl

/-! ### One wave of a group replaced -/

@[simp] theorem Group.setWave_id (g : Group) (w : Wave) : (g.setWave w).id = g.id := rfl
@[simp] theorem Group.setWave_ctx (g : Group) (w : Wave) : (g.setWave w).ctx = g.ctx := rfl
@[simp] theorem Group.setWave_launch (g : Group) (w : Wave) : (g.setWave w).launch = g.launch := rfl
@[simp] theorem Group.setWave_clockAt (g : Group) (w : Wave) : (g.setWave w).clockAt = g.clockAt := rfl
@[simp] theorem Group.setWave_free (g : Group) (w : Wave) : (g.setWave w).free = g.free := rfl
@[simp] theorem Group.setWave_task (g : Group) (w : Wave) : (g.setWave w).task = g.task := rfl
@[simp] theorem Group.setWave_facet (g : Group) (w : Wave) : (g.setWave w).facet = g.facet := rfl
@[simp] theorem Group.setWave_stat (g : Group) (w : Wave) : (g.setWave w).stat = g.stat := rfl
@[simp] theorem Group.setWave_shape (g : Group) (w : Wave) : (g.setWave w).shape = g.shape := rfl
@[simp] theorem Group.setWave_g (g : Group) (w : Wave) : (g.setWave w).g = g.g := rfl
@[simp] theorem Group.setWave_clock (g : Group) (w : Wave) : (g.setWave w).clock = g.clock := rfl
@[simp] theorem Group.setWave_gPrev (g : Group) (w : Wave) : (g.setWave w).gPrev = g.gPrev := rfl
@[simp] theorem Group.setWave_gBy (g : Group) (w : Wave) : (g.setWave w).gBy = g.gBy := rfl
@[simp] theorem Group.setWave_tiles (g : Group) (w : Wave) : (g.setWave w).tiles = g.tiles := rfl
@[simp] theorem Group.setWave_inUse (g : Group) (w : Wave) : (g.setWave w).inUse = g.inUse := rfl
@[simp] theorem Group.setWave_shared (g : Group) (w : Wave) : (g.setWave w).shared = g.shared := rfl
@[simp] theorem Group.setWave_bars (g : Group) (w : Wave) : (g.setWave w).bars = g.bars := rfl
@[simp] theorem Group.setWave_cur (g : Group) (w : Wave) : (g.setWave w).cur = g.cur := rfl
@[simp] theorem Group.setWave_pro (g : Group) (w : Wave) : (g.setWave w).pro = g.pro := rfl
@[simp] theorem Group.setWave_full (g : Group) (w : Wave) : (g.setWave w).full = g.full := rfl
@[simp] theorem Group.setWave_slots (g : Group) (w : Wave) : (g.setWave w).slots = g.slots := rfl
@[simp] theorem Group.setWave_spillSize (g : Group) (w : Wave) : (g.setWave w).spillSize = g.spillSize := rfl
@[simp] theorem Group.setWave_ceil (g : Group) (w : Wave) : (g.setWave w).ceil = g.ceil := rfl
@[simp] theorem Group.setWave_div (g : Group) (w : Wave) : (g.setWave w).div = g.div := rfl
@[simp] theorem Group.setWave_acq (g : Group) (w : Wave) : (g.setWave w).acq = g.acq := rfl
@[simp] theorem Group.setWave_deferred (g : Group) (w : Wave) : (g.setWave w).deferred = g.deferred := rfl
@[simp] theorem Group.setWave_deferUsed (g : Group) (w : Wave) : (g.setWave w).deferUsed = g.deferUsed := rfl
@[simp] theorem Group.setWave_deferCap (g : Group) (w : Wave) : (g.setWave w).deferCap = g.deferCap := rfl
@[simp] theorem Group.setWave_resident (g : Group) (w : Wave) : (g.setWave w).resident = g.resident := rfl
@[simp] theorem Group.setWave_saveAt (g : Group) (w : Wave) : (g.setWave w).saveAt = g.saveAt := rfl
@[simp] theorem Group.setWave_preempt (g : Group) (w : Wave) : (g.setWave w).preempt = g.preempt := rfl
@[simp] theorem Group.setWave_stopAt (g : Group) (w : Wave) : (g.setWave w).stopAt = g.stopAt := rfl
@[simp] theorem Group.setWave_hot (g : Group) (w : Wave) : (g.setWave w).hot = g.hot := rfl
@[simp] theorem Group.setWave_exitMax (g : Group) (w : Wave) : (g.setWave w).exitMax = g.exitMax := rfl
@[simp] theorem Group.setWave_exitOr (g : Group) (w : Wave) : (g.setWave w).exitOr = g.exitOr := rfl
@[simp] theorem Group.setWave_badShared (g : Group) (w : Wave) : (g.setWave w).badShared = g.badShared := rfl
@[simp] theorem Group.setWave_badTiles (g : Group) (w : Wave) : (g.setWave w).badTiles = g.badTiles := rfl
@[simp] theorem Group.setWave_points (g : Group) (w : Wave) : (g.setWave w).points = g.points := rfl
@[simp] theorem Group.setWave_faint (g : Group) (w : Wave) : (g.setWave w).faint = g.faint := rfl
@[simp] theorem Group.setWave_savedMat (g : Group) (w : Wave) : (g.setWave w).savedMat = g.savedMat := rfl
@[simp] theorem Group.setWave_placed (g : Group) (w : Wave) : (g.setWave w).placed = g.placed := rfl
@[simp] theorem Group.setWave_since (g : Group) (w : Wave) : (g.setWave w).since = g.since := rfl
@[simp] theorem Group.setWave_answers (g : Group) (w : Wave) : (g.setWave w).answers = g.answers := rfl

/-! ### Registers of a wave written -/

@[simp] theorem Wave.setV_id (w : Wave) (r : Nat) (m : Mask) (f : Nat → Word) : (w.setV r m f).id = w.id := rfl
@[simp] theorem Wave.setV_core (w : Wave) (r : Nat) (m : Mask) (f : Nat → Word) : (w.setV r m f).core = w.core := rfl
@[simp] theorem Wave.setV_slot (w : Wave) (r : Nat) (m : Mask) (f : Nat → Word) : (w.setV r m f).slot = w.slot := rfl
@[simp] theorem Wave.setV_s (w : Wave) (r : Nat) (m : Mask) (f : Nat → Word) : (w.setV r m f).s = w.s := rfl
@[simp] theorem Wave.setV_p (w : Wave) (r : Nat) (m : Mask) (f : Nat → Word) : (w.setV r m f).p = w.p := rfl
@[simp] theorem Wave.setV_h (w : Wave) (r : Nat) (m : Mask) (f : Nat → Word) : (w.setV r m f).h = w.h := rfl
@[simp] theorem Wave.setV_m (w : Wave) (r : Nat) (m : Mask) (f : Nat → Word) : (w.setV r m f).m = w.m := rfl
@[simp] theorem Wave.setV_present (w : Wave) (r : Nat) (m : Mask) (f : Nat → Word) : (w.setV r m f).present = w.present := rfl
@[simp] theorem Wave.setV_exited (w : Wave) (r : Nat) (m : Mask) (f : Nat → Word) : (w.setV r m f).exited = w.exited := rfl
@[simp] theorem Wave.setV_paths (w : Wave) (r : Nat) (m : Mask) (f : Nat → Word) : (w.setV r m f).paths = w.paths := rfl
@[simp] theorem Wave.setV_frames (w : Wave) (r : Nat) (m : Mask) (f : Nat → Word) : (w.setV r m f).frames = w.frames := rfl
@[simp] theorem Wave.setV_nextId (w : Wave) (r : Nat) (m : Mask) (f : Nat → Word) : (w.setV r m f).nextId = w.nextId := rfl
@[simp] theorem Wave.setV_held (w : Wave) (r : Nat) (m : Mask) (f : Nat → Word) : (w.setV r m f).held = w.held := rfl
@[simp] theorem Wave.setV_trapVec (w : Wave) (r : Nat) (m : Mask) (f : Nat → Word) : (w.setV r m f).trapVec = w.trapVec := rfl
@[simp] theorem Wave.setV_fair (w : Wave) (r : Nat) (m : Mask) (f : Nat → Word) : (w.setV r m f).fair = w.fair := rfl
@[simp] theorem Wave.setV_last (w : Wave) (r : Nat) (m : Mask) (f : Nat → Word) : (w.setV r m f).last = w.last := rfl
@[simp] theorem Wave.setV_run (w : Wave) (r : Nat) (m : Mask) (f : Nat → Word) : (w.setV r m f).run = w.run := rfl
@[simp] theorem Wave.setV_fresh (w : Wave) (r : Nat) (m : Mask) (f : Nat → Word) : (w.setV r m f).fresh = w.fresh := rfl
@[simp] theorem Wave.setV_park (w : Wave) (r : Nat) (m : Mask) (f : Nat → Word) : (w.setV r m f).park = w.park := rfl
@[simp] theorem Wave.setV_parkedAt (w : Wave) (r : Nat) (m : Mask) (f : Nat → Word) : (w.setV r m f).parkedAt = w.parkedAt := rfl
@[simp] theorem Wave.setV_cmds (w : Wave) (r : Nat) (m : Mask) (f : Nat → Word) : (w.setV r m f).cmds = w.cmds := rfl
@[simp] theorem Wave.setV_seqs (w : Wave) (r : Nat) (m : Mask) (f : Nat → Word) : (w.setV r m f).seqs = w.seqs := rfl
@[simp] theorem Wave.setV_order (w : Wave) (r : Nat) (m : Mask) (f : Nat → Word) : (w.setV r m f).order = w.order := rfl
@[simp] theorem Wave.setV_latchTag (w : Wave) (r : Nat) (m : Mask) (f : Nat → Word) : (w.setV r m f).latchTag = w.latchTag := rfl
@[simp] theorem Wave.setV_latch (w : Wave) (r : Nat) (m : Mask) (f : Nat → Word) : (w.setV r m f).latch = w.latch := rfl
@[simp] theorem Wave.setV_resvS (w : Wave) (r : Nat) (m : Mask) (f : Nat → Word) : (w.setV r m f).resvS = w.resvS := rfl
@[simp] theorem Wave.setV_resvP (w : Wave) (r : Nat) (m : Mask) (f : Nat → Word) : (w.setV r m f).resvP = w.resvP := rfl
@[simp] theorem Wave.setV_spill (w : Wave) (r : Nat) (m : Mask) (f : Nat → Word) : (w.setV r m f).spill = w.spill := rfl
@[simp] theorem Wave.setV_spillAt (w : Wave) (r : Nat) (m : Mask) (f : Nat → Word) : (w.setV r m f).spillAt = w.spillAt := rfl
@[simp] theorem Wave.setV_badSpill (w : Wave) (r : Nat) (m : Mask) (f : Nat → Word) : (w.setV r m f).badSpill = w.badSpill := rfl
@[simp] theorem Wave.setV_rel (w : Wave) (r : Nat) (m : Mask) (f : Nat → Word) : (w.setV r m f).rel = w.rel := rfl
@[simp] theorem Wave.setV_asOf (w : Wave) (r : Nat) (m : Mask) (f : Nat → Word) : (w.setV r m f).asOf = w.asOf := rfl
@[simp] theorem Wave.setV_dead (w : Wave) (r : Nat) (m : Mask) (f : Nat → Word) : (w.setV r m f).dead = w.dead := rfl

/-! ### An s register set -/

@[simp] theorem Wave.setS_id (w : Wave) (r : Nat) (x : Word) : (w.setS r x).id = w.id := rfl
@[simp] theorem Wave.setS_core (w : Wave) (r : Nat) (x : Word) : (w.setS r x).core = w.core := rfl
@[simp] theorem Wave.setS_slot (w : Wave) (r : Nat) (x : Word) : (w.setS r x).slot = w.slot := rfl
@[simp] theorem Wave.setS_v (w : Wave) (r : Nat) (x : Word) : (w.setS r x).v = w.v := rfl
@[simp] theorem Wave.setS_p (w : Wave) (r : Nat) (x : Word) : (w.setS r x).p = w.p := rfl
@[simp] theorem Wave.setS_h (w : Wave) (r : Nat) (x : Word) : (w.setS r x).h = w.h := rfl
@[simp] theorem Wave.setS_m (w : Wave) (r : Nat) (x : Word) : (w.setS r x).m = w.m := rfl
@[simp] theorem Wave.setS_present (w : Wave) (r : Nat) (x : Word) : (w.setS r x).present = w.present := rfl
@[simp] theorem Wave.setS_exited (w : Wave) (r : Nat) (x : Word) : (w.setS r x).exited = w.exited := rfl
@[simp] theorem Wave.setS_paths (w : Wave) (r : Nat) (x : Word) : (w.setS r x).paths = w.paths := rfl
@[simp] theorem Wave.setS_frames (w : Wave) (r : Nat) (x : Word) : (w.setS r x).frames = w.frames := rfl
@[simp] theorem Wave.setS_nextId (w : Wave) (r : Nat) (x : Word) : (w.setS r x).nextId = w.nextId := rfl
@[simp] theorem Wave.setS_held (w : Wave) (r : Nat) (x : Word) : (w.setS r x).held = w.held := rfl
@[simp] theorem Wave.setS_trapVec (w : Wave) (r : Nat) (x : Word) : (w.setS r x).trapVec = w.trapVec := rfl
@[simp] theorem Wave.setS_fair (w : Wave) (r : Nat) (x : Word) : (w.setS r x).fair = w.fair := rfl
@[simp] theorem Wave.setS_last (w : Wave) (r : Nat) (x : Word) : (w.setS r x).last = w.last := rfl
@[simp] theorem Wave.setS_run (w : Wave) (r : Nat) (x : Word) : (w.setS r x).run = w.run := rfl
@[simp] theorem Wave.setS_fresh (w : Wave) (r : Nat) (x : Word) : (w.setS r x).fresh = w.fresh := rfl
@[simp] theorem Wave.setS_park (w : Wave) (r : Nat) (x : Word) : (w.setS r x).park = w.park := rfl
@[simp] theorem Wave.setS_parkedAt (w : Wave) (r : Nat) (x : Word) : (w.setS r x).parkedAt = w.parkedAt := rfl
@[simp] theorem Wave.setS_cmds (w : Wave) (r : Nat) (x : Word) : (w.setS r x).cmds = w.cmds := rfl
@[simp] theorem Wave.setS_seqs (w : Wave) (r : Nat) (x : Word) : (w.setS r x).seqs = w.seqs := rfl
@[simp] theorem Wave.setS_order (w : Wave) (r : Nat) (x : Word) : (w.setS r x).order = w.order := rfl
@[simp] theorem Wave.setS_latchTag (w : Wave) (r : Nat) (x : Word) : (w.setS r x).latchTag = w.latchTag := rfl
@[simp] theorem Wave.setS_latch (w : Wave) (r : Nat) (x : Word) : (w.setS r x).latch = w.latch := rfl
@[simp] theorem Wave.setS_resvS (w : Wave) (r : Nat) (x : Word) : (w.setS r x).resvS = w.resvS := rfl
@[simp] theorem Wave.setS_resvP (w : Wave) (r : Nat) (x : Word) : (w.setS r x).resvP = w.resvP := rfl
@[simp] theorem Wave.setS_spill (w : Wave) (r : Nat) (x : Word) : (w.setS r x).spill = w.spill := rfl
@[simp] theorem Wave.setS_spillAt (w : Wave) (r : Nat) (x : Word) : (w.setS r x).spillAt = w.spillAt := rfl
@[simp] theorem Wave.setS_badSpill (w : Wave) (r : Nat) (x : Word) : (w.setS r x).badSpill = w.badSpill := rfl
@[simp] theorem Wave.setS_rel (w : Wave) (r : Nat) (x : Word) : (w.setS r x).rel = w.rel := rfl
@[simp] theorem Wave.setS_asOf (w : Wave) (r : Nat) (x : Word) : (w.setS r x).asOf = w.asOf := rfl
@[simp] theorem Wave.setS_dead (w : Wave) (r : Nat) (x : Word) : (w.setS r x).dead = w.dead := rfl

/-! ### An h register set -/

@[simp] theorem Wave.setH_id (w : Wave) (r : Nat) (x : HVal) : (w.setH r x).id = w.id := rfl
@[simp] theorem Wave.setH_core (w : Wave) (r : Nat) (x : HVal) : (w.setH r x).core = w.core := rfl
@[simp] theorem Wave.setH_slot (w : Wave) (r : Nat) (x : HVal) : (w.setH r x).slot = w.slot := rfl
@[simp] theorem Wave.setH_v (w : Wave) (r : Nat) (x : HVal) : (w.setH r x).v = w.v := rfl
@[simp] theorem Wave.setH_s (w : Wave) (r : Nat) (x : HVal) : (w.setH r x).s = w.s := rfl
@[simp] theorem Wave.setH_p (w : Wave) (r : Nat) (x : HVal) : (w.setH r x).p = w.p := rfl
@[simp] theorem Wave.setH_m (w : Wave) (r : Nat) (x : HVal) : (w.setH r x).m = w.m := rfl
@[simp] theorem Wave.setH_present (w : Wave) (r : Nat) (x : HVal) : (w.setH r x).present = w.present := rfl
@[simp] theorem Wave.setH_exited (w : Wave) (r : Nat) (x : HVal) : (w.setH r x).exited = w.exited := rfl
@[simp] theorem Wave.setH_paths (w : Wave) (r : Nat) (x : HVal) : (w.setH r x).paths = w.paths := rfl
@[simp] theorem Wave.setH_frames (w : Wave) (r : Nat) (x : HVal) : (w.setH r x).frames = w.frames := rfl
@[simp] theorem Wave.setH_nextId (w : Wave) (r : Nat) (x : HVal) : (w.setH r x).nextId = w.nextId := rfl
@[simp] theorem Wave.setH_held (w : Wave) (r : Nat) (x : HVal) : (w.setH r x).held = w.held := rfl
@[simp] theorem Wave.setH_trapVec (w : Wave) (r : Nat) (x : HVal) : (w.setH r x).trapVec = w.trapVec := rfl
@[simp] theorem Wave.setH_fair (w : Wave) (r : Nat) (x : HVal) : (w.setH r x).fair = w.fair := rfl
@[simp] theorem Wave.setH_last (w : Wave) (r : Nat) (x : HVal) : (w.setH r x).last = w.last := rfl
@[simp] theorem Wave.setH_run (w : Wave) (r : Nat) (x : HVal) : (w.setH r x).run = w.run := rfl
@[simp] theorem Wave.setH_fresh (w : Wave) (r : Nat) (x : HVal) : (w.setH r x).fresh = w.fresh := rfl
@[simp] theorem Wave.setH_park (w : Wave) (r : Nat) (x : HVal) : (w.setH r x).park = w.park := rfl
@[simp] theorem Wave.setH_parkedAt (w : Wave) (r : Nat) (x : HVal) : (w.setH r x).parkedAt = w.parkedAt := rfl
@[simp] theorem Wave.setH_cmds (w : Wave) (r : Nat) (x : HVal) : (w.setH r x).cmds = w.cmds := rfl
@[simp] theorem Wave.setH_seqs (w : Wave) (r : Nat) (x : HVal) : (w.setH r x).seqs = w.seqs := rfl
@[simp] theorem Wave.setH_order (w : Wave) (r : Nat) (x : HVal) : (w.setH r x).order = w.order := rfl
@[simp] theorem Wave.setH_latchTag (w : Wave) (r : Nat) (x : HVal) : (w.setH r x).latchTag = w.latchTag := rfl
@[simp] theorem Wave.setH_latch (w : Wave) (r : Nat) (x : HVal) : (w.setH r x).latch = w.latch := rfl
@[simp] theorem Wave.setH_resvS (w : Wave) (r : Nat) (x : HVal) : (w.setH r x).resvS = w.resvS := rfl
@[simp] theorem Wave.setH_resvP (w : Wave) (r : Nat) (x : HVal) : (w.setH r x).resvP = w.resvP := rfl
@[simp] theorem Wave.setH_spill (w : Wave) (r : Nat) (x : HVal) : (w.setH r x).spill = w.spill := rfl
@[simp] theorem Wave.setH_spillAt (w : Wave) (r : Nat) (x : HVal) : (w.setH r x).spillAt = w.spillAt := rfl
@[simp] theorem Wave.setH_badSpill (w : Wave) (r : Nat) (x : HVal) : (w.setH r x).badSpill = w.badSpill := rfl
@[simp] theorem Wave.setH_rel (w : Wave) (r : Nat) (x : HVal) : (w.setH r x).rel = w.rel := rfl
@[simp] theorem Wave.setH_asOf (w : Wave) (r : Nat) (x : HVal) : (w.setH r x).asOf = w.asOf := rfl
@[simp] theorem Wave.setH_dead (w : Wave) (r : Nat) (x : HVal) : (w.setH r x).dead = w.dead := rfl

/-! ### An m register set -/

@[simp] theorem Wave.setM_id (w : Wave) (r : Nat) (x : DWord) : (w.setM r x).id = w.id := rfl
@[simp] theorem Wave.setM_core (w : Wave) (r : Nat) (x : DWord) : (w.setM r x).core = w.core := rfl
@[simp] theorem Wave.setM_slot (w : Wave) (r : Nat) (x : DWord) : (w.setM r x).slot = w.slot := rfl
@[simp] theorem Wave.setM_v (w : Wave) (r : Nat) (x : DWord) : (w.setM r x).v = w.v := rfl
@[simp] theorem Wave.setM_s (w : Wave) (r : Nat) (x : DWord) : (w.setM r x).s = w.s := rfl
@[simp] theorem Wave.setM_p (w : Wave) (r : Nat) (x : DWord) : (w.setM r x).p = w.p := rfl
@[simp] theorem Wave.setM_h (w : Wave) (r : Nat) (x : DWord) : (w.setM r x).h = w.h := rfl
@[simp] theorem Wave.setM_present (w : Wave) (r : Nat) (x : DWord) : (w.setM r x).present = w.present := rfl
@[simp] theorem Wave.setM_exited (w : Wave) (r : Nat) (x : DWord) : (w.setM r x).exited = w.exited := rfl
@[simp] theorem Wave.setM_paths (w : Wave) (r : Nat) (x : DWord) : (w.setM r x).paths = w.paths := rfl
@[simp] theorem Wave.setM_frames (w : Wave) (r : Nat) (x : DWord) : (w.setM r x).frames = w.frames := rfl
@[simp] theorem Wave.setM_nextId (w : Wave) (r : Nat) (x : DWord) : (w.setM r x).nextId = w.nextId := rfl
@[simp] theorem Wave.setM_held (w : Wave) (r : Nat) (x : DWord) : (w.setM r x).held = w.held := rfl
@[simp] theorem Wave.setM_trapVec (w : Wave) (r : Nat) (x : DWord) : (w.setM r x).trapVec = w.trapVec := rfl
@[simp] theorem Wave.setM_fair (w : Wave) (r : Nat) (x : DWord) : (w.setM r x).fair = w.fair := rfl
@[simp] theorem Wave.setM_last (w : Wave) (r : Nat) (x : DWord) : (w.setM r x).last = w.last := rfl
@[simp] theorem Wave.setM_run (w : Wave) (r : Nat) (x : DWord) : (w.setM r x).run = w.run := rfl
@[simp] theorem Wave.setM_fresh (w : Wave) (r : Nat) (x : DWord) : (w.setM r x).fresh = w.fresh := rfl
@[simp] theorem Wave.setM_park (w : Wave) (r : Nat) (x : DWord) : (w.setM r x).park = w.park := rfl
@[simp] theorem Wave.setM_parkedAt (w : Wave) (r : Nat) (x : DWord) : (w.setM r x).parkedAt = w.parkedAt := rfl
@[simp] theorem Wave.setM_cmds (w : Wave) (r : Nat) (x : DWord) : (w.setM r x).cmds = w.cmds := rfl
@[simp] theorem Wave.setM_seqs (w : Wave) (r : Nat) (x : DWord) : (w.setM r x).seqs = w.seqs := rfl
@[simp] theorem Wave.setM_order (w : Wave) (r : Nat) (x : DWord) : (w.setM r x).order = w.order := rfl
@[simp] theorem Wave.setM_latchTag (w : Wave) (r : Nat) (x : DWord) : (w.setM r x).latchTag = w.latchTag := rfl
@[simp] theorem Wave.setM_latch (w : Wave) (r : Nat) (x : DWord) : (w.setM r x).latch = w.latch := rfl
@[simp] theorem Wave.setM_resvS (w : Wave) (r : Nat) (x : DWord) : (w.setM r x).resvS = w.resvS := rfl
@[simp] theorem Wave.setM_resvP (w : Wave) (r : Nat) (x : DWord) : (w.setM r x).resvP = w.resvP := rfl
@[simp] theorem Wave.setM_spill (w : Wave) (r : Nat) (x : DWord) : (w.setM r x).spill = w.spill := rfl
@[simp] theorem Wave.setM_spillAt (w : Wave) (r : Nat) (x : DWord) : (w.setM r x).spillAt = w.spillAt := rfl
@[simp] theorem Wave.setM_badSpill (w : Wave) (r : Nat) (x : DWord) : (w.setM r x).badSpill = w.badSpill := rfl
@[simp] theorem Wave.setM_rel (w : Wave) (r : Nat) (x : DWord) : (w.setM r x).rel = w.rel := rfl
@[simp] theorem Wave.setM_asOf (w : Wave) (r : Nat) (x : DWord) : (w.setM r x).asOf = w.asOf := rfl
@[simp] theorem Wave.setM_dead (w : Wave) (r : Nat) (x : DWord) : (w.setM r x).dead = w.dead := rfl

/-! ### A v register written by an issue -/

@[simp] theorem Wave.writeV_id (w : Wave) (t r : Nat) (m : Mask) (f : Nat → Word) : (w.writeV t r m f).id = w.id := rfl
@[simp] theorem Wave.writeV_core (w : Wave) (t r : Nat) (m : Mask) (f : Nat → Word) : (w.writeV t r m f).core = w.core := rfl
@[simp] theorem Wave.writeV_slot (w : Wave) (t r : Nat) (m : Mask) (f : Nat → Word) : (w.writeV t r m f).slot = w.slot := rfl
@[simp] theorem Wave.writeV_s (w : Wave) (t r : Nat) (m : Mask) (f : Nat → Word) : (w.writeV t r m f).s = w.s := rfl
@[simp] theorem Wave.writeV_p (w : Wave) (t r : Nat) (m : Mask) (f : Nat → Word) : (w.writeV t r m f).p = w.p := rfl
@[simp] theorem Wave.writeV_h (w : Wave) (t r : Nat) (m : Mask) (f : Nat → Word) : (w.writeV t r m f).h = w.h := rfl
@[simp] theorem Wave.writeV_m (w : Wave) (t r : Nat) (m : Mask) (f : Nat → Word) : (w.writeV t r m f).m = w.m := rfl
@[simp] theorem Wave.writeV_present (w : Wave) (t r : Nat) (m : Mask) (f : Nat → Word) : (w.writeV t r m f).present = w.present := rfl
@[simp] theorem Wave.writeV_exited (w : Wave) (t r : Nat) (m : Mask) (f : Nat → Word) : (w.writeV t r m f).exited = w.exited := rfl
@[simp] theorem Wave.writeV_paths (w : Wave) (t r : Nat) (m : Mask) (f : Nat → Word) : (w.writeV t r m f).paths = w.paths := rfl
@[simp] theorem Wave.writeV_frames (w : Wave) (t r : Nat) (m : Mask) (f : Nat → Word) : (w.writeV t r m f).frames = w.frames := rfl
@[simp] theorem Wave.writeV_nextId (w : Wave) (t r : Nat) (m : Mask) (f : Nat → Word) : (w.writeV t r m f).nextId = w.nextId := rfl
@[simp] theorem Wave.writeV_held (w : Wave) (t r : Nat) (m : Mask) (f : Nat → Word) : (w.writeV t r m f).held = w.held := rfl
@[simp] theorem Wave.writeV_trapVec (w : Wave) (t r : Nat) (m : Mask) (f : Nat → Word) : (w.writeV t r m f).trapVec = w.trapVec := rfl
@[simp] theorem Wave.writeV_fair (w : Wave) (t r : Nat) (m : Mask) (f : Nat → Word) : (w.writeV t r m f).fair = w.fair := rfl
@[simp] theorem Wave.writeV_last (w : Wave) (t r : Nat) (m : Mask) (f : Nat → Word) : (w.writeV t r m f).last = w.last := rfl
@[simp] theorem Wave.writeV_run (w : Wave) (t r : Nat) (m : Mask) (f : Nat → Word) : (w.writeV t r m f).run = w.run := rfl
@[simp] theorem Wave.writeV_park (w : Wave) (t r : Nat) (m : Mask) (f : Nat → Word) : (w.writeV t r m f).park = w.park := rfl
@[simp] theorem Wave.writeV_parkedAt (w : Wave) (t r : Nat) (m : Mask) (f : Nat → Word) : (w.writeV t r m f).parkedAt = w.parkedAt := rfl
@[simp] theorem Wave.writeV_cmds (w : Wave) (t r : Nat) (m : Mask) (f : Nat → Word) : (w.writeV t r m f).cmds = w.cmds := rfl
@[simp] theorem Wave.writeV_seqs (w : Wave) (t r : Nat) (m : Mask) (f : Nat → Word) : (w.writeV t r m f).seqs = w.seqs := rfl
@[simp] theorem Wave.writeV_order (w : Wave) (t r : Nat) (m : Mask) (f : Nat → Word) : (w.writeV t r m f).order = w.order := rfl
@[simp] theorem Wave.writeV_latchTag (w : Wave) (t r : Nat) (m : Mask) (f : Nat → Word) : (w.writeV t r m f).latchTag = w.latchTag := rfl
@[simp] theorem Wave.writeV_latch (w : Wave) (t r : Nat) (m : Mask) (f : Nat → Word) : (w.writeV t r m f).latch = w.latch := rfl
@[simp] theorem Wave.writeV_resvS (w : Wave) (t r : Nat) (m : Mask) (f : Nat → Word) : (w.writeV t r m f).resvS = w.resvS := rfl
@[simp] theorem Wave.writeV_resvP (w : Wave) (t r : Nat) (m : Mask) (f : Nat → Word) : (w.writeV t r m f).resvP = w.resvP := rfl
@[simp] theorem Wave.writeV_spill (w : Wave) (t r : Nat) (m : Mask) (f : Nat → Word) : (w.writeV t r m f).spill = w.spill := rfl
@[simp] theorem Wave.writeV_spillAt (w : Wave) (t r : Nat) (m : Mask) (f : Nat → Word) : (w.writeV t r m f).spillAt = w.spillAt := rfl
@[simp] theorem Wave.writeV_badSpill (w : Wave) (t r : Nat) (m : Mask) (f : Nat → Word) : (w.writeV t r m f).badSpill = w.badSpill := rfl
@[simp] theorem Wave.writeV_rel (w : Wave) (t r : Nat) (m : Mask) (f : Nat → Word) : (w.writeV t r m f).rel = w.rel := rfl
@[simp] theorem Wave.writeV_asOf (w : Wave) (t r : Nat) (m : Mask) (f : Nat → Word) : (w.writeV t r m f).asOf = w.asOf := rfl
@[simp] theorem Wave.writeV_dead (w : Wave) (t r : Nat) (m : Mask) (f : Nat → Word) : (w.writeV t r m f).dead = w.dead := rfl

/-! ### An s register written by an issue -/

@[simp] theorem Wave.writeS_id (w : Wave) (t r : Nat) (x : Word) : (w.writeS t r x).id = w.id := rfl
@[simp] theorem Wave.writeS_core (w : Wave) (t r : Nat) (x : Word) : (w.writeS t r x).core = w.core := rfl
@[simp] theorem Wave.writeS_slot (w : Wave) (t r : Nat) (x : Word) : (w.writeS t r x).slot = w.slot := rfl
@[simp] theorem Wave.writeS_v (w : Wave) (t r : Nat) (x : Word) : (w.writeS t r x).v = w.v := rfl
@[simp] theorem Wave.writeS_p (w : Wave) (t r : Nat) (x : Word) : (w.writeS t r x).p = w.p := rfl
@[simp] theorem Wave.writeS_h (w : Wave) (t r : Nat) (x : Word) : (w.writeS t r x).h = w.h := rfl
@[simp] theorem Wave.writeS_m (w : Wave) (t r : Nat) (x : Word) : (w.writeS t r x).m = w.m := rfl
@[simp] theorem Wave.writeS_present (w : Wave) (t r : Nat) (x : Word) : (w.writeS t r x).present = w.present := rfl
@[simp] theorem Wave.writeS_exited (w : Wave) (t r : Nat) (x : Word) : (w.writeS t r x).exited = w.exited := rfl
@[simp] theorem Wave.writeS_paths (w : Wave) (t r : Nat) (x : Word) : (w.writeS t r x).paths = w.paths := rfl
@[simp] theorem Wave.writeS_frames (w : Wave) (t r : Nat) (x : Word) : (w.writeS t r x).frames = w.frames := rfl
@[simp] theorem Wave.writeS_nextId (w : Wave) (t r : Nat) (x : Word) : (w.writeS t r x).nextId = w.nextId := rfl
@[simp] theorem Wave.writeS_held (w : Wave) (t r : Nat) (x : Word) : (w.writeS t r x).held = w.held := rfl
@[simp] theorem Wave.writeS_trapVec (w : Wave) (t r : Nat) (x : Word) : (w.writeS t r x).trapVec = w.trapVec := rfl
@[simp] theorem Wave.writeS_fair (w : Wave) (t r : Nat) (x : Word) : (w.writeS t r x).fair = w.fair := rfl
@[simp] theorem Wave.writeS_last (w : Wave) (t r : Nat) (x : Word) : (w.writeS t r x).last = w.last := rfl
@[simp] theorem Wave.writeS_run (w : Wave) (t r : Nat) (x : Word) : (w.writeS t r x).run = w.run := rfl
@[simp] theorem Wave.writeS_park (w : Wave) (t r : Nat) (x : Word) : (w.writeS t r x).park = w.park := rfl
@[simp] theorem Wave.writeS_parkedAt (w : Wave) (t r : Nat) (x : Word) : (w.writeS t r x).parkedAt = w.parkedAt := rfl
@[simp] theorem Wave.writeS_cmds (w : Wave) (t r : Nat) (x : Word) : (w.writeS t r x).cmds = w.cmds := rfl
@[simp] theorem Wave.writeS_seqs (w : Wave) (t r : Nat) (x : Word) : (w.writeS t r x).seqs = w.seqs := rfl
@[simp] theorem Wave.writeS_order (w : Wave) (t r : Nat) (x : Word) : (w.writeS t r x).order = w.order := rfl
@[simp] theorem Wave.writeS_latchTag (w : Wave) (t r : Nat) (x : Word) : (w.writeS t r x).latchTag = w.latchTag := rfl
@[simp] theorem Wave.writeS_latch (w : Wave) (t r : Nat) (x : Word) : (w.writeS t r x).latch = w.latch := rfl
@[simp] theorem Wave.writeS_resvS (w : Wave) (t r : Nat) (x : Word) : (w.writeS t r x).resvS = w.resvS := rfl
@[simp] theorem Wave.writeS_resvP (w : Wave) (t r : Nat) (x : Word) : (w.writeS t r x).resvP = w.resvP := rfl
@[simp] theorem Wave.writeS_spill (w : Wave) (t r : Nat) (x : Word) : (w.writeS t r x).spill = w.spill := rfl
@[simp] theorem Wave.writeS_spillAt (w : Wave) (t r : Nat) (x : Word) : (w.writeS t r x).spillAt = w.spillAt := rfl
@[simp] theorem Wave.writeS_badSpill (w : Wave) (t r : Nat) (x : Word) : (w.writeS t r x).badSpill = w.badSpill := rfl
@[simp] theorem Wave.writeS_rel (w : Wave) (t r : Nat) (x : Word) : (w.writeS t r x).rel = w.rel := rfl
@[simp] theorem Wave.writeS_asOf (w : Wave) (t r : Nat) (x : Word) : (w.writeS t r x).asOf = w.asOf := rfl
@[simp] theorem Wave.writeS_dead (w : Wave) (t r : Nat) (x : Word) : (w.writeS t r x).dead = w.dead := rfl

/-! ### A predicate written by an issue -/

@[simp] theorem Wave.writeP_id (w : Wave) (t r : Nat) (m : Mask) (f : Nat → Bool) : (w.writeP t r m f).id = w.id := by
  unfold Wave.writeP; split <;> rfl
@[simp] theorem Wave.writeP_core (w : Wave) (t r : Nat) (m : Mask) (f : Nat → Bool) : (w.writeP t r m f).core = w.core := by
  unfold Wave.writeP; split <;> rfl
@[simp] theorem Wave.writeP_slot (w : Wave) (t r : Nat) (m : Mask) (f : Nat → Bool) : (w.writeP t r m f).slot = w.slot := by
  unfold Wave.writeP; split <;> rfl
@[simp] theorem Wave.writeP_v (w : Wave) (t r : Nat) (m : Mask) (f : Nat → Bool) : (w.writeP t r m f).v = w.v := by
  unfold Wave.writeP; split <;> rfl
@[simp] theorem Wave.writeP_s (w : Wave) (t r : Nat) (m : Mask) (f : Nat → Bool) : (w.writeP t r m f).s = w.s := by
  unfold Wave.writeP; split <;> rfl
@[simp] theorem Wave.writeP_h (w : Wave) (t r : Nat) (m : Mask) (f : Nat → Bool) : (w.writeP t r m f).h = w.h := by
  unfold Wave.writeP; split <;> rfl
@[simp] theorem Wave.writeP_m (w : Wave) (t r : Nat) (m : Mask) (f : Nat → Bool) : (w.writeP t r m f).m = w.m := by
  unfold Wave.writeP; split <;> rfl
@[simp] theorem Wave.writeP_present (w : Wave) (t r : Nat) (m : Mask) (f : Nat → Bool) : (w.writeP t r m f).present = w.present := by
  unfold Wave.writeP; split <;> rfl
@[simp] theorem Wave.writeP_exited (w : Wave) (t r : Nat) (m : Mask) (f : Nat → Bool) : (w.writeP t r m f).exited = w.exited := by
  unfold Wave.writeP; split <;> rfl
@[simp] theorem Wave.writeP_paths (w : Wave) (t r : Nat) (m : Mask) (f : Nat → Bool) : (w.writeP t r m f).paths = w.paths := by
  unfold Wave.writeP; split <;> rfl
@[simp] theorem Wave.writeP_frames (w : Wave) (t r : Nat) (m : Mask) (f : Nat → Bool) : (w.writeP t r m f).frames = w.frames := by
  unfold Wave.writeP; split <;> rfl
@[simp] theorem Wave.writeP_nextId (w : Wave) (t r : Nat) (m : Mask) (f : Nat → Bool) : (w.writeP t r m f).nextId = w.nextId := by
  unfold Wave.writeP; split <;> rfl
@[simp] theorem Wave.writeP_held (w : Wave) (t r : Nat) (m : Mask) (f : Nat → Bool) : (w.writeP t r m f).held = w.held := by
  unfold Wave.writeP; split <;> rfl
@[simp] theorem Wave.writeP_trapVec (w : Wave) (t r : Nat) (m : Mask) (f : Nat → Bool) : (w.writeP t r m f).trapVec = w.trapVec := by
  unfold Wave.writeP; split <;> rfl
@[simp] theorem Wave.writeP_fair (w : Wave) (t r : Nat) (m : Mask) (f : Nat → Bool) : (w.writeP t r m f).fair = w.fair := by
  unfold Wave.writeP; split <;> rfl
@[simp] theorem Wave.writeP_last (w : Wave) (t r : Nat) (m : Mask) (f : Nat → Bool) : (w.writeP t r m f).last = w.last := by
  unfold Wave.writeP; split <;> rfl
@[simp] theorem Wave.writeP_run (w : Wave) (t r : Nat) (m : Mask) (f : Nat → Bool) : (w.writeP t r m f).run = w.run := by
  unfold Wave.writeP; split <;> rfl
@[simp] theorem Wave.writeP_park (w : Wave) (t r : Nat) (m : Mask) (f : Nat → Bool) : (w.writeP t r m f).park = w.park := by
  unfold Wave.writeP; split <;> rfl
@[simp] theorem Wave.writeP_parkedAt (w : Wave) (t r : Nat) (m : Mask) (f : Nat → Bool) : (w.writeP t r m f).parkedAt = w.parkedAt := by
  unfold Wave.writeP; split <;> rfl
@[simp] theorem Wave.writeP_cmds (w : Wave) (t r : Nat) (m : Mask) (f : Nat → Bool) : (w.writeP t r m f).cmds = w.cmds := by
  unfold Wave.writeP; split <;> rfl
@[simp] theorem Wave.writeP_seqs (w : Wave) (t r : Nat) (m : Mask) (f : Nat → Bool) : (w.writeP t r m f).seqs = w.seqs := by
  unfold Wave.writeP; split <;> rfl
@[simp] theorem Wave.writeP_order (w : Wave) (t r : Nat) (m : Mask) (f : Nat → Bool) : (w.writeP t r m f).order = w.order := by
  unfold Wave.writeP; split <;> rfl
@[simp] theorem Wave.writeP_latchTag (w : Wave) (t r : Nat) (m : Mask) (f : Nat → Bool) : (w.writeP t r m f).latchTag = w.latchTag := by
  unfold Wave.writeP; split <;> rfl
@[simp] theorem Wave.writeP_latch (w : Wave) (t r : Nat) (m : Mask) (f : Nat → Bool) : (w.writeP t r m f).latch = w.latch := by
  unfold Wave.writeP; split <;> rfl
@[simp] theorem Wave.writeP_resvS (w : Wave) (t r : Nat) (m : Mask) (f : Nat → Bool) : (w.writeP t r m f).resvS = w.resvS := by
  unfold Wave.writeP; split <;> rfl
@[simp] theorem Wave.writeP_resvP (w : Wave) (t r : Nat) (m : Mask) (f : Nat → Bool) : (w.writeP t r m f).resvP = w.resvP := by
  unfold Wave.writeP; split <;> rfl
@[simp] theorem Wave.writeP_spill (w : Wave) (t r : Nat) (m : Mask) (f : Nat → Bool) : (w.writeP t r m f).spill = w.spill := by
  unfold Wave.writeP; split <;> rfl
@[simp] theorem Wave.writeP_spillAt (w : Wave) (t r : Nat) (m : Mask) (f : Nat → Bool) : (w.writeP t r m f).spillAt = w.spillAt := by
  unfold Wave.writeP; split <;> rfl
@[simp] theorem Wave.writeP_badSpill (w : Wave) (t r : Nat) (m : Mask) (f : Nat → Bool) : (w.writeP t r m f).badSpill = w.badSpill := by
  unfold Wave.writeP; split <;> rfl
@[simp] theorem Wave.writeP_rel (w : Wave) (t r : Nat) (m : Mask) (f : Nat → Bool) : (w.writeP t r m f).rel = w.rel := by
  unfold Wave.writeP; split <;> rfl
@[simp] theorem Wave.writeP_asOf (w : Wave) (t r : Nat) (m : Mask) (f : Nat → Bool) : (w.writeP t r m f).asOf = w.asOf := by
  unfold Wave.writeP; split <;> rfl
@[simp] theorem Wave.writeP_dead (w : Wave) (t r : Nat) (m : Mask) (f : Nat → Bool) : (w.writeP t r m f).dead = w.dead := by
  unfold Wave.writeP; split <;> rfl

/-! ### A predicate set -/

@[simp] theorem Wave.setP_id (w : Wave) (r : Nat) (m : Mask) (f : Nat → Bool) : (w.setP r m f).id = w.id := by
  unfold Wave.setP; split <;> rfl
@[simp] theorem Wave.setP_core (w : Wave) (r : Nat) (m : Mask) (f : Nat → Bool) : (w.setP r m f).core = w.core := by
  unfold Wave.setP; split <;> rfl
@[simp] theorem Wave.setP_slot (w : Wave) (r : Nat) (m : Mask) (f : Nat → Bool) : (w.setP r m f).slot = w.slot := by
  unfold Wave.setP; split <;> rfl
@[simp] theorem Wave.setP_v (w : Wave) (r : Nat) (m : Mask) (f : Nat → Bool) : (w.setP r m f).v = w.v := by
  unfold Wave.setP; split <;> rfl
@[simp] theorem Wave.setP_s (w : Wave) (r : Nat) (m : Mask) (f : Nat → Bool) : (w.setP r m f).s = w.s := by
  unfold Wave.setP; split <;> rfl
@[simp] theorem Wave.setP_h (w : Wave) (r : Nat) (m : Mask) (f : Nat → Bool) : (w.setP r m f).h = w.h := by
  unfold Wave.setP; split <;> rfl
@[simp] theorem Wave.setP_m (w : Wave) (r : Nat) (m : Mask) (f : Nat → Bool) : (w.setP r m f).m = w.m := by
  unfold Wave.setP; split <;> rfl
@[simp] theorem Wave.setP_present (w : Wave) (r : Nat) (m : Mask) (f : Nat → Bool) : (w.setP r m f).present = w.present := by
  unfold Wave.setP; split <;> rfl
@[simp] theorem Wave.setP_exited (w : Wave) (r : Nat) (m : Mask) (f : Nat → Bool) : (w.setP r m f).exited = w.exited := by
  unfold Wave.setP; split <;> rfl
@[simp] theorem Wave.setP_paths (w : Wave) (r : Nat) (m : Mask) (f : Nat → Bool) : (w.setP r m f).paths = w.paths := by
  unfold Wave.setP; split <;> rfl
@[simp] theorem Wave.setP_frames (w : Wave) (r : Nat) (m : Mask) (f : Nat → Bool) : (w.setP r m f).frames = w.frames := by
  unfold Wave.setP; split <;> rfl
@[simp] theorem Wave.setP_nextId (w : Wave) (r : Nat) (m : Mask) (f : Nat → Bool) : (w.setP r m f).nextId = w.nextId := by
  unfold Wave.setP; split <;> rfl
@[simp] theorem Wave.setP_held (w : Wave) (r : Nat) (m : Mask) (f : Nat → Bool) : (w.setP r m f).held = w.held := by
  unfold Wave.setP; split <;> rfl
@[simp] theorem Wave.setP_trapVec (w : Wave) (r : Nat) (m : Mask) (f : Nat → Bool) : (w.setP r m f).trapVec = w.trapVec := by
  unfold Wave.setP; split <;> rfl
@[simp] theorem Wave.setP_fair (w : Wave) (r : Nat) (m : Mask) (f : Nat → Bool) : (w.setP r m f).fair = w.fair := by
  unfold Wave.setP; split <;> rfl
@[simp] theorem Wave.setP_last (w : Wave) (r : Nat) (m : Mask) (f : Nat → Bool) : (w.setP r m f).last = w.last := by
  unfold Wave.setP; split <;> rfl
@[simp] theorem Wave.setP_run (w : Wave) (r : Nat) (m : Mask) (f : Nat → Bool) : (w.setP r m f).run = w.run := by
  unfold Wave.setP; split <;> rfl
@[simp] theorem Wave.setP_fresh (w : Wave) (r : Nat) (m : Mask) (f : Nat → Bool) : (w.setP r m f).fresh = w.fresh := by
  unfold Wave.setP; split <;> rfl
@[simp] theorem Wave.setP_park (w : Wave) (r : Nat) (m : Mask) (f : Nat → Bool) : (w.setP r m f).park = w.park := by
  unfold Wave.setP; split <;> rfl
@[simp] theorem Wave.setP_parkedAt (w : Wave) (r : Nat) (m : Mask) (f : Nat → Bool) : (w.setP r m f).parkedAt = w.parkedAt := by
  unfold Wave.setP; split <;> rfl
@[simp] theorem Wave.setP_cmds (w : Wave) (r : Nat) (m : Mask) (f : Nat → Bool) : (w.setP r m f).cmds = w.cmds := by
  unfold Wave.setP; split <;> rfl
@[simp] theorem Wave.setP_seqs (w : Wave) (r : Nat) (m : Mask) (f : Nat → Bool) : (w.setP r m f).seqs = w.seqs := by
  unfold Wave.setP; split <;> rfl
@[simp] theorem Wave.setP_order (w : Wave) (r : Nat) (m : Mask) (f : Nat → Bool) : (w.setP r m f).order = w.order := by
  unfold Wave.setP; split <;> rfl
@[simp] theorem Wave.setP_latchTag (w : Wave) (r : Nat) (m : Mask) (f : Nat → Bool) : (w.setP r m f).latchTag = w.latchTag := by
  unfold Wave.setP; split <;> rfl
@[simp] theorem Wave.setP_latch (w : Wave) (r : Nat) (m : Mask) (f : Nat → Bool) : (w.setP r m f).latch = w.latch := by
  unfold Wave.setP; split <;> rfl
@[simp] theorem Wave.setP_resvS (w : Wave) (r : Nat) (m : Mask) (f : Nat → Bool) : (w.setP r m f).resvS = w.resvS := by
  unfold Wave.setP; split <;> rfl
@[simp] theorem Wave.setP_resvP (w : Wave) (r : Nat) (m : Mask) (f : Nat → Bool) : (w.setP r m f).resvP = w.resvP := by
  unfold Wave.setP; split <;> rfl
@[simp] theorem Wave.setP_spill (w : Wave) (r : Nat) (m : Mask) (f : Nat → Bool) : (w.setP r m f).spill = w.spill := by
  unfold Wave.setP; split <;> rfl
@[simp] theorem Wave.setP_spillAt (w : Wave) (r : Nat) (m : Mask) (f : Nat → Bool) : (w.setP r m f).spillAt = w.spillAt := by
  unfold Wave.setP; split <;> rfl
@[simp] theorem Wave.setP_badSpill (w : Wave) (r : Nat) (m : Mask) (f : Nat → Bool) : (w.setP r m f).badSpill = w.badSpill := by
  unfold Wave.setP; split <;> rfl
@[simp] theorem Wave.setP_rel (w : Wave) (r : Nat) (m : Mask) (f : Nat → Bool) : (w.setP r m f).rel = w.rel := by
  unfold Wave.setP; split <;> rfl
@[simp] theorem Wave.setP_asOf (w : Wave) (r : Nat) (m : Mask) (f : Nat → Bool) : (w.setP r m f).asOf = w.asOf := by
  unfold Wave.setP; split <;> rfl
@[simp] theorem Wave.setP_dead (w : Wave) (r : Nat) (m : Mask) (f : Nat → Bool) : (w.setP r m f).dead = w.dead := by
  unfold Wave.setP; split <;> rfl

end Sys2Proof.Machine
end

