-- ==== Sys2Proof/Laws/Store.lean ====
section
/-! SUPPORT. Read after write, and the canonical form, of the sparse stores. -/

namespace Sys2Proof.Machine

open Sys2Proof

variable {α : Type}

@[simp] theorem look_nil (d : α) (k : Nat) : look d [] k = d := rfl

theorem look_insertCell (d x : α) (m : SMap α) (k j : Nat) (h : ∀ c ∈ m, c.1 ≠ k) :
    look d (insertCell k x m) j = if j = k then x else look d m j := by
  induction m with
  | nil => simp [insertCell, look]
  | cons c r ih =>
    obtain ⟨k', y⟩ := c
    have hk : k' ≠ k := h _ List.mem_cons_self
    have ih := ih (fun c hc => h c (by simp [hc]))
    by_cases hlt : k < k'
    · simp [insertCell, hlt, look]
    · simp only [insertCell, hlt, if_false, look]
      by_cases hj : j = k'
      · subst hj; simp [hk]
      · simp [hj, ih]

theorem look_filter_ne (d : α) (m : SMap α) (k j : Nat) :
    look d (m.filter (fun c => c.1 ≠ k)) j = if j = k then d else look d m j := by
  induction m with
  | nil => simp
  | cons c r ih =>
    obtain ⟨k', y⟩ := c
    by_cases hk : k' = k
    · subst hk
      simp only [List.filter_cons, ne_eq, not_true_eq_false, decide_false, Bool.false_eq_true, if_false, look]
      rw [ih]; by_cases hj : j = k' <;> simp [hj]
    · simp only [List.filter_cons, ne_eq, hk, not_false_eq_true, decide_true, if_true, look]
      by_cases hj : j = k'
      · subst hj; simp [hk]
      · simpa [hj] using ih

/-- A store reads the value written at the key written, and what it held at every other key. -/
theorem look_put [DecidableEq α] (d : α) (m : SMap α) (k j : Nat) (x : α) :
    look d (put d m k x) j = if j = k then x else look d m j := by
  unfold put
  by_cases hx : x = d
  · simp only [hx, if_true]; exact look_filter_ne d m k j
  · simp only [hx, if_false]
    rw [look_insertCell _ _ _ _ _ (by simp), look_filter_ne]
    by_cases hj : j = k <;> simp [hj]

@[simp] theorem look_put_same [DecidableEq α] (d : α) (m : SMap α) (k : Nat) (x : α) : look d (put d m k x) k = x := by
  simp [look_put]

theorem look_put_ne [DecidableEq α] (d : α) (m : SMap α) {k j : Nat} (x : α) (h : j ≠ k) :
    look d (put d m k x) j = look d m j := by
  simp [look_put, h]

theorem SMap.wf_iff [DecidableEq α] (d : α) (m : SMap α) :
    SMap.wf d m = true ↔ (∀ c ∈ m, c.2 ≠ d) ∧ m.Pairwise (fun a b => a.1 < b.1) := by
  simp [SMap.wf]

@[simp] theorem SMap.wf_nil [DecidableEq α] (d : α) : SMap.wf d [] = true := rfl

/-- Leaving out cells keeps the canonical form. -/
theorem SMap.wf_filter [DecidableEq α] (d : α) (m : SMap α) (p : Nat × α → Bool) (h : SMap.wf d m = true) :
    SMap.wf d (m.filter p) = true := by
  rw [SMap.wf_iff] at *
  exact ⟨fun c hc => h.1 c (List.mem_of_mem_filter hc), h.2.filter _⟩

theorem mem_insertCell (k : Nat) (x : α) (m : SMap α) (c : Nat × α) :
    c ∈ insertCell k x m ↔ c = (k, x) ∨ c ∈ m := by
  induction m with
  | nil => simp [insertCell]
  | cons c' r ih =>
    obtain ⟨k', y⟩ := c'
    by_cases h : k < k'
    · simp [insertCell, h]
    · simp only [insertCell, h, if_false, List.mem_cons, ih]; tauto

theorem insertCell_sorted (k : Nat) (x : α) (m : SMap α) (h : m.Pairwise (fun a b => a.1 < b.1)) (hk : ∀ c ∈ m, c.1 ≠ k) :
    (insertCell k x m).Pairwise (fun a b => a.1 < b.1) := by
  induction m with
  | nil => simp [insertCell]
  | cons c r ih =>
    obtain ⟨k', y⟩ := c
    rw [List.pairwise_cons] at h
    by_cases hlt : k < k'
    · simp only [insertCell, hlt, if_true, List.pairwise_cons]
      refine ⟨fun b hb => ?_, h⟩
      rcases List.mem_cons.1 hb with rfl | hb
      · exact hlt
      · exact lt_trans hlt (h.1 b hb)
    · have hne : k' ≠ k := hk _ List.mem_cons_self
      simp only [insertCell, hlt, if_false, List.pairwise_cons]
      refine ⟨fun b hb => ?_, ih h.2 (fun c hc => hk c (by simp [hc]))⟩
      rcases (mem_insertCell k x r b).1 hb with rfl | hb
      · show k' < k; omega
      · exact h.1 b hb

/-- A write keeps the canonical form. -/
theorem SMap.wf_put [DecidableEq α] (d : α) (m : SMap α) (k : Nat) (x : α) (h : SMap.wf d m = true) :
    SMap.wf d (put d m k x) = true := by
  unfold put
  have hf := SMap.wf_filter d m (fun c => c.1 ≠ k) h
  by_cases hx : x = d
  · simpa [hx] using hf
  · simp only [hx, if_false]
    rw [SMap.wf_iff] at *
    refine ⟨fun c hc => ?_, insertCell_sorted k x _ hf.2 (by simp)⟩
    rcases (mem_insertCell _ _ _ _).1 hc with rfl | hc
    · exact hx
    · exact hf.1 c hc

theorem SMap.wf_keepKeys [DecidableEq α] (d : α) (t : Nat → Bool) (m : SMap α) (h : SMap.wf d m = true) :
    SMap.wf d (keepKeys t m) = true := SMap.wf_filter d m _ h

/-! ### Memories -/

theorem Memory.read_write (m : Memory) (a b : Nat) (x : Byte) : (m.write a x).read b = if b = a then x else m.read b :=
  look_put _ m a b x

theorem Memory.read_write_ne (m : Memory) {a b : Nat} (x : Byte) (h : b ≠ a) : (m.write a x).read b = m.read b :=
  look_put_ne _ m x h

theorem Memory.wf_write (m : Memory) (a : Nat) (x : Byte) (h : m.wf = true) : (m.write a x).wf = true := SMap.wf_put _ m a x h

theorem Memory.wf_writeBytes (bs : List Byte) (m : Memory) (a : Nat) (h : m.wf = true) : (m.writeBytes a bs).wf = true := by
  induction bs generalizing m a with
  | nil => exact h
  | cons b bs ih => exact ih _ _ (Memory.wf_write m a b h)

theorem Memory.wf_filter (m : Memory) (p : Host.Cell → Bool) (h : m.wf = true) : Memory.wf (m.filter p) = true :=
  SMap.wf_filter _ m p h

theorem Memory.wf_clear (m : Memory) (a n : Nat) (h : m.wf = true) : (m.clear a n).wf = true := Memory.wf_filter m _ h

/-- A byte outside the bytes written reads as before. -/
theorem Memory.read_writeBytes_outside (bs : List Byte) (m : Memory) (a b : Nat) (h : b < a ∨ a + bs.length ≤ b) :
    (m.writeBytes a bs).read b = m.read b := by
  induction bs generalizing m a with
  | nil => rfl
  | cons x bs ih =>
    simp only [List.length_cons] at h
    rw [Memory.writeBytes, ih _ _ (by omega), Memory.read_write_ne _ _ (by omega)]

/-- A byte written reads as it was written. -/
theorem Memory.read_writeBytes_inside (bs : List Byte) (m : Memory) (a i : Nat) (h : i < bs.length) :
    (m.writeBytes a bs).read (a + i) = bs[i] := by
  induction bs generalizing m a i with
  | nil => simp at h
  | cons x bs ih =>
    cases i with
    | zero => rw [Memory.writeBytes, Memory.read_writeBytes_outside _ _ _ _ (by omega), Memory.read_write]; simp
    | succ i =>
      have := ih (m.write a x) (a + 1) i (by simpa using h)
      rw [Memory.writeBytes, show a + (i + 1) = a + 1 + i by omega, this]; simp

/-! ### Bytes of a number (R8) -/

theorem ofBytes_toBytes (n x : Nat) : ofBytes (toBytes n x) = x % 256 ^ n := by
  induction n generalizing x with
  | zero => simp [toBytes, ofBytes, Nat.mod_one]
  | succ n ih =>
    rw [toBytes, ofBytes, ih, Nat.pow_succ', Nat.mod_mul]
    simp

theorem length_toBytes (n x : Nat) : (toBytes n x).length = n := by
  induction n generalizing x with
  | zero => rfl
  | succ n ih => simp [toBytes, ih]
theorem ofBytes_append (a b : List Byte) : ofBytes (a ++ b) = ofBytes a + 256 ^ a.length * ofBytes b := by
  induction a with
  | nil => simp [ofBytes]
  | cons x a ih => simp [ofBytes, ih, Nat.pow_succ', Nat.mul_add, Nat.mul_assoc, Nat.add_assoc]

end Sys2Proof.Machine
end

