-- ==== Sys2Proof/Laws/Issue.lean ====
section
/-! SUPPORT. What an issue finds and what it leaves: groups and waves after an update, the context of an issue, the frontier after
it, and the registers after a result. -/

namespace Sys2Proof.Machine

open Sys2Proof

/-! ### Groups and waves after an update -/

theorem find?_map_id {α : Type} (l : List α) (key : α → Nat) (F : α → α) (k : Nat) (h : ∀ x, key (F x) = key x) :
    (l.map F).find? (fun x => decide (key x = k)) = (l.find? (fun x => decide (key x = k))).map F := by
  induction l with
  | nil => rfl
  | cons a r ih =>
    simp only [List.map_cons, List.find?_cons, h]
    by_cases hk : key a = k <;> simp [hk, ih]

/-- Another element is found as before where only those with one key are changed. -/
theorem find?_map_other {α : Type} (l : List α) (key : α → Nat) (F : α → α) (j k : Nat)
    (h : ∀ x, key (F x) = key x) (hj : k ≠ j) :
    (l.map (fun x => if key x = j then F x else x)).find? (fun x => decide (key x = k))
      = l.find? (fun x => decide (key x = k)) := by
  rw [find?_map_id l key (fun x => if key x = j then F x else x) k (fun x => by split <;> simp [h])]
  cases hf : l.find? (fun x => decide (key x = k)) with
  | none => rfl
  | some a =>
    have : key a = k := by simpa using List.find?_some hf
    simp [this, hj]

/-- An element with the changed key is found changed. -/
theorem find?_map_here {α : Type} (l : List α) (key : α → Nat) (F : α → α) (k : Nat) (h : ∀ x, key (F x) = key x) :
    (l.map (fun x => if key x = k then F x else x)).find? (fun x => decide (key x = k))
      = (l.find? (fun x => decide (key x = k))).map F := by
  rw [find?_map_id l key (fun x => if key x = k then F x else x) k (fun x => by split <;> simp [h])]
  cases hf : l.find? (fun x => decide (key x = k)) with
  | none => rfl
  | some a =>
    have : key a = k := by simpa using List.find?_some hf
    simp [this]

theorem State.group?_updGroup_ne (s : State) {g k : Nat} (F : Group → Group) (h : ∀ x, (F x).id = x.id) (hk : k ≠ g) :
    (s.updGroup g F).group? k = s.group? k := find?_map_other _ Group.id F g k h hk

theorem State.group?_updGroup (s : State) (g : Nat) (F : Group → Group) (h : ∀ x, (F x).id = x.id) :
    (s.updGroup g F).group? g = (s.group? g).map F := find?_map_here _ Group.id F g h

/-- A group with one wave changed. -/
def Group.updWave (g : Group) (w : Nat) (F : Wave → Wave) : Group :=
  { g with waves := g.waves.map (fun y => if y.id = w then F y else y) }

theorem State.updWave_eq (s : State) (g w : Nat) (F : Wave → Wave) :
    s.updWave g w F = s.updGroup g (fun x => x.updWave w F) := rfl

theorem Group.wave?_updWave (g : Group) (w : Nat) (F : Wave → Wave) (h : ∀ x, (F x).id = x.id) :
    (g.updWave w F).wave? w = (g.wave? w).map F := find?_map_here _ Wave.id F w h

theorem Group.wave?_updWave_ne (g : Group) {w k : Nat} (F : Wave → Wave) (h : ∀ x, (F x).id = x.id) (hk : k ≠ w) :
    (g.updWave w F).wave? k = g.wave? k := find?_map_other _ Wave.id F w k h hk

theorem State.group?_updWave_ne (s : State) {g k : Nat} (w : Nat) (F : Wave → Wave) (hk : k ≠ g) :
    (s.updWave g w F).group? k = s.group? k := State.group?_updGroup_ne s _ (fun _ => rfl) hk

theorem State.group?_updWave (s : State) (g w : Nat) (F : Wave → Wave) :
    (s.updWave g w F).group? g = (s.group? g).map (fun x => x.updWave w F) := State.group?_updGroup s g _ (fun _ => rfl)

theorem State.group?_id (s : State) {k : Nat} {g : Group} (h : s.group? k = some g) : g.id = k := by
  simpa using List.find?_some h

theorem Group.wave?_id (g : Group) {k : Nat} {w : Wave} (h : g.wave? k = some w) : w.id = k := by
  simpa using List.find?_some h

/-! ### The context of an issue -/

theorem mem_of_bestPath (ps : List Path) (p : Path) (h : bestPath ps = some p) : p ∈ ps := by
  induction ps generalizing p with
  | nil => simp [bestPath] at h
  | cons q qs ih =>
    simp only [bestPath] at h
    cases hb : bestPath qs with
    | none => simp [hb] at h; simp [h]
    | some x =>
      simp only [hb, Option.some.injEq] at h
      split at h
      · exact List.mem_cons_of_mem _ (ih p (h ▸ hb))
      · exact h ▸ List.mem_cons_self

theorem Wave.readyIn_subset (w : Wave) (fr : Nat) : ∀ p ∈ w.readyIn fr, p ∈ w.paths := by
  intro p hp
  unfold Wave.readyIn at hp
  split at hp
  · simp at hp
  · exact List.mem_of_mem_filter hp

/-- The path that issues is a path of the wave. -/
theorem Wave.choose_mem (w : Wave) (p : Path) (h : w.choose = some p) : p ∈ w.paths := by
  simp only [Wave.choose] at h
  cases h1 : w.held.bind (fun id => w.paths.find? (fun p => decide (p.id = id))) with
  | some q =>
    rw [h1] at h
    cases h
    obtain ⟨id, _, h2⟩ := Option.bind_eq_some_iff.1 h1
    exact List.mem_of_find?_eq_some h2
  | none =>
    rw [h1] at h
    dsimp only at h
    split at h
    · rename_i q hq
      cases h
      obtain ⟨x, _, h2⟩ := Option.bind_eq_some_iff.1 hq
      have := List.mem_of_find?_eq_some h2
      unfold Wave.readyPaths at this
      obtain ⟨fr, _, hfr⟩ := List.mem_flatMap.1 this
      exact Wave.readyIn_subset w fr _ hfr
    · unfold Wave.natural at h
      obtain ⟨fr, _, hfr⟩ := List.exists_of_findSome?_eq_some h
      exact Wave.readyIn_subset w fr _ (mem_of_bestPath _ _ hfr)

/-- What the context of an issue is: the state differs in the issuing wave alone, which stands in it with its group. -/
structure Ctx.Found (c : Ctx) (s : State) (f : Form) : Prop where
  form   : c.form = f
  rest   : c.st = { s with groups := c.st.groups }
  groups : ∀ k, k ≠ c.grp.id → c.st.group? k = s.group? k
  group  : c.st.group? c.grp.id = some c.grp
  wave   : c.grp.wave? c.wave.id = some c.wave
  path   : c.path ∈ c.wave.paths
  tick   : c.st.tick = s.tick

theorem State.context_found {s : State} {f : Form} {c : Ctx} (h : s.context f = some c) : c.Found s f := by
  unfold State.context at h
  split at h
  · simp at h
  · rename_i g w p hi
    simp only [Option.some.injEq] at h
    subst h
    unfold State.issuer? at hi
    simp only [Option.bind_eq_bind, Option.bind_eq_some_iff, Option.pure_def, Option.some.injEq] at hi
    obtain ⟨⟨gi, wi⟩, _, g', hg, w', hw, p', hp, he⟩ := hi
    simp only [Prod.mk.injEq] at he
    obtain ⟨rfl, rfl, rfl⟩ := he
    have hgid := State.group?_id s hg
    have hwid := Group.wave?_id g' hw
    dsimp only at *
    set W : Wave := w'.takeUp p'.id with hW
    have hWid : W.id = w'.id := rfl
    have hWp : W.paths = w'.paths := rfl
    have hset : g'.setWave W = g'.updWave w'.id (fun _ => W) := by simp [Group.setWave, Group.updWave, hWid]
    have hfind : (g'.updWave w'.id (fun _ => W)).wave? w'.id = some W := by
      have := find?_map_here g'.waves Wave.id (fun x => if x.id = w'.id then W else x) w'.id (by
        intro x; split
        · rename_i hx; rw [hWid, hx]
        · rfl)
      simp only [Group.wave?, Group.updWave]
      have e : (g'.waves.map fun y => if y.id = w'.id then W else y)
          = g'.waves.map (fun x => if x.id = w'.id then (fun x => if x.id = w'.id then W else x) x else x) := by
        apply List.map_congr_left; intro x _; by_cases hx : x.id = w'.id <;> simp [hx]
      rw [e, this]
      have hw2 : g'.waves.find? (fun x => decide (x.id = w'.id)) = some w' := by rw [hwid]; exact hw
      simp [hw2]
    refine ⟨rfl, rfl, fun k hk => State.group?_updWave_ne s _ _ hk, ?_, ?_, ?_, rfl⟩
    · show (s.updWave g'.id w'.id fun _ => W).group? (g'.setWave W).id = _
      rw [Group.setWave_id, State.group?_updWave, hgid, hg, hset]; rfl
    · show (g'.setWave W).wave? W.id = _
      rw [hset, hWid]; exact hfind
    · show p' ∈ W.paths
      rw [hWp]; exact Wave.choose_mem _ _ hp

/-- What an issue with legal operands and an active lane finds. -/
theorem State.issued_iff {s : State} {op : Nat} {f : Form} {d a b : Allow} {x : Option Allow} {c : Ctx} :
    s.issued op f d a b x = some c ↔ s.context f = some c ∧ c.operandsOk op d a b x = true ∧ c.act ≠ 0 := by
  simp [State.issued, Option.filter_eq_some_iff]

/-- An instruction whose effect is made goes on at the next word. -/
theorem issueInstr_done {s : State} {op : Nat} {f : Form} {d a b : Allow} {x : Option Allow} {c : Ctx} {extra : Ctx → Bool}
    {body : Ctx → Res} {t : State} (h : s.issued op f d a b x = some c) (he : extra c = true) (hb : body c = .done t) :
    issueInstr op f s d a b x extra body = .next (c.finish op true t) := by
  obtain ⟨h1, h2, h3⟩ := State.issued_iff.1 h
  simp only [issueInstr, h1, h2, he, Bool.and_self, Bool.not_true, Bool.false_eq_true, if_false, if_neg h3, hb]

/-- An instruction that has placed its paths itself. -/
theorem issueInstr_moved {s : State} {op : Nat} {f : Form} {d a b : Allow} {x : Option Allow} {c : Ctx} {extra : Ctx → Bool}
    {body : Ctx → Res} {t : State} (h : s.issued op f d a b x = some c) (he : extra c = true) (hb : body c = .moved t) :
    issueInstr op f s d a b x extra body = .next (c.finish op false t) := by
  obtain ⟨h1, h2, h3⟩ := State.issued_iff.1 h
  simp only [issueInstr, h1, h2, he, Bool.and_self, Bool.not_true, Bool.false_eq_true, if_false, if_neg h3, hb]

/-- An instruction that waits is tried again. -/
theorem issueInstr_wait {s : State} {op : Nat} {f : Form} {d a b : Allow} {x : Option Allow} {c : Ctx} {extra : Ctx → Bool}
    {body : Ctx → Res} {t : State} {park : Bool} (h : s.issued op f d a b x = some c) (he : extra c = true) (hb : body c = .wait park t) :
    issueInstr op f s d a b x extra body = .next (c.waits park none t) := by
  obtain ⟨h1, h2, h3⟩ := State.issued_iff.1 h
  simp only [issueInstr, h1, h2, he, Bool.and_self, Bool.not_true, Bool.false_eq_true, if_false, if_neg h3, hb]

/-- An instruction that parks for commands of the PORT class. -/
theorem issueInstr_waitPort {s : State} {op : Nat} {f : Form} {d a b : Allow} {x : Option Allow} {c : Ctx} {extra : Ctx → Bool}
    {body : Ctx → Res} {t : State} {seqs : List Nat} (h : s.issued op f d a b x = some c) (he : extra c = true) (hb : body c = .waitPort seqs t) :
    issueInstr op f s d a b x extra body = .next (c.waits true (some seqs) t) := by
  obtain ⟨h1, h2, h3⟩ := State.issued_iff.1 h
  simp only [issueInstr, h1, h2, he, Bool.and_self, Bool.not_true, Bool.false_eq_true, if_false, if_neg h3, hb]

/-- An instruction that faults. -/
theorem issueInstr_fault {s : State} {op : Nat} {f : Form} {d a b : Allow} {x : Option Allow} {c : Ctx} {extra : Ctx → Bool}
    {body : Ctx → Res} {code : Code} (h : s.issued op f d a b x = some c) (he : extra c = true) (hb : body c = .fault code) :
    issueInstr op f s d a b x extra body = .next (c.st.raiseFault c.grp.id c.wave.id code c.path.pc) := by
  obtain ⟨h1, h2, h3⟩ := State.issued_iff.1 h
  simp only [issueInstr, h1, h2, he, Bool.and_self, Bool.not_true, Bool.false_eq_true, if_false, if_neg h3, hb]

/-! ### The issuing group and wave through an update -/

theorem Ctx.Left.start {c : Ctx} {s : State} {f : Form} (h : c.Found s f) : c.Left s c.st c.grp c.wave :=
  ⟨h.group, h.wave, h.groups, fun _ _ => rfl⟩

/-- The issuing wave changed. -/
theorem Ctx.Left.updWave {c : Ctx} {s t : State} {g : Group} {w : Wave} (h : c.Left s t g w) (F : Wave → Wave)
    (hF : ∀ x, (F x).id = x.id) : c.Left s (c.updWave t F) (g.updWave c.wave.id F) (F w) where
  group := by rw [Ctx.updWave, State.group?_updWave, h.group]; rfl
  wave := by rw [Group.wave?_updWave _ _ _ hF, h.wave]; rfl
  groups := fun k hk => by rw [Ctx.updWave, State.group?_updWave_ne _ _ _ hk]; exact h.groups k hk
  waves := fun k hk => by rw [Group.wave?_updWave_ne _ _ hF hk]; exact h.waves k hk

/-- The issuing group changed besides its waves. -/
theorem Ctx.Left.updGroup {c : Ctx} {s t : State} {g : Group} {w : Wave} (h : c.Left s t g w) (F : Group → Group)
    (hF : ∀ x, (F x).id = x.id) (hw : (F g).waves = g.waves) : c.Left s (c.updGroup t F) (F g) w where
  group := by rw [Ctx.updGroup, State.group?_updGroup _ _ _ hF, h.group]; rfl
  wave := by unfold Group.wave?; rw [hw]; exact h.wave
  groups := fun k hk => by rw [Ctx.updGroup, State.group?_updGroup_ne _ _ hF hk]; exact h.groups k hk
  waves := fun k hk => by unfold Group.wave?; rw [hw]; exact h.waves k hk

/-- A state with the same groups. -/
theorem Ctx.Left.congr {c : Ctx} {s t u : State} {g : Group} {w : Wave} (h : c.Left s t g w) (hg : u.groups = t.groups) :
    c.Left s u g w where
  group := by unfold State.group?; rw [hg]; exact h.group
  wave := h.wave
  groups := fun k hk => by unfold State.group?; rw [hg]; exact h.groups k hk
  waves := h.waves

end Sys2Proof.Machine
end

