-- ==== Sys2Proof/Laws/Regs.lean ====
section
/-! SUPPORT. Lanes and masks, and the registers after the results of an issue. -/

namespace Sys2Proof.Machine

open Sys2Proof

/-! ### Lanes and masks -/

@[simp] theorem mem_lanesOf (m : Mask) (l : Nat) : l ∈ lanesOf m ↔ l < 64 ∧ m.getLsbD l = true := by
  simp [lanesOf, allLanes]

theorem sum_pow_filter (t : Nat → Bool) (n : Nat) :
    ((List.range n).filter t).foldl (fun acc l => acc + 2 ^ l) 0 < 2 ^ n ∧
    ∀ l, (((List.range n).filter t).foldl (fun acc l => acc + 2 ^ l) 0).testBit l = (decide (l < n) && t l) := by
  induction n with
  | zero => simp
  | succ n ih =>
    obtain ⟨h1, h2⟩ := ih
    simp only [List.range_succ, List.filter_append, List.foldl_append]
    set x := ((List.range n).filter t).foldl (fun acc l => acc + 2 ^ l) 0 with hx
    cases ht : t n with
    | false =>
      refine ⟨by simp [ht]; rw [pow_succ]; omega, fun l => ?_⟩
      simp only [ht, List.filter_cons, List.filter_nil, Bool.false_eq_true, if_false, List.foldl_nil, h2]
      by_cases hl : l = n
      · subst hl; simp [ht]
      · have : (decide (l < n + 1)) = decide (l < n) := by apply decide_eq_decide.2; omega
        rw [this]
    | true =>
      refine ⟨by simp [ht]; rw [pow_succ]; omega, fun l => ?_⟩
      simp only [ht, List.filter_cons, List.filter_nil, if_true, List.foldl_cons, List.foldl_nil]
      rw [Nat.add_comm]
      rcases lt_trichotomy l n with hl | hl | hl
      · rw [Nat.testBit_two_pow_add_gt hl, h2]; simp [hl, Nat.lt_succ_of_lt hl]
      · subst hl
        rw [Nat.testBit_two_pow_add_eq, h2]; simp [ht]
      · have hb : (2 ^ n + x).testBit l = false := by
          apply Nat.testBit_lt_two_pow
          calc 2 ^ n + x < 2 ^ n + 2 ^ n := by omega
            _ = 2 ^ (n + 1) := by rw [pow_succ]; omega
            _ ≤ 2 ^ l := Nat.pow_le_pow_right (by norm_num) hl
        rw [hb]; simp; omega

/-- A lane of `maskWhere` is set where the test holds. -/
theorem getLsbD_maskWhere (t : Nat → Bool) (l : Nat) : (maskWhere t).getLsbD l = (decide (l < 64) && t l) := by
  simp only [maskWhere, allLanes, BitVec.getLsbD_ofNat, (sum_pow_filter t 64).2]
  by_cases h : l < 64 <;> simp [h]

theorem topLane_some {m : Mask} (h : m ≠ 0) : ∃ l, topLane m = some l := by
  unfold topLane
  cases hl : (lanesOf m).getLast? with
  | some l => exact ⟨l, rfl⟩
  | none =>
    rw [List.getLast?_eq_none_iff] at hl
    exfalso; apply h
    apply BitVec.eq_of_getLsbD_eq
    intro i hi
    have : i ∉ lanesOf m := by rw [hl]; simp
    rw [mem_lanesOf] at this
    have hm : m.getLsbD i = false := by
      cases hb : m.getLsbD i with
      | false => rfl
      | true => exact absurd ⟨hi, hb⟩ this
    rw [hm]; simp

/-- The lane that decides is the highest-numbered active one. -/
theorem Ctx.topLane_eq {c : Ctx} (h : c.act ≠ 0) : topLane c.act = some c.top := by
  obtain ⟨l, hl⟩ := topLane_some h
  simp [Ctx.top, hl]

/-! ### Registers written -/

theorem look_putLanes (m : SMap Word) (reg : Nat) (val : Nat → Word) (ls : List Nat) (k : Nat)
    (h : ∀ l ∈ ls, l < 64) (r l : Nat) (hl : l < 64) (hk : k = r * 64 + l) :
    look 0 (putLanes m reg val ls) k = if r = reg ∧ l ∈ ls then val l else look 0 m k := by
  induction ls generalizing m with
  | nil => simp [putLanes]
  | cons x xs ih =>
    have hx : x < 64 := h x List.mem_cons_self
    rw [putLanes, ih _ (fun y hy => h y (List.mem_cons_of_mem _ hy)), look_put]
    by_cases hr : r = reg
    · subst hr
      by_cases hlx : l = x
      · subst hlx; simp [hk]
      · have : ¬ k = r * 64 + x := by omega
        simp [this, hlx]
    · have : ¬ k = reg * 64 + x := by omega
      simp [hr, this]

theorem Wave.v?_writeV (w : Wave) (t reg : Nat) (m : Mask) (f : Nat → Word) (r l : Nat) (hl : l < 64) :
    (w.writeV t reg m f).v? r l
      = if r = reg ∧ m.getLsbD l = true then freshWrite t 0 reg l w.fresh (w.v? reg l) (f l) else w.v? r l := by
  unfold Wave.writeV Wave.v?
  dsimp only
  rw [look_putLanes _ _ _ _ _ (fun x hx => ((mem_lanesOf m x).1 hx).1) r l hl rfl]
  simp [hl]

theorem Wave.v?_setV (w : Wave) (reg : Nat) (m : Mask) (f : Nat → Word) (r l : Nat) (hl : l < 64) :
    (w.setV reg m f).v? r l = if r = reg ∧ m.getLsbD l = true then f l else w.v? r l := by
  unfold Wave.setV Wave.v?
  dsimp only
  rw [look_putLanes _ _ _ _ _ (fun x hx => ((mem_lanesOf m x).1 hx).1) r l hl rfl]
  simp [hl]

theorem Wave.s?_writeS (w : Wave) (t reg : Nat) (x : Word) (r : Nat) :
    (w.writeS t reg x).s? r = if r = reg then freshWrite t 1 reg 0 w.fresh (w.s? reg) x else w.s? r := by
  simp [Wave.writeS, Wave.s?, look_put]

theorem Wave.p?_writeP (w : Wave) (t reg : Nat) (m : Mask) (f : Nat → Bool) (r l : Nat) (hl : l < 64) :
    ((w.writeP t reg m f).p? r).getLsbD l
      = if r = reg ∧ reg ≠ 7 ∧ m.getLsbD l = true
        then decide (freshWrite t 2 reg l w.fresh (bitWord ((w.p? reg).getLsbD l)) (bitWord (f l)) = 1)
        else (w.p? r).getLsbD l := by
  by_cases h7 : reg = 7
  · simp [Wave.writeP, h7]
  · by_cases hr : r = reg
    · subst hr
      simp only [Wave.writeP, h7, if_false, Wave.p?, look_put, if_true, getLsbD_maskWhere, hl, decide_true, Bool.true_and]
      cases hm : m.getLsbD l <;> simp [bitWord, h7]
    · by_cases hr7 : r = 7
      · subst hr7; simp [Wave.p?, hr]
      · simp [Wave.writeP, h7, Wave.p?, look_put, hr, hr7]

theorem Group.g?_setG (g : Group) (reg : Nat) (x : Word) (r : Nat) :
    (g.setG reg x).g? r = if r = reg then x else g.g? r := by
  simp [Group.setG, Group.g?, look_put]

theorem Group.g?_writeG (g : Group) (wid reg : Nat) (x : Word) (r : Nat) :
    (g.writeG wid reg x).g? r = if r = reg ∧ g.mayG wid r = true then x else g.g? r := by
  unfold Group.writeG
  by_cases hr : r = reg
  · subst hr; split <;> simp_all [Group.g?, Group.setG]
  · split <;> simp [Group.g?, Group.setG, look_put, hr]

/-- A wave's own write of a g register bars none of its later ones (R33). -/
theorem Group.mayG_writeG (g : Group) (wid reg : Nat) (x : Word) (r : Nat) : (g.writeG wid reg x).mayG wid r = g.mayG wid r := by
  unfold Group.writeG
  by_cases hr : r = reg
  · subst hr; split
    · rename_i h; rw [h]; simp [Group.mayG]
    · rfl
  · split <;> simp [Group.mayG, look_put, hr]

/-- Whether an earlier instruction of an unchecked run wrote a register in a lane. -/
def touched (fresh : List Fresh) (space index lane : Nat) : Bool :=
  fresh.any (fun r => r.space = space && r.index = index && r.lanes.getLsbD lane)

theorem freshWrite_congr (t space index lane : Nat) {f f' : List Fresh} (now new : Word)
    (h : touched f space index lane = touched f' space index lane) :
    freshWrite t space index lane f now new = freshWrite t space index lane f' now new := by
  unfold touched at h; unfold freshWrite; rw [h]

/-! ### A result at the issuing wave and group -/

/-- What a result changes in the issuing wave. -/
def Ctx.onWave (c : Ctx) (x : Write) (w : Wave) : Wave :=
  let tick := c.st.tick
  match x.dest with
  | .v i =>
    let w := w.writeV tick i c.act (fun l => word (x.val l))
    if x.wide then w.writeV tick (i + 1) c.act (fun l => word (x.val l / 2 ^ 32)) else w
  | .s i =>
    let w := w.writeS tick i (word (x.val c.top))
    if x.wide then w.writeS tick (i + 1) (word (x.val c.top / 2 ^ 32)) else w
  | .p i => w.writeP tick i c.act (fun l => x.val l % 2 = 1)
  | _ => w

/-- What a result changes in the issuing group. -/
def Ctx.onGroup (c : Ctx) (x : Write) (g : Group) : Group :=
  match x.dest with
  | .g i =>
    let g := g.writeG c.wave.id i (word (x.val c.top))
    if x.wide then g.writeG c.wave.id (i + 1) (word (x.val c.top / 2 ^ 32)) else g
  | _ => g

theorem Ctx.onWave_sameBut (c : Ctx) (x : Write) (w : Wave) : (c.onWave x w).sameBut w := by
  unfold Ctx.onWave Wave.sameBut
  cases x.dest <;> try rfl
  · dsimp only; split <;> rfl
  · dsimp only; split <;> rfl
  · unfold Wave.writeP; dsimp only; split <;> rfl

theorem Ctx.onWave_id (c : Ctx) (x : Write) (w : Wave) : (c.onWave x w).id = w.id := by
  have := c.onWave_sameBut x w
  unfold Wave.sameBut at this; rw [this]

theorem Ctx.onWave_paths (c : Ctx) (x : Write) (w : Wave) : (c.onWave x w).paths = w.paths := by
  unfold Ctx.onWave
  cases x.dest <;> try rfl
  · dsimp only; split <;> rfl
  · dsimp only; split <;> rfl
  · unfold Wave.writeP; dsimp only; split <;> rfl

theorem Group.writeG_eq (g : Group) (wid reg : Nat) (x : Word) :
    g.writeG wid reg x = { g with g := (g.writeG wid reg x).g, gBy := (g.writeG wid reg x).gBy } := by
  unfold Group.writeG; split <;> rfl

theorem Ctx.onGroup_eq (c : Ctx) (x : Write) (g : Group) :
    c.onGroup x g = { g with g := (c.onGroup x g).g, gBy := (c.onGroup x g).gBy } := by
  unfold Ctx.onGroup
  cases x.dest <;> try rfl
  dsimp only; split
  · rw [Group.writeG_eq, Group.writeG_eq g]
  · rw [Group.writeG_eq]

/-- A result written: the issuing wave and group are changed by it, and nothing else is. -/
theorem Ctx.write_left {c : Ctx} {s t : State} {g : Group} {w : Wave} (h : c.Left s t g w) (x : Write)
    (hact : c.act ≠ 0 ∨ ∃ i, x.dest = .v i) :
    ∃ g', c.Left s (c.write t x.dest x.wide x.val) g' (c.onWave x w)
      ∧ g' = { g with waves := g'.waves, g := (c.onGroup x g).g, gBy := (c.onGroup x g).gBy }
      ∧ c.write t x.dest x.wide x.val = { t with groups := (c.write t x.dest x.wide x.val).groups } := by
  have hw : ∀ (F : Wave → Wave), (∀ y, F y = c.onWave x y) → c.onGroup x g = g →
      c.write t x.dest x.wide x.val = c.updWave t F →
      ∃ g', c.Left s (c.write t x.dest x.wide x.val) g' (c.onWave x w)
      ∧ g' = { g with waves := g'.waves, g := (c.onGroup x g).g, gBy := (c.onGroup x g).gBy }
      ∧ c.write t x.dest x.wide x.val = { t with groups := (c.write t x.dest x.wide x.val).groups } := by
    intro F hF hG he
    refine ⟨g.updWave c.wave.id F, ?_, ?_, ?_⟩
    · rw [he, ← hF w]; exact h.updWave F (fun y => by rw [hF]; exact c.onWave_id x y)
    · rw [hG]; rfl
    · rw [he]; rfl
  have h0 : ∀ (hW : c.onWave x w = w) (hG : c.onGroup x g = g), c.write t x.dest x.wide x.val = t →
      ∃ g', c.Left s (c.write t x.dest x.wide x.val) g' (c.onWave x w)
      ∧ g' = { g with waves := g'.waves, g := (c.onGroup x g).g, gBy := (c.onGroup x g).gBy }
      ∧ c.write t x.dest x.wide x.val = { t with groups := (c.write t x.dest x.wide x.val).groups } := by
    intro hW hG he
    exact ⟨g, by rw [he, hW]; exact h, by rw [hG], by rw [he]⟩
  obtain ⟨d, wide, val⟩ := x
  cases d with
  | v i => exact hw _ (fun y => rfl) rfl rfl
  | s i =>
    have htop := Ctx.topLane_eq (hact.resolve_right (by simp))
    exact hw _ (fun y => rfl) rfl (by simp only [Ctx.write, htop]; rfl)
  | p i => exact hw _ (fun y => rfl) rfl rfl
  | g i =>
    have htop := Ctx.topLane_eq (hact.resolve_right (by simp))
    refine ⟨c.onGroup ⟨.g i, wide, val⟩ g, ?_, ?_, ?_⟩
    · have : c.write t (.g i) wide val = c.updGroup t (c.onGroup ⟨.g i, wide, val⟩) := by
        simp only [Ctx.write, htop]; rfl
      simp only [this]
      exact h.updGroup _ (fun y => by rw [Ctx.onGroup_eq]) (by rw [Ctx.onGroup_eq])
    · rw [Ctx.onGroup_eq]
    · simp only [Ctx.write, htop]; rfl
  | _ => exact h0 rfl rfl rfl

/-! ### The registers after several results -/

/-- The registers after some results, with the registers that the run had written before them. -/
structure Ctx.Mid (c : Ctx) (ws : List Write) (g : Group) (w : Wave) : Prop where
  regs : c.Regs ws g w
  v : ∀ r l, l < 64 → (∀ x ∈ ws, x.atV r l = none) → touched w.fresh 0 r l = touched c.wave.fresh 0 r l
  s : ∀ r, (∀ x ∈ ws, x.atS r c.top = none) → touched w.fresh 1 r 0 = touched c.wave.fresh 1 r 0
  p : ∀ r l, l < 64 → (∀ x ∈ ws, x.atP r l = none) → touched w.fresh 2 r l = touched c.wave.fresh 2 r l
  may : ∀ r, g.mayG c.wave.id r = c.grp.mayG c.wave.id r

theorem Ctx.Mid.start (c : Ctx) : c.Mid [] c.grp c.wave where
  regs := ⟨fun r l _ => by simp [Ctx.laterV], fun r => by simp [Ctx.laterS], fun r l _ => by simp [Ctx.laterP],
    fun r => by simp [Ctx.laterG]⟩
  v := fun _ _ _ _ => rfl
  s := fun _ _ => rfl
  p := fun _ _ _ _ => rfl
  may := fun _ => rfl

/-- Two results that no register has in common. -/
structure Write.Apart (x y : Write) : Prop where
  v : ∀ r l, x.atV r l ≠ none → y.atV r l = none
  s : ∀ r l, x.atS r l ≠ none → y.atS r l = none
  p : ∀ r l, x.atP r l ≠ none → y.atP r l = none
  g : ∀ r l, x.atG r l ≠ none → y.atG r l = none

theorem findSome?_snoc_none {α β : Type} (l : List α) (x : α) (F : α → Option β) (h : F x = none) :
    (l ++ [x]).findSome? F = l.findSome? F := by
  simp [List.findSome?_append, h]

theorem findSome?_snoc_some {α β : Type} (l : List α) (x : α) (F : α → Option β) (b : β) (h : F x = some b)
    (hl : ∀ y ∈ l, F y = none) : (l ++ [x]).findSome? F = some b := by
  have : l.findSome? F = none := by simpa using hl
  simp [List.findSome?_append, h, this]

theorem touched_cons (f : List Fresh) (a : Fresh) (sp i l : Nat) :
    touched (a :: f) sp i l = ((a.space = sp && a.index = i && a.lanes.getLsbD l) || touched f sp i l) := by
  simp [touched]

/-- The v register and lane that a result of width one or two writes. -/
theorem Ctx.v?_onWave (c : Ctx) (x : Write) (w : Wave) (r l : Nat) (hl : l < 64) :
    (c.onWave x w).v? r l = match x.atV r l with
      | some y => if c.act.getLsbD l = true then freshWrite c.st.tick 0 r l w.fresh (w.v? r l) y else w.v? r l
      | none => w.v? r l := by
  obtain ⟨d, wide, val⟩ := x
  cases d with
  | v i =>
    simp only [Ctx.onWave, Write.atV]
    by_cases h0 : r = i
    · subst h0
      cases wide <;> simp [Wave.v?_writeV, hl]
    · by_cases h1 : r = i + 1
      · subst h1
        cases wide
        · simp [Wave.v?_writeV, hl]
        · simp only [if_true, Wave.v?_writeV _ _ _ _ _ _ _ hl, Nat.succ_ne_self, if_false, Bool.true_and,
            decide_true, true_and, false_and]
          have : freshWrite c.st.tick 0 (i + 1) l (w.writeV c.st.tick i c.act (fun l => word (val l))).fresh
              = freshWrite c.st.tick 0 (i + 1) l w.fresh := by
            funext a b; apply freshWrite_congr
            rw [Wave.writeV, touched_cons]; simp
          rw [this]
      · cases wide <;> simp [Wave.v?_writeV, hl, h0, h1]
  | s i => cases wide <;> rfl
  | p i =>
    simp only [Ctx.onWave, Write.atV]
    unfold Wave.writeP; split <;> rfl
  | _ => rfl

theorem Ctx.s?_onWave (c : Ctx) (x : Write) (w : Wave) (r : Nat) :
    (c.onWave x w).s? r = match x.atS r c.top with
      | some y => freshWrite c.st.tick 1 r 0 w.fresh (w.s? r) y
      | none => w.s? r := by
  obtain ⟨d, wide, val⟩ := x
  cases d with
  | s i =>
    simp only [Ctx.onWave, Write.atS]
    by_cases h0 : r = i
    · subst h0
      cases wide <;> simp [Wave.s?_writeS]
    · by_cases h1 : r = i + 1
      · subst h1
        cases wide
        · simp [Wave.s?_writeS]
        · simp only [if_true, Wave.s?_writeS, Nat.add_eq_left, Nat.one_ne_zero, if_false, Bool.true_and, decide_true]
          apply freshWrite_congr
          rw [Wave.writeS, touched_cons]; simp
      · cases wide <;> simp [Wave.s?_writeS, h0, h1]
  | v i => cases wide <;> rfl
  | p i =>
    simp only [Ctx.onWave, Write.atS]
    unfold Wave.writeP; split <;> rfl
  | _ => rfl

theorem Ctx.p?_onWave (c : Ctx) (x : Write) (w : Wave) (r l : Nat) (hl : l < 64) :
    ((c.onWave x w).p? r).getLsbD l = match x.atP r l with
      | some y => if r ≠ 7 ∧ c.act.getLsbD l = true
          then decide (freshWrite c.st.tick 2 r l w.fresh (bitWord ((w.p? r).getLsbD l)) (bitWord y) = 1)
          else (w.p? r).getLsbD l
      | none => (w.p? r).getLsbD l := by
  obtain ⟨d, wide, val⟩ := x
  cases d with
  | p i =>
    simp only [Ctx.onWave, Write.atP]
    rw [Wave.p?_writeP _ _ _ _ _ _ _ hl]
    by_cases h0 : r = i
    · subst h0; simp
    · simp [h0]
  | v i => cases wide <;> rfl
  | s i => cases wide <;> rfl
  | _ => rfl

theorem Ctx.g?_onGroup (c : Ctx) (x : Write) (g : Group) (r : Nat) :
    (c.onGroup x g).g? r = if g.mayG c.wave.id r then (x.atG r c.top).getD (g.g? r) else g.g? r := by
  obtain ⟨d, wide, val⟩ := x
  cases d with
  | g i =>
    simp only [Ctx.onGroup, Write.atG]
    cases hm : g.mayG c.wave.id r <;> cases wide <;>
      simp only [Bool.false_eq_true, if_false, if_true, Group.g?_writeG, Group.mayG_writeG, hm, Bool.false_and, Bool.true_and,
        and_true, and_false]
    · split <;> rfl
    · by_cases h1 : r = i + 1
      · simp [h1]
      · by_cases h0 : r = i <;> simp [h1, h0]
  | _ => simp [Ctx.onGroup, Write.atG]

/-- A result bars none of the wave's later writes of g registers. -/
theorem Ctx.mayG_onGroup (c : Ctx) (x : Write) (g : Group) (r : Nat) : (c.onGroup x g).mayG c.wave.id r = g.mayG c.wave.id r := by
  unfold Ctx.onGroup
  cases x.dest <;> try rfl
  dsimp only; split <;> simp [Group.mayG_writeG]

theorem Ctx.touchedV_onWave (c : Ctx) (x : Write) (w : Wave) (r l : Nat) (h : x.atV r l = none) :
    touched (c.onWave x w).fresh 0 r l = touched w.fresh 0 r l := by
  obtain ⟨d, wide, val⟩ := x
  cases d with
  | v i =>
    simp only [Write.atV] at h
    by_cases h0 : r = i
    · simp [h0] at h
    · cases wide
      · simp only [Ctx.onWave, Bool.false_eq_true, if_false, Wave.writeV, touched_cons]; simp [Ne.symm h0]
      · have h1 : r ≠ i + 1 := by intro h1; simp [h1] at h
        simp only [Ctx.onWave, if_true, Wave.writeV, touched_cons]; simp [Ne.symm h0, Ne.symm h1]
  | s i => cases wide <;> simp [Ctx.onWave, Wave.writeS, touched_cons]
  | p i => simp only [Ctx.onWave, Wave.writeP]; split <;> simp [touched_cons]
  | _ => rfl

theorem Ctx.touchedS_onWave (c : Ctx) (x : Write) (w : Wave) (r : Nat) (h : x.atS r c.top = none) :
    touched (c.onWave x w).fresh 1 r 0 = touched w.fresh 1 r 0 := by
  obtain ⟨d, wide, val⟩ := x
  cases d with
  | s i =>
    simp only [Write.atS] at h
    by_cases h0 : r = i
    · simp [h0] at h
    · cases wide
      · simp only [Ctx.onWave, Bool.false_eq_true, if_false, Wave.writeS, touched_cons]; simp [Ne.symm h0]
      · have h1 : r ≠ i + 1 := by intro h1; simp [h1] at h
        simp only [Ctx.onWave, if_true, Wave.writeS, touched_cons]; simp [Ne.symm h0, Ne.symm h1]
  | v i => cases wide <;> simp [Ctx.onWave, Wave.writeV, touched_cons]
  | p i => simp only [Ctx.onWave, Wave.writeP]; split <;> simp [touched_cons]
  | _ => rfl

theorem Ctx.touchedP_onWave (c : Ctx) (x : Write) (w : Wave) (r l : Nat) (h : x.atP r l = none) :
    touched (c.onWave x w).fresh 2 r l = touched w.fresh 2 r l := by
  obtain ⟨d, wide, val⟩ := x
  cases d with
  | p i =>
    simp only [Write.atP] at h
    have h0 : r ≠ i := by intro h0; simp [h0] at h
    simp only [Ctx.onWave, Wave.writeP]; split
    · rfl
    · simp [touched_cons, Ne.symm h0]
  | v i => cases wide <;> simp [Ctx.onWave, Wave.writeV, touched_cons]
  | s i => cases wide <;> simp [Ctx.onWave, Wave.writeS, touched_cons]
  | _ => rfl

/-- One more result, of which no register has been written before. -/
theorem Ctx.Mid.snoc {c : Ctx} {ws : List Write} {g : Group} {w : Wave} (h : c.Mid ws g w) (x : Write)
    (ha : ∀ y ∈ ws, x.Apart y) {g' : Group} (hg' : g'.g = (c.onGroup x g).g) (hb : g'.gBy = (c.onGroup x g).gBy) : c.Mid (ws ++ [x]) g' (c.onWave x w) where
  regs := {
    v := fun r l hl => by
      rw [Ctx.v?_onWave _ _ _ _ _ hl]
      cases hx : x.atV r l with
      | none =>
        dsimp only
        rw [h.regs.v r l hl]
        simp only [Ctx.laterV, findSome?_snoc_none ws x (fun y => y.atV r l) hx]
      | some y =>
        have hn : ∀ z ∈ ws, z.atV r l = none := fun z hz => (ha z hz).v r l (by simp [hx])
        have hf : ws.findSome? (fun z => z.atV r l) = none := by simpa using hn
        have hold : w.v? r l = c.wave.v? r l := by rw [h.regs.v r l hl]; simp [Ctx.laterV, hf]
        simp only [Ctx.laterV, findSome?_snoc_some ws x (fun z => z.atV r l) y hx hn, hold]
        rw [freshWrite_congr _ _ _ _ _ _ (h.v r l hl hn)]
    s := fun r => by
      rw [Ctx.s?_onWave]
      cases hx : x.atS r c.top with
      | none =>
        dsimp only
        rw [h.regs.s r]
        simp only [Ctx.laterS, findSome?_snoc_none ws x (fun y => y.atS r c.top) hx]
      | some y =>
        have hn : ∀ z ∈ ws, z.atS r c.top = none := fun z hz => (ha z hz).s r _ (by simp [hx])
        have hf : ws.findSome? (fun z => z.atS r c.top) = none := by simpa using hn
        have hold : w.s? r = c.wave.s? r := by rw [h.regs.s r]; simp [Ctx.laterS, hf]
        simp only [Ctx.laterS, findSome?_snoc_some ws x (fun z => z.atS r c.top) y hx hn, hold]
        rw [freshWrite_congr _ _ _ _ _ _ (h.s r hn)]
    p := fun r l hl => by
      rw [Ctx.p?_onWave _ _ _ _ _ hl]
      cases hx : x.atP r l with
      | none =>
        dsimp only
        rw [h.regs.p r l hl]
        simp only [Ctx.laterP, findSome?_snoc_none ws x (fun y => y.atP r l) hx]
      | some y =>
        have hn : ∀ z ∈ ws, z.atP r l = none := fun z hz => (ha z hz).p r l (by simp [hx])
        have hf : ws.findSome? (fun z => z.atP r l) = none := by simpa using hn
        have hold : (w.p? r).getLsbD l = (c.wave.p? r).getLsbD l := by rw [h.regs.p r l hl]; simp [Ctx.laterP, hf]
        simp only [Ctx.laterP, findSome?_snoc_some ws x (fun z => z.atP r l) y hx hn, hold]
        rw [freshWrite_congr _ _ _ _ _ _ (h.p r l hl hn)]
        by_cases h7 : r = 7 <;> cases hact : c.act.getLsbD l <;> simp [h7]
    g := fun r => by
      have : g'.g? r = (c.onGroup x g).g? r := by simp [Group.g?, hg']
      rw [this, Ctx.g?_onGroup, h.regs.g r, h.may r]
      cases hm : c.grp.mayG c.wave.id r with
      | false => simp [Ctx.laterG, hm]
      | true =>
        cases hx : x.atG r c.top with
        | none => simp only [Ctx.laterG, hm, findSome?_snoc_none ws x (fun y => y.atG r c.top) hx]; rfl
        | some y =>
          have hn : ∀ z ∈ ws, z.atG r c.top = none := fun z hz => (ha z hz).g r _ (by simp [hx])
          simp only [Ctx.laterG, hm, findSome?_snoc_some ws x (fun z => z.atG r c.top) y hx hn]; rfl }
  v := fun r l hl hn => by
    rw [Ctx.touchedV_onWave _ _ _ _ _ (hn x (by simp))]
    exact h.v r l hl (fun y hy => hn y (by simp [hy]))
  s := fun r hn => by
    rw [Ctx.touchedS_onWave _ _ _ _ (hn x (by simp))]
    exact h.s r (fun y hy => hn y (by simp [hy]))
  p := fun r l hl hn => by
    rw [Ctx.touchedP_onWave _ _ _ _ _ (hn x (by simp))]
    exact h.p r l hl (fun y hy => hn y (by simp [hy]))
  may := fun r => by
    have : g'.mayG c.wave.id r = (c.onGroup x g).mayG c.wave.id r := by simp [Group.mayG, hb]
    rw [this, Ctx.mayG_onGroup, h.may r]

end Sys2Proof.Machine
end

