-- ==== Sys2Proof/Laws/Finish.lean ====
section
/-! SUPPORT. What the end of an issue leaves: the frontier with its merges, the counters, and an issue that only computes. -/

namespace Sys2Proof.Machine

open Sys2Proof

/-! ### The frontier -/

theorem addPath_stands (q : Path) (ps : List Path) (fr : Nat) (pc : DWord) (l : Nat)
    (h : (q.fr = fr ∧ q.pc = pc ∧ q.mask.getLsbD l = true) ∨ ∃ p ∈ ps, p.fr = fr ∧ p.pc = pc ∧ p.mask.getLsbD l = true) :
    ∃ p ∈ addPath q ps, p.fr = fr ∧ p.pc = pc ∧ p.mask.getLsbD l = true := by
  induction ps with
  | nil =>
    rcases h with h | ⟨p, hp, _⟩
    · exact ⟨q, by simp [addPath], h⟩
    · simp at hp
  | cons a r ih =>
    unfold addPath
    by_cases hj : (a.fr = q.fr && a.pc = q.pc) = true
    · rw [if_pos hj]
      have hj' : a.fr = q.fr ∧ a.pc = q.pc := by simpa using hj
      rcases h with ⟨h1, h2, h3⟩ | ⟨p, hp, h1, h2, h3⟩
      · exact ⟨a.join q, by simp, by simp [Path.join, hj'.1, h1], by simp [Path.join, hj'.2, h2], by simp [Path.join, h3]⟩
      · rcases List.mem_cons.1 hp with rfl | hp
        · exact ⟨p.join q, by simp, by simp [Path.join, h1], by simp [Path.join, h2], by simp [Path.join, h3]⟩
        · exact ⟨p, by simp [hp], h1, h2, h3⟩
    · rw [if_neg hj]
      rcases h with h | ⟨p, hp, h'⟩
      · obtain ⟨p, hp, h'⟩ := ih (.inl h)
        exact ⟨p, List.mem_cons_of_mem _ hp, h'⟩
      · rcases List.mem_cons.1 hp with rfl | hp
        · exact ⟨p, List.mem_cons_self, h'⟩
        · obtain ⟨p, hp, h'⟩ := ih (.inr ⟨p, hp, h'⟩)
          exact ⟨p, List.mem_cons_of_mem _ hp, h'⟩

/-- A lane that stands at a PC stands there after the merges. -/
theorem mergePaths_stands (ps : List Path) (fr : Nat) (pc : DWord) (l : Nat)
    (h : ∃ p ∈ ps, p.fr = fr ∧ p.pc = pc ∧ p.mask.getLsbD l = true) :
    ∃ p ∈ mergePaths ps, p.fr = fr ∧ p.pc = pc ∧ p.mask.getLsbD l = true := by
  induction ps with
  | nil => simp at h
  | cons a r ih =>
    obtain ⟨p, hp, h'⟩ := h
    apply addPath_stands
    rcases List.mem_cons.1 hp with rfl | hp
    · exact .inl h'
    · exact .inr (ih ⟨p, hp, h'⟩)

theorem Wave.merge_paths (w : Wave) : w.merge.paths = mergePaths w.paths := by
  unfold Wave.merge; dsimp only; split
  · split <;> rfl
  · rfl

theorem Wave.merge_sameBut (w : Wave) : w.merge.sameBut w := by
  unfold Wave.merge Wave.sameBut; dsimp only; split
  · split <;> rfl
  · rfl

theorem Wave.sameBut.trans {a b c : Wave} (h : a.sameBut b) (h' : b.sameBut c) : a.sameBut c := by
  unfold Wave.sameBut at *; rw [h']  at h; rw [h]

theorem Wave.sameBut.id_eq {a b : Wave} (h : a.sameBut b) : a.id = b.id := by
  unfold Wave.sameBut at h; rw [h]

theorem Wave.countIssue_sameBut (w : Wave) (id : Nat) (waits : Bool) : (w.countIssue id waits).sameBut w := by
  unfold Wave.countIssue Wave.sameBut; split
  · split <;> rfl
  · rfl

/-- What an issue counts at its wave: a parked path ends its fairness run, and any other issue is counted (R296). -/
def Wave.counted (w : Wave) (id : Nat) (waits parked : Bool) : Wave :=
  if (parked || w.park ≠ .no) && w.run.any (fun r => r.1 = id) then { w.endFair id with last := id } else w.countIssue id waits

theorem Wave.afterIssue_eq (w : Wave) (id : Nat) (waits er adv parked : Bool) :
    w.afterIssue id waits er adv parked
      = (let x := if adv then (w.counted id waits parked).advance id else w.counted id waits parked
         let y := if er then { x with fresh := [] } else x
         { y.merge with parkedAt := if y.park = .no then 0 else y.parkedAt, asOf := none }) := rfl

theorem Wave.counted_sameBut (w : Wave) (id : Nat) (waits parked : Bool) : (w.counted id waits parked).sameBut w := by
  unfold Wave.counted; split
  · unfold Wave.endFair Wave.sameBut; split <;> rfl
  · exact Wave.countIssue_sameBut w id waits

theorem Wave.counted_regs (w : Wave) (id : Nat) (waits parked : Bool) :
    (w.counted id waits parked).v = w.v ∧ (w.counted id waits parked).s = w.s ∧ (w.counted id waits parked).p = w.p
      ∧ (w.counted id waits parked).paths = w.paths := by
  unfold Wave.counted; split
  · unfold Wave.endFair; split <;> exact ⟨rfl, rfl, rfl, rfl⟩
  · unfold Wave.countIssue; split
    · split <;> exact ⟨rfl, rfl, rfl, rfl⟩
    · exact ⟨rfl, rfl, rfl, rfl⟩

/-- The end of an issue changes the frontier and what an issue counts, and no register. -/
theorem Wave.afterIssue_sameBut (w : Wave) (id : Nat) (waits er adv parked : Bool) :
    (w.afterIssue id waits er adv parked).sameBut w := by
  have h1 := Wave.counted_sameBut w id waits parked
  rw [Wave.afterIssue_eq]
  dsimp only
  have h2 : (if adv then (w.counted id waits parked).advance id else w.counted id waits parked).sameBut w := by
    split
    · exact Wave.sameBut.trans (b := w.counted id waits parked) rfl h1
    · exact h1
  set x := if adv then (w.counted id waits parked).advance id else w.counted id waits parked with hx
  have h3 : (if er then { x with fresh := [] } else x).sameBut w := by
    split
    · exact Wave.sameBut.trans (b := x) rfl h2
    · exact h2
  set y := if er then { x with fresh := [] } else x with hy
  have h4 : y.merge.sameBut w := (Wave.merge_sameBut y).trans h3
  exact Wave.sameBut.trans (b := y.merge) rfl h4

theorem Wave.merge_v (w : Wave) : w.merge.v = w.v := by
  unfold Wave.merge; dsimp only; split
  · split <;> rfl
  · rfl
theorem Wave.merge_s (w : Wave) : w.merge.s = w.s := by
  unfold Wave.merge; dsimp only; split
  · split <;> rfl
  · rfl
theorem Wave.merge_p (w : Wave) : w.merge.p = w.p := by
  unfold Wave.merge; dsimp only; split
  · split <;> rfl
  · rfl

/-- The end of an issue leaves the registers. -/
theorem Wave.afterIssue_regs (w : Wave) (id : Nat) (waits er adv parked : Bool) :
    (w.afterIssue id waits er adv parked).v = w.v ∧ (w.afterIssue id waits er adv parked).s = w.s
      ∧ (w.afterIssue id waits er adv parked).p = w.p := by
  obtain ⟨h1, h2, h3, -⟩ := Wave.counted_regs w id waits parked
  rw [Wave.afterIssue_eq]
  cases er <;> cases adv <;> simp [Wave.merge_v, Wave.merge_s, Wave.merge_p, Wave.advance, h1, h2, h3]

/-- The frontier after an issue. -/
theorem Wave.afterIssue_paths (w : Wave) (id : Nat) (waits er adv parked : Bool) :
    (w.afterIssue id waits er adv parked).paths = mergePaths (if adv then (w.advance id).paths else w.paths) := by
  obtain ⟨-, -, -, h⟩ := Wave.counted_regs w id waits parked
  rw [Wave.afterIssue_eq]
  cases er <;> cases adv <;> simp [Wave.merge_paths, Wave.advance, h]

/-- A path of an issue that goes on stands whole at the next word. -/
theorem Wave.afterIssue_stands (w : Wave) (p : Path) (waits er parked : Bool) (hp : p ∈ w.paths) :
    (w.afterIssue p.id waits er true parked).stands p.fr p.mask (p.pc + 12) := by
  intro l hl
  rw [Wave.afterIssue_paths]
  apply mergePaths_stands
  simp only [if_true, Wave.advance]
  exact ⟨_, List.mem_map.2 ⟨p, hp, rfl⟩, by simp, by simp, by simpa using hl⟩

/-! ### The counter of issues -/

theorem State.count_sameFacets (s : State) (x ctx i n : Nat) : s.sameFacets (s.count x ctx i n) := by
  unfold State.sameFacets State.count State.updFacet State.setFacet
  dsimp only
  rw [List.map_set]
  apply List.ext_getElem?
  intro k
  rw [List.getElem?_set]
  split
  · rename_i hk
    subst hk
    split
    · rename_i hlt
      rw [List.length_map] at hlt
      simp only [List.getElem?_map, State.facet, List.getD_eq_getElem?_getD, List.getElem?_eq_getElem hlt, Option.getD_some,
        Option.map_some]
      split <;> rfl
    · rename_i hlt
      rw [List.getElem?_eq_none (by omega)]
  · rfl

/-! ### An issue that ends -/

theorem Ctx.Regs.congr {c : Ctx} {ws : List Write} {g g' : Group} {w w' : Wave} (h : c.Regs ws g w) (hg : g'.g = g.g)
    (hv : w'.v = w.v) (hs : w'.s = w.s) (hp : w'.p = w.p) : c.Regs ws g' w' where
  v := fun r l hl => by rw [← h.v r l hl]; simp [Wave.v?, hv]
  s := fun r => by rw [← h.s r]; simp [Wave.s?, hs]
  p := fun r l hl => by rw [← h.p r l hl]; simp [Wave.p?, hp]
  g := fun r => by rw [← h.g r]; simp [Group.g?, hg]

/-- The end of an issue: the issuing wave has gone through `afterIssue`, and the counter of issues of the facet's bank has
counted. -/
theorem Ctx.finish_left {c : Ctx} {s t : State} {g : Group} {w : Wave} (h : c.Left s t g w) (op : Nat) (adv : Bool) :
    ∃ g' waits er parked, c.Left s (c.finish op adv t) g' (w.afterIssue c.path.id waits er adv parked)
      ∧ g' = { g with waves := g'.waves }
      ∧ c.finish op adv t = { t with groups := (c.finish op adv t).groups, facets := (c.finish op adv t).facets }
      ∧ t.sameFacets (c.finish op adv t) := by
  refine ⟨_, _, _, _, (h.congr (u := t.count c.grp.facet c.grp.ctx 0 1) rfl).updWave _ ?_, rfl, rfl, ?_⟩
  · intro x; exact (Wave.afterIssue_sameBut x _ _ _ _ _).id_eq
  · exact State.count_sameFacets t _ _ _ _

/-- Results written one after another. -/
def Ctx.writes (c : Ctx) (ws : List Write) (t : State) : State := ws.foldl (fun t x => c.write t x.dest x.wide x.val) t

theorem Ctx.writes_left {c : Ctx} {s : State} {f : Form} (hf : c.Found s f) (ws : List Write)
    (hact : ∀ x ∈ ws, c.act ≠ 0 ∨ ∃ i, x.dest = .v i) (ha : ws.Pairwise (fun x y => y.Apart x)) :
    ∃ g w, c.Left s (c.writes ws c.st) g w ∧ c.Mid ws g w ∧ w.sameBut c.wave ∧ w.paths = c.wave.paths
      ∧ g = { c.grp with waves := g.waves, g := g.g, gBy := g.gBy }
      ∧ c.writes ws c.st = { c.st with groups := (c.writes ws c.st).groups } := by
  induction ws using List.reverseRecOn with
  | nil => exact ⟨c.grp, c.wave, Ctx.Left.start hf, Ctx.Mid.start c, rfl, rfl, rfl, rfl⟩
  | append_singleton ws x ih =>
    rw [List.pairwise_append] at ha
    obtain ⟨g, w, h1, h2, h3, h4, h5, h6⟩ := ih (fun y hy => hact y (by simp [hy])) ha.1
    obtain ⟨g', k1, k2, k3⟩ := Ctx.write_left h1 x (hact x (by simp))
    have he : c.writes (ws ++ [x]) c.st = c.write (c.writes ws c.st) x.dest x.wide x.val := by
      simp [Ctx.writes, List.foldl_append]
    refine ⟨g', c.onWave x w, by rw [he]; exact k1, ?_, (Ctx.onWave_sameBut c x w).trans h3, by rw [Ctx.onWave_paths, h4], ?_, ?_⟩
    · exact h2.snoc x (fun y hy => ha.2.2 y hy x (by simp)) (by rw [k2]) (by rw [k2])
    · rw [k2, h5]
    · rw [he, k3, h6]

/-- An instruction that writes its results and goes on only computes. -/
theorem computes_finish {c : Ctx} {s : State} {f : Form} (hf : c.Found s f) (op : Nat)
    (ws : Ctx → List Write) (hact : ∀ x ∈ ws c, c.act ≠ 0 ∨ ∃ i, x.dest = .v i) (ha : (ws c).Pairwise (fun x y => y.Apart x)) :
    Computes ws s c (c.finish op true (c.writes (ws c) c.st)) := by
  obtain ⟨g, w, h1, h2, h3, h4, h5, h6⟩ := Ctx.writes_left hf (ws c) hact ha
  obtain ⟨g', waits, er, parked, k1, k2, k3, k4⟩ := Ctx.finish_left h1 op true
  obtain ⟨r1, r2, r3⟩ := Wave.afterIssue_regs w c.path.id waits er true parked
  refine ⟨g', _, k1, ?_, ?_, ?_, (Wave.afterIssue_sameBut w _ _ _ _ _).trans h3, h2.regs.congr (by rw [k2]) r1 r2 r3, ?_⟩
  · rw [k3, h6, hf.rest]
  · have : s.facets = (c.writes (ws c) c.st).facets := by rw [h6, hf.rest]
    unfold State.sameFacets at *; rw [this]; exact k4
  · rw [k2, h5]
  · have := Wave.afterIssue_stands w c.path waits er parked (by rw [h4]; exact hf.path)
    exact this

theorem Write.apart_nil (ws : List Write) (h : ws.length ≤ 1) : ws.Pairwise (fun x y => y.Apart x) := by
  match ws, h with
  | [], _ => exact List.Pairwise.nil
  | [x], _ => simp

/-- An instruction that writes its results, no register twice, and goes on. -/
theorem effects_writes {i : Instr} {op : Nat} {f : Form} {d a b : Allow} {x : Option Allow} {ok : Ctx → Prop}
    {extra : Ctx → Bool} {body : Ctx → Res} {ws : Ctx → List Write}
    (hi : ∀ (s : State) (c : Ctx), c.form = f → c.operandsOk op d a b x = true → exec i s = issueInstr op f s d a b x extra body)
    (he : ∀ c, c.form = f → ok c → extra c = true)
    (hb : ∀ c, c.form = f → ok c → body c = .done (c.writes (ws c) c.st))
    (ha : ∀ c, c.form = f → c.operandsOk op d a b x = true → (ws c).Pairwise (fun x y => y.Apart x)) :
    Effects i op f d a b x ok (Computes ws) := by
  intro s c h hok
  have hc := State.issued_iff.1 h
  have hf := State.context_found hc.1
  exact ⟨_, (hi s c hf.form hc.2.1).trans (issueInstr_done h (he c hf.form hok) (hb c hf.form hok)),
    computes_finish hf op ws (fun _ _ => .inl hc.2.2) (ha c hf.form hc.2.1)⟩

/-- An instruction with one result. -/
theorem effects_one {i : Instr} {op : Nat} {f : Form} {d a b : Allow} {x : Option Allow} {ok : Ctx → Prop}
    {extra : Ctx → Bool} {body : Ctx → Res} {dest : Operand} {wide : Bool} {val : Ctx → Nat → Nat}
    (hi : ∀ (s : State) (c : Ctx), c.form = f → c.operandsOk op d a b x = true → exec i s = issueInstr op f s d a b x extra body)
    (he : ∀ c, c.form = f → ok c → extra c = true)
    (hb : ∀ c, c.form = f → ok c → body c = .done (c.write c.st dest wide (val c))) :
    Effects i op f d a b x ok (Computes (fun c => [⟨dest, wide, val c⟩])) :=
  effects_writes hi he hb (fun _ _ _ => Write.apart_nil _ (by simp))

end Sys2Proof.Machine
end

