-- ==== Sys2Proof/Laws/Matrix.lean ====
section
/-! SUPPORT. What the matrix engine takes as an element of B: what it read before, or what stands there (R147, R154). -/

namespace Sys2Proof.Machine

open Sys2Proof

/-- An element that has not been read is taken as it stands. -/
theorem bSeen_unread (g : Group) (sample : SMap Nat) (m : DWord) (k n : Nat) (h : look 0 sample (k * 64 + n) = 0) :
    bSeen g sample m k n = bElem g m k n := by
  unfold bSeen; simp [h]

theorem sharedByte_lt (g : Group) (a : Nat) : g.sharedNum a 1 < 256 := by
  simp only [Group.sharedNum, Memory.readNum, Memory.readBytes, ofBytes, List.range_one, List.map_cons, List.map_nil]
  have := (g.shared.read (a + 0)).isLt
  simp_all

/-- The decoding of a block's element needs its code, the scale and the extra byte only (R88). -/
theorem f4xDecode_packed (blk : List Nat) (i : Nat) (extra : Bool) (h16 : blk.getD 16 0 < 256) :
    let x := blk.getD (i / 2) 0 / 16 ^ (i % 2) % 16 + 16 * blk.getD 16 0 + 4096 * blk.getD 17 0
    f4xDecode ((x % 16) :: List.replicate 15 0 ++ [x / 16 % 256, x / 4096]) 0 extra = f4xDecode blk i extra := by
  intro x
  have hc : x % 16 = blk.getD (i / 2) 0 / 16 ^ (i % 2) % 16 := by omega
  have hs : x / 16 % 256 = blk.getD 16 0 := by omega
  have he : x / 4096 = blk.getD 17 0 := by omega
  have hcode : (if i % 2 = 0 then blk.getD (i / 2) 0 % 16 else blk.getD (i / 2) 0 / 16 % 16) = x % 16 := by
    rw [hc]
    rcases Nat.mod_two_eq_zero_or_one i with h | h <;> simp [h]
  simp only [f4xDecode, hcode, hs, he]
  simp [List.replicate]

/-- An element that has been read is taken as it was then (R154). -/
theorem bSeen_read (g g' : Group) (sample : SMap Nat) (m : DWord) (k n : Nat) (hs : g'.slots = g.slots)
    (h : look 0 sample (k * 64 + n) = bBits g m k n + 1) : bSeen g' sample m k n = bElem g m k n := by
  unfold bSeen
  simp only [h, hs]
  unfold bElem bBits
  by_cases he : mapElem g.slots m = 6
  · simp only [he, if_true]
    let blk := (List.range 18).map (fun i => g.sharedNum (mapBase m + n * mapStride m + 18 * (k / 32) + i) 1)
    have hb : ∀ i, i < 18 → blk.getD i 0 = g.sharedNum (mapBase m + n * mapStride m + 18 * (k / 32) + i) 1 := by
      intro i hi
      simp [blk, List.getD, hi]
    have hx := f4xDecode_packed blk (k % 32) (slotExtra (g.slots.getD (mapSlot m) 0)) (by rw [hb 16 (by omega)]; exact sharedByte_lt _ _)
    simp only [hb 16 (by omega), hb 17 (by omega), hb (k % 32 / 2) (by omega)] at hx
    rw [Nat.mod_mod_of_dvd k (by norm_num : (2 : Nat) ∣ 32)] at hx
    exact hx
  · simp only [he, if_false]

end Sys2Proof.Machine
end

