-- ==== Sys2Proof/Tests/Slice0.lean ====
section
/-! SUPPORT. Tests: words of the spec decoded, ill-formed terms refused, worked values of the spec, and witnesses for the hypotheses of
the statements. -/

namespace Sys2Proof.Tests

set_option Elab.async false

open Sys2Proof Sys2Proof.Machine

/-! ### Decoding (the words are those that the spec writes out) -/

/-- The guard that is always true, and hints that are clear. -/
def always : Guard := ⟨false, 7#3⟩
def clear : Hints := ⟨false, false, false, 0#2⟩
def marked : Hints := ⟨true, false, false, 0#2⟩

/-- A form that always issues. -/
def form (ty : Ty) (d a b : Operand) (imm : Nat := 0) (var : Nat := 0) : Form :=
  ⟨BitVec.ofNat 4 var, ty, d, a, b, always, clear, BitVec.ofNat 32 imm⟩

/-- Under "Worked encodings". -/
theorem test_decode_ffma : decodeTableWord 96 0x4B0300800900A2800000000B =
    some (.ffma ⟨0#4, .f32, .v 8, .v 9, .v 10, ⟨false, 2#3⟩, marked, 0xB#32⟩) := by decide +kernel
theorem test_decode_nop : decodeTableWord 96 0x0000E00E00E0070000000000 = some (.nop (form .b32 .none .none .none)) := by decide +kernel
/-- R120. -/
theorem test_decode_shfl : decodeTableWord 96 0x403000100082078000000000 =
    some (.shfl ⟨3#4, .b32, .v 1, .v 0, .imm 32#9, always, marked, 0#32⟩) := by decide +kernel
/-- "Worked example: one rounding per element". -/
theorem test_decode_mma : decodeTableWord 96 0x680760001043010000000411 =
    some (.mma ⟨0#4, .f16, .a 0, .v 16, .m 0, ⟨false, 1#3⟩, clear, 0x411#32⟩) := by decide +kernel
/-- The example after the local atomics. -/
theorem test_decode_ats : decodeTableWord 96 0x860200400280170001900040 =
    some (.ats (form .n32 (.v 4) (.v 2) (.imm 1#9) 0x1900040)) := by decide +kernel
/-- The examples of the control instructions. -/
theorem test_decode_bar : decodeTableWord 96 0x0A00E00E00E0070000000013 = some (.bar (form .b32 .none .none .none 0x13)) := by
  decide +kernel
theorem test_decode_bra : decodeTableWord 96 0x0100E00E00E0010012C00002 =
    some (.bra ⟨0#4, .b32, .none, .none, .none, ⟨false, 1#3⟩, clear, 0x12C00002#32⟩) := by decide +kernel
theorem test_decode_vote : decodeTableWord 96 0x0830202401E0070000000000 = some (.vote (form .b32 (.s 2) (.p 1) .none 0 3)) := by
  decide +kernel
theorem test_decode_exit : decodeTableWord 96 0x0B00E00001E0070000000000 = some (.exit (form .b32 .none (.v 1) .none)) := by
  decide +kernel
/-- The examples of the object and tile instructions. -/
theorem test_decode_wwait : decodeTableWord 96 0xB800208414E0070000000000 = some (.wwait (form .b32 (.s 8) (.h 4) .none)) := by
  decide +kernel
theorem test_decode_wspawn : decodeTableWord 96 0xB00041121081870000000000 = some (.wspawn (form .b32 (.h 1) (.s 16) (.imm 24#9))) := by
  decide +kernel
theorem test_decode_sadd : decodeTableWord 96 0xB600E0041441170000001419 =
    some (.sadd (form .b32 .none (.h 4) (.h 1) 0x1419)) := by decide +kernel
theorem test_decode_psend : decodeTableWord 96 0xB300E0041320C7000000041B = some (.psend (form .b32 .none (.h 3) (.s 12) 0x41B)) := by
  decide +kernel
theorem test_decode_olook : decodeTableWord 96 0xBC00411214E0070000000000 = some (.olook (form .b32 (.h 1) (.s 20) .none)) := by
  decide +kernel
theorem test_decode_nwant : decodeTableWord 96 0xC000E0020820C70000000412 =
    some (.nwant (form .b32 .none (.s 8) (.s 12) 0x412)) := by decide +kernel
theorem test_decode_nhave : decodeTableWord 96 0xC100E0020820C70000000412 =
    some (.nhave (form .b32 .none (.s 8) (.s 12) 0x412)) := by decide +kernel
/-- The examples of the counters, traps and system registers. -/
theorem test_decode_monctl : decodeTableWord 96 0xD63020A80180870000000000 =
    some (.monctlRead (form .b32 (.s 10) (.imm 1#9) (.imm 8#9) 0 3)) := by decide +kernel
theorem test_decode_trap : decodeTableWord 96 0xD000E00E00E0070000000042 = some (.trap (form .b32 .none .none .none 0x42)) := by
  decide +kernel
theorem test_decode_rtt : [0xD100E00E00E0070000000000, 0xD110E00E00E0070000000000, 0xD120E00E00E0070000000000].map (decodeTableWord 96) =
    [some (.rtt (form .b32 .none .none .none)), some (.rttRpl (form .b32 .none .none .none 0 1)),
     some (.rttEsc (form .b32 .none .none .none 0 2))] := by decide +kernel
theorem test_decode_mpoint : decodeTableWord 96 0xD200E00801E0070000000000 = some (.mpoint (form .b32 .none (.imm 1#9) .none)) := by
  decide +kernel
theorem test_decode_sysw : decodeTableWord 96 0xD404A30204E0070000000000 = some (.sysw (form .b64 (.sys 0x30#9) (.s 4) .none)) := by
  decide +kernel
/-- The examples of the program sections. -/
theorem test_decode_salloc : decodeTableWord 96 0x1400207206E0078000000000 =
    some (.salloc ⟨0#4, .b32, .s 7, .s 6, .none, always, marked, 0#32⟩) := by decide +kernel
theorem test_decode_matom : decodeTableWord 96 0x952100500E00190000004413 =
    some (.matom ⟨2#4, .s32, .v 5, .v 14, .v 1, ⟨true, 1#3⟩, clear, 0x4413#32⟩) := by decide +kernel
theorem test_decode_mred : decodeTableWord 96 0x9623E0000C00170000004E00 =
    some (.mred (form .f32 .none (.v 12) (.v 1) 0x4E00 2)) := by decide +kernel
theorem test_decode_mmap : decodeTableWord 96 0x6E8F431E0180070000001200 =
    some (.mmap (form .slot (.m 1) .long (.imm 0#9) 0x1200 8)) := by decide +kernel
/-- Words built from the encoding tables by hand: IADD.SAT.S32 v3, v1, #-1, then LDS.B64 v4, [s7 - 8] and CVT.F32.S32 v0, v1. -/
theorem test_decode_iadd : decodeTableWord 96 0x20110030019FF70000000000 =
    some (.iadd (form .s32 (.v 3) (.v 1) (.imm 0x1FF#9) 0 1)) := by decide +kernel
theorem test_decode_lds : decodeTableWord 96 0x8004004207E00700FFFFFFF8 =
    some (.lds (form .b64 (.v 4) (.s 7) .none 0xFFFFFFF8)) := by decide +kernel
theorem test_decode_cvt : decodeTableWord 96 0x6003000001E0070000000001 = some (.cvt (form .f32 (.v 0) (.v 1) .none 1)) := by
  decide +kernel
/-- Reserved and unused bits are refused: an OP that is not assigned, a hint bit, an operand field, and IMM. -/
theorem test_decode_refused : [0x1600E00E00E0070000000000, 0x0000E00E00E0070100000000, 0x0000E00E0010070000000000,
    0x0000E00E00E0070000000001, 0x0010E00E00E0070000000000, 0x0001E00E00E0070000000000].map (decodeTableWord 96) =
    List.replicate 6 none := by decide +kernel
theorem test_decode_too_short : decode (List.replicate 11 0#8) = .error .tooShort := by decide +kernel

/-! ### Ill-formed terms -/

/-- An index beyond each space, and a raw field that names an operand (R49). -/
theorem test_wf_operands : [Operand.v 256, .s 384, .p 8, .h 16, .g 16, .m 8, .a 32, .bad 0x000#12].all (fun o => !o.wf) = true := by
  decide +kernel
/-- A VAR, a TY, a cache hint, a guard, an unused field, an unused IMM bit and a combination that R61 refuses, and a form that another
row's words stand for. -/
theorem test_wf_forms : [Instr.nop (form .b32 .none .none .none 0 1), .nop (form .f32 .none .none .none),
    .nop ⟨0#4, .b32, .none, .none, .none, always, ⟨false, false, false, 1#2⟩, 0#32⟩,
    .conv ⟨0#4, .b32, .none, .none, .none, ⟨true, 7#3⟩, clear, 0#32⟩, .nop (form .b32 (.v 0) .none .none),
    .nop (form .b32 .none .none .none 1), .iadd (form .b32 (.v 0) (.v 0) (.v 0) 0 1), .tchk (form .b32 (.p 0) .none .none 0 1),
    .iadd (form .s32 (.v 256) (.v 0) (.v 0))].all (fun i => !wellFormed i) = true := by decide +kernel
/-- A number out of range in each device event that has one. -/
theorem test_wf_events : [Instr.queueMap 0 64, .forcedUnmap 0 4, .launchAccept 0 [(64, [0])], .groupPlace 0 0 [8], .commandComplete 0 0 0 0 0,
    .commandComplete 0 0 7 0 0, .commandComplete 0 128 1 0 0, .commandComplete 0 0 1 1048576 0, .priorityPreempt 0 64, .groupRestore 0 [(0, [])],
    .fairnessRun 0 128, .sleepWake 0 128, .benchPlace 0 8, .timerExpire 64 0, .pageMigrate 0 0 64 0, .hostMemAccess (2 ^ 40 + 2 ^ 36) false [],
    .hostRecall (2 ^ 40), .interestExpire 18 ⟨0, 0, 256⟩, .shelfCopyExpire 18 ⟨0, 0, 256⟩, .bucketDrain 18, .replayRequest 24 ⟨List.replicate 256 0, none, 0⟩,
    .ackTimeout 24, .linkTraining 24 0 0 0 0 false, .trainingRetry 24, .peerRetireFlit ⟨24, ⟨List.replicate 256 0, none, 0⟩⟩,
    .flitReceive 24 ⟨List.replicate 256 0, none, 0⟩, .flitReceive 0 ⟨[], none, 0⟩, .replayRequest 0 ⟨[], none, 0⟩, .peerRetireFlit ⟨0, ⟨[], none, 0⟩⟩,
    .thermHot 0 8, .thermThrottle 64 0, .thermTrip 0 8, .thermDrop 0 0 3, .throttleStep 64, .drvcmdBadOp 1, .partitionChange 1 1 0 0].all
    (fun i => !wellFormed i) = true := by decide +kernel

/-! ### A small machine -/

/-- One resident wave of 64 lanes set to issue, with the largest allotments: group 2 of launch 1, in context 1. -/
def demo : State := { State.reset.withWord 0 with
  agenda := []
  cur := some (2, 0) }

/-- The machine with its wave or group changed. -/
def demoWave (f : Wave → Wave) : State := demo.updWave 2 0 f
def demoGroup (f : Group → Group) : State := demo.updGroup 2 f

/-- The wave with some s registers set. -/
def withS (xs : List (Nat × Nat)) : State := demoWave (fun w => { w with s := xs.map (fun (k, x) => (k, BitVec.ofNat 32 x)) })

/-- An s register and a predicate after an instruction, where it gives a next state. -/
def after (i : Instr) (s : State) : Option Wave :=
  match exec i s with
  | .next t => (t.group? 2).bind (fun g => g.wave? 0)
  | _ => none
def sAfter (i : Instr) (s : State) (r : Nat) : Option Nat := (after i s).map (fun w => (w.s? r).toNat)

/-- An instruction issues with legal operands and an active lane, and a condition holds. -/
def meets (s : State) (op : Nat) (f : Form) (d a b : Allow) (x : Option Allow := none) (ok : Ctx → Bool := fun _ => true) : Bool :=
  (s.issued op f d a b x).any ok

/-! ### Witnesses: states and operands that meet the hypotheses of each statement, clause by clause -/

/-- A third operand or a handle in IMM (R52, R153). -/
def third (o : Operand) : Nat := o.encode.toNat

/-- The usual operands: v registers, or pairs of them, for D, A and B. -/
def two (op : Nat) (ty : Ty) (var : Nat := 0) : Bool :=
  meets demo op (form ty (.v 4) (.v 0) (.v 2) 0 var) (.dst (wideTy ty)) (.src (wideTy ty)) (.src (wideTy ty))
def one (op : Nat) (ty : Ty) (var : Nat := 0) : Bool :=
  meets demo op (form ty (.v 4) (.v 0) .none 0 var) (.dst (wideTy ty)) (.src (wideTy ty)) .unused
def three (op : Nat) (ty : Ty) : Bool :=
  meets demo op (form ty (.v 4) (.v 0) (.v 2) (third (.v 6))) (.dst (wideTy ty)) (.src (wideTy ty)) (.src (wideTy ty)) (some (.src (wideTy ty)))

theorem witness_IntegerArithmetic : ([two 0x20 .s32, two 0x20 .b64 1, two 0x21 .n32, two 0x23 .b32, two 0x24 .s64, three 0x25 .n64, two 0x27 .s32,
    two 0x28 .n64, two 0x29 .s32, two 0x2A .s64, one 0x2B .s32 1, three 0x2C .n32].all id) = true := by decide +kernel

theorem witness_CarryCompareSelect : [
    meets demo 0x22 (form .n64 (.v 4) (.v 0) (.v 2) (third (.p 1)) 8) (.dst true) (.src true) (.src true) (some .pred),
    meets demo 0x26 (form .s32 (.v 4) (.v 0) (.v 2) (third (.v 6))) (.dst true) (.src false) (.src false) (some (.src true)),
    meets demo 0x2D (form .n32 (.p 6) (.v 0) (.v 2) 0 13) .pred (.src false) (.src false),
    meets demo 0x2D (form .s32 (.p 6) (.v 0) .long 0x12345678 2) .pred (.src false) (.src false) (thirdNone (form .s32 (.p 6) (.v 0) .long 0x12345678 2)),
    meets demo 0x2D (form .n32 (.p 6) (.v 0) (.v 2) 0xE00) .pred (.src false) (.src false) (thirdNone (form .n32 (.p 6) (.v 0) (.v 2) 0xE00)),
    (form .n32 (.p 6) (.v 0) (.v 2) (third (.v 6))).c = .v 6 && (demo.context (form .n32 (.p 6) (.v 0) (.v 2) (third (.v 6)))).isSome
      && wellFormed (.isetp (form .n32 (.p 6) (.v 0) (.v 2) (third (.v 6)))),
    meets demo 0x2E (form .b32 (.v 4) (.v 0) .long (third (.p 1))) (.dst false) (.src false) (.src false) (some .pred) = false,
    meets demo 0x2E (form .b32 (.v 4) (.v 0) (.imm 3#9) (third (.p 1))) (.dst false) (.src false) (.src false) (some .pred),
    meets demo 0x2F (form .n64 (.v 4) (.v 0) .long 0xFFFFFFFF 15) (.dst true) (.src true) (.src false)].all id = true := by decide +kernel

theorem witness_BitwiseLogic : ([two 0x30 .b32, two 0x31 .b64, two 0x32 .b32, one 0x33 .b32,
    meets demo 0x34 (form .b64 (.v 4) (.v 0) (.v 2) 0x80) (.reg true) (.src true) (.src true)]
  ++ [0x30, 0x31, 0x32].map (fun op => meets demo op (form .b32 (.p 6) (.p 0) (.p 7)) .pred .pred .pred)
  ++ [meets demo 0x33 (form .b32 (.p 0) (.p 0) .none) .pred .pred .unused]).all id = true := by decide +kernel

theorem witness_ShiftsAndFields :
    ([(0x35, Ty.b64), (0x36, .b32), (0x37, .s64)].map (fun (op, ty) =>
        meets demo op (form ty (.v 4) (.v 0) (.v 3)) (.dst (wideTy ty)) (.src (wideTy ty)) (.src false))
      ++ [meets demo 0x38 (form .b32 (.v 4) (.v 0) (.v 2) (third (.v 6)) 1) (.dst false) (.src false) (.src false) (some (.src false)),
        meets demo 0x39 (form .s64 (.v 4) (.v 0) (.v 3) (third (.v 5))) (.dst true) (.src true) (.src false) (some (.src false)),
        meets demo 0x3A (form .b64 (.v 4) (.v 0) (.v 2) (third (.v 5))) (.dst true) (.src true) (.src true) (some (.src false))]
      ++ [(0x3B, false), (0x3C, false), (0x3D, true)].map (fun (op, w) =>
        meets demo op (form .b64 (.v 4) (.v 0) .none) (.dst w) (.src true) .unused)).all id = true := by decide +kernel

theorem witness_MovesAndLanes :
    let imm : Allow := { imm := true, long := true }
    [one 0x3E .b64, meets demo 0x3F (form .f32 (.v 4) .long .none 0x3F800000) (.dst false) imm .unused,
     meets demo 0x3F (form .b64 (.v 4) (.imm 7#9) .none 0 1) (.reg true) imm .unused,
     meets demo 0x40 (form .b64 (.v 4) (.v 0) (.v 3) 0 15) (.vreg true) (.vreg true) (.src false),
     meets demo 0x41 (form .b32 (.s 0) (.v 0) (.imm 63#9)) (.dst false) (.vreg false) (.uni false),
     meets demo 0x42 (form .b32 (.v 4) (.s 0) (.imm 63#9)) (.vreg false) (.uni false) (.uni false),
     meets demo 0x43 (form .b32 (.v 4) (.v 0) .none 0 1) (.dst false) (.vreg false) .unused,
     meets demo 0x44 (form .b32 (.v 4) (.v 0) (.v 2) (third (.v 6))) (.dst false) (.src false) (.src false) (some (.src false))].all id = true := by
  decide +kernel

theorem witness_MinimumAndMaximum : [two 0x4C .f32 1, two 0x4D .f32].all id = true := by decide +kernel

theorem witness_FloatArithmetic : ([two 0x48 .f32 3, two 0x49 .f32, two 0x4A .f32, three 0x4B .f32,
    meets demo 0x4E (form .f32 (.p 1) (.v 0) (.v 2) 0 15) .pred (.src false) (.src false),
    meets demo 0x4E (form .f32 (.p 1) (.v 0) .long 0x40490FDB) .pred (.src false) (.src false) (thirdNone (form .f32 (.p 1) (.v 0) .long 0x40490FDB)), one 0x4F .f32,
    meets demo 0x4F (form .f32 (.p 1) (.v 0) .long 0x3FF) .pred (.src false) (.src false)]).all id = true := by decide +kernel

theorem witness_FloatFunctions : ([0x50, 0x51, 0x52, 0x54, 0x55, 0x56, 0x57, 0x58, 0x59].map (fun op => one op .f32)
    ++ [two 0x53 .f32, two 0x5A .f32]).all id = true := by decide +kernel

/-- A NaN, a zero, an infinity and a negative number, and pairs of them, for the classes that the statement names. -/
theorem witness_SpecialInputs : nanPattern 0x7F800001 && (0x80000000 % 2 ^ 31 == 0) && (0xFF800000 % 2 ^ 31 == 0x7F800000)
    && !nanPattern 0xBF800000 && !nanPattern 0x3F800000 = true := by decide +kernel

theorem witness_RoundingKeepsPatterns : Fmt.e2m1 ∈ [Fmt.f32, Fmt.f16, Fmt.bf16, Fmt.f8e5, Fmt.f8e4, Fmt.e2m1]
    ∧ 0xF < 2 ^ Fmt.e2m1.width ∧ dec .e2m1 0xF ≠ .nan ∧ Fmt.f8e5 ∈ [Fmt.f32, Fmt.f16, Fmt.bf16, Fmt.f8e5] ∧ 1 ≤ Fmt.f32.max := by decide +kernel

theorem witness_SumsHaveNoOrder : [(FVal.one, FVal.nan), (FVal.inf true, FVal.one)].Perm [(FVal.inf true, FVal.one), (FVal.one, FVal.nan)] :=
  List.Perm.swap _ _ _

/-- The machine with one ELEM in every format slot (R90). -/
def slotted (x : Nat) : State := demoGroup fun g => { g with slots := List.replicate 8 (BitVec.ofNat 16 (x * 2 ^ 12)) }

theorem witness_PackedAndDot : (([0x5B, 0x5E].map (fun op => three op .bf16)) ++ [two 0x5C .f16, two 0x5D .bf16, three 0x5F .f8e4,
    meets (slotted 4) 0x5F (form .slot (.v 4) (.v 0) (.v 2) (third (.v 6)) 3)
      (.dst false) (.src false) (.src false) (some (.src false)) (fun c => 4 ≤ slotElem c.slot && slotElem c.slot ≤ 5)]).all id = true := by
  decide +kernel

theorem witness_Conversions :
    let ok := fun (c : Ctx) => 2 ≤ slotElem c.slot && slotElem c.slot ≤ 5
    [meets demo 0x60 (form .f8e4 (.v 4) (.v 0) .none 2 4) (.dst false) (.src false) .unused,
     meets (slotted 1) 0x60 (form .slot (.v 4) (.v 0) .none 2) (.dst false) (.src false) .unused none (fun c => slotElem c.slot = 1),
     meets demo 0x61 (form .s64 (.v 4) (.v 0) .none 5) (.dst true) (.src false) .unused,
     meets demo 0x62 (form .f16 .none (.v 0) (.v 1)) (.dst false) (.src false) (.src false),
     meets (slotted 5) 0x62 (form .slot (.v 4) (.v 0) (.v 1) 1) (.dst false) (.src false) (.src false) none ok,
     meets demo 0x63 (form .bf16 (.v 4) (.v 0) .none 1) (.dst false) (.src false) .unused,
     meets (slotted 2) 0x63 (form .slot (.v 4) (.v 0) .none 1) (.dst false) (.src false) .unused none ok].all id = true := by decide +kernel

theorem witness_BlockConversions :
    [meets (slotted 6) 0x64 (form .slot (.v 251) (.v 224) .none) (.vblock 5 false) (.vblock 32 false) .unused none (fun c => slotElem c.slot = 6),
     meets (slotted 6) 0x65 (form .slot (.v 224) (.v 251) .none) (.vblock 32 false) (.vblock 5 false) .unused none
       (fun c => slotElem c.slot = 6)].all id = true := by decide +kernel

theorem witness_Votes : ([0, 1, 2, 8].map (fun var => meets demo 0x08 (form .b32 (.p 1) (.p 0) .none 0 var) .pred .pred .unused)
    ++ [meets demo 0x08 (form .b32 (.s 2) (.p 0) .none 0 11) (.reg true) .pred .unused]).all id = true := by decide +kernel

/-- The machine with a value in every lane of some v registers. -/
def withV (xs : List (Nat × Nat)) : State :=
  demoWave (fun w => xs.foldl (fun w (k, x) => w.setV k (BitVec.allOnes 64) (fun _ => BitVec.ofNat 32 x)) w)

theorem witness_BranchTargets :
    let far : Allow := { v := true, s := true, g := true, wide := true }
    let good := fun (c : Ctx) => (lanesOf c.act).all (fun l => c.read 1 .n64 c.form.a l < 2 ^ 56 && c.read 1 .n64 c.form.a l % 4 = 0)
    let count := fun (c : Ctx) => (c.read 1 .n32 c.form.d 0 + 2 ^ 32 - 1) % 2 ^ 32
    let prio := fun (c : Ctx) => c.lane 1 false (vIndex c.form.a + 2) 0
    [meets demo 0x00 (form .b32 .none .none .none) .unused .unused .unused, meets demo 0x01 (form .b32 .none .none .none 0xFFFFF) .unused .unused .unused,
     meets (withS [(4, 0xFFFFFFFC), (5, 0xFFFFFF)]) 0x02 (form .b32 .none (.s 4) .none) .unused far .unused none good,
     meets (withS [(4, 2)]) 0x02 (form .b32 .none (.s 4) .none) .unused far .unused none (fun c => !good c),
     meets (withS [(5, 0x1000000)]) 0x04 (form .b32 (.v 4) (.s 4) .none) (.vblock 3 true) far .unused none (fun c => !good c),
     meets demo 0x03 (form .b32 (.v 252) .none .none 5) (.vblock 3 true) .unused .unused,
     meets demo 0x04 (form .b32 (.v 4) (.v 8) .none) (.vblock 3 true) far .unused none good,
     meets (withV [(6, 4095)]) 0x05 (form .b32 .none (.v 4) .none) .unused (.vblock 3 true) .unused none (fun c => good c && prio c < 4096),
     meets (withV [(6, 4096)]) 0x05 (form .b32 .none (.v 4) .none) .unused (.vblock 3 true) .unused none (fun c => 4096 ≤ prio c),
     meets demo 0x09 (form .b32 (.s 3) .none .none) { s := true } .unused .unused none (fun c => count c ≠ 0),
     meets (withS [(3, 1)]) 0x09 (form .b32 (.s 3) .none .none) { s := true } .unused .unused none (fun c => count c = 0),
     meets demo 0x07 (form .b32 .none .none .none 0xFFF00000) .unused .unused .unused].all id = true := by decide +kernel

/-- The machine with the launch changed. -/
def demoLaunch (f : Launch → Launch) : State := demo.updLaunch 1 f
/-- Whether a wave whose lanes all stand at barrier 3, with a count of 2, arrives there now. -/
def atBar (bars : SMap Barrier) : Bool :=
  let s := (demoWave fun w => { w with paths := w.paths.map (fun p => { p with wait := .bar 3 0 (some 2) }) }).updGroup 2 (fun g => { g with bars := bars })
  (s.group? 2).any (fun g => (g.wave? 0).any (fun w =>
    !w.dead && w.standsAt = some (3, 0, [some 2]) && w.fenced 0 && !(look ⟨[], none⟩ g.bars 3).arrived.contains 0))

theorem witness_PathsWaitForLanes :
    let a : Allow := { s := true, g := true, imm := true, none := true }
    let n := fun (c : Ctx) => c.read 1 .n32 c.form.a 0
    [meets demo 0x06 (form .b32 .none .none .none) .unused { s := true, g := true, none := true, wide := true } .unused,
     meets demo 0x06 (form .b32 .none (.g 4) .none) .unused { s := true, g := true, none := true, wide := true } .unused,
     meets demo 0x0A (form .b32 .none .none .none 0x3EF) .unused a .unused,
     meets demo 0x0A (form .b32 .none (.imm 1#9) .none) .unused a .unused none (fun c => n c = 1 && c.grp.waves.length = 1),
     meets demo 0x0A (form .b32 .none (.imm 2#9) .none) .unused a .unused none (fun c => c.grp.waves.length < n c),
     meets demo 0x0A (form .b32 .none (.imm 0#9) .none) .unused a .unused none (fun c => n c = 0),
     atBar [], atBar [(3, ⟨[5], some 2⟩)],
     atBar [(3, ⟨[5], none⟩)] && (demoLaunch id).groups.all (fun g => g.launch = some 1 && !demo.ending g)].all id = true := by decide +kernel

/-- A wave all of whose lanes wait at a CONV, and a barrier at which its one wave has arrived. -/
def gathered : State := demoWave fun w => { w with paths := w.paths.map (fun p => { p with wait := .conv none }) }
def arrived : Option Group := (gathered.group? 2).map (fun g => { g with bars := [(3, ⟨[0], none⟩)] })

theorem witness_WaitingPathsGoOn : ((gathered.group? 2).bind (fun g => g.wave? 0)).any (fun w => !w.dead && w.frames.isEmpty && w.paths.any w.convMet)
    && arrived.any (fun g => (look ⟨[], none⟩ g.bars 3).arrived ≠ [] && (g.waves.filter Wave.alive).length = 1
      && (look ⟨[], none⟩ g.bars 4).arrived.length < 1) = true := by decide +kernel

theorem witness_LanesExit : meets demo 0x0B (form .b32 .none (.v 0) .none) .unused
    { v := true, s := true, g := true, imm := true, long := true } .unused none
    (fun c => c.wave.unreported.isNone && c.grp.free.isNone) = true := by decide +kernel

/-- The machine with the group and the pending request changed. -/
def asked : State := demoGroup fun g => { g with preempt := some ⟨5, false⟩ }
def lowered : State := demoGroup fun g => { g with
  pro := ⟨32, 32, 0, 0⟩
  cur := ⟨32, 32, 0, 0⟩ }
def raised : State := demoGroup fun g => { g with pro := ⟨32, 32, 0, 0⟩ }

theorem witness_YieldSleepAndAllotments :
    let up := fun (c : Ctx) => (15#4 &&& c.grp.cur.differs c.grp.full)
    let down := fun (c : Ctx) => if c.wave.rel = 0#4 then 15#4 &&& c.grp.cur.differs c.grp.pro else c.wave.rel
    let want := fun (c : Ctx) =>
      { c.grp with waves := c.grp.waves.map (fun (w : Wave) => if w.id = c.wave.id then { w with rel := w.rel ||| down c } else w) }
    let n := fun (c : Ctx) => c.read 1 .n32 c.form.a 0
    [meets asked 0x0C (form .b32 .none .none .none) .unused .unused .unused none (fun c => c.grp.preempt.any (fun p => !p.forced && p.deadline = 5)),
     meets demo 0x0C (form .b32 .none .none .none) .unused .unused .unused none (fun c => c.grp.preempt.isNone),
     meets demo 0x0D (form .b32 .none (.imm 9#9) .none) .unused (.uni false) .unused none (fun c => n c ≠ 0),
     meets demo 0x0D (form .b32 .none (.s 0) .none) .unused (.uni false) .unused none (fun c => n c = 0),
     meets demo 0x0E (form .b32 .none .none .none) .unused .unused .unused none (fun c => up c = 0#4),
     meets demo 0x0F (form .b32 .none .none .none) .unused .unused .unused none (fun c => down c = 0#4),
     meets lowered 0x0E (form .b32 .none .none .none) .unused .unused .unused none
       (fun c => c.st.launches.all (fun l => l.due.isNone) && c.grp.acq.isEmpty && c.st.acqFits c.grp c.st.nextId (up c &&& 13#4)),
     meets raised 0x0F (form .b32 .none .none .none) .unused .unused .unused none
       (fun c => down c ≠ 0#4 && down c &&& ~~~(want c).lowerable = 0#4),
     meets (raised.updWave 2 0 fun w => { w with rel := 1 }) 0x0F (form .b32 .none .none .none) .unused .unused .unused none
       (fun c => down c = 1#4 && down c &&& ~~~(want c).lowerable = 0#4)].all id = true := by decide +kernel

/-- Registers that describe a box of extents 4, 2 and 1, in s0 to s5. -/
def boxed (st : State) : State := st.updWave 2 0 (fun w => { w with s := [(3, 4), (4, 2), (5, 1)] })
def divisible : State := demoGroup fun g => { g with
  div := true
  deferCap := 4096 }
def long4 : State := divisible.updGroup 2 (fun g => { g with task := { g.task with ex := 4 } })
def cancelled (st : State) : State := st.updLaunch 1 (fun l => { l with
  cancel := true
  bits := BitVec.allOnes 64 })

/-- A fault of the launch that a firmware core has. -/
def faulted (st : State) : State := { st with
  edges := 2
  faults := [⟨1, codeOperand, 0x4000, 1, 1, 0, 0, 0⟩] }
/-- A divisible task of extent `n` whose deferred area is spent. -/
def spent (n : Nat) : State := divisible.updGroup 2 (fun g => { g with
  task := { g.task with ex := n }
  deferUsed := 4096 })

theorem witness_TaskInstructions :
    let spawn := fun (s : State) (ok : Ctx → Bool) =>
      meets s 0x10 (form .b32 .none (.s 0) (.s 6)) .unused (.sblock 6 false) (.uni false) none ok
    let l := fun (c : Ctx) (ok : Launch → Bool) => c.launch?.any ok
    let box := fun (c : Ctx) => let t := childTask c c.form
      decide (t.ex ≠ 0 ∧ t.ey ≠ 0 ∧ t.ez ≠ 0 ∧ t.ox + t.ex ≤ 2 ^ 32 ∧ t.oy + t.ey ≤ 2 ^ 32 ∧ t.oz + t.ez ≤ 2 ^ 32)
    let split := fun (s : State) (ok : Ctx → Bool) => meets s 0x12 (form .b32 (.p 0) .none .none) { p := true, none := true } .unused .unused none ok
    let axis := fun (c : Ctx) => (c.launch?.bind (fun (x : Launch) => c.grp.task.splitAxis x.recd))
    let set := fun (c : Ctx) => l c (fun x => x.bits.getLsbD c.grp.facet)
    let noRoom := fun (c : Ctx) => box c && c.grp.div && c.grp.deferCap < c.grp.deferUsed + 64 && l c (fun x => x.recd.pclass = 1 && x.total = 1)
    let alone := fun (op : Nat) (f : Form) (d : Allow) => meets (demoGroup fun g => { g with launch := none }) op f d .unused .unused none (fun c => c.grp.launch.isNone)
    [alone 0x11 (form .n32 (.s 0) .none .none 0 6) (.reg false), alone 0x12 (form .b32 (.p 0) .none .none) { p := true, none := true },
     alone 0x13 (form .b32 .none .none .none) .unused, alone 0x13 (form .b32 (.p 0) .none .none 0 1) .pred,
     alone 0x13 (form .b32 .none .none .none 0 2) .unused,
     spawn (boxed (spent 4)) (fun c => noRoom c && axis c = some 0 && !set c), spawn (boxed (cancelled (spent 4))) (fun c => noRoom c && axis c = some 0 && set c),
     spawn (boxed (spent 1)) (fun c => noRoom c && axis c = none && !set c && !c.st.ending c.grp),
     split (cancelled long4) (fun c => axis c = some 0 && set c),
     meets (faulted (cancelled demo)) 0x13 (form .b32 .none .none .none 0 2) .unused .unused .unused none (fun c => set c && c.st.ending c.grp),
     spawn (boxed demo) (fun c => box c && !c.grp.div && l c (fun x => x.recd.pclass = 1 && x.total = 1)),
     spawn (boxed divisible) (fun c => box c && c.grp.div && c.grp.deferUsed + 64 ≤ c.grp.deferCap && l c (fun x => x.total = 1)),
     spawn (demoLaunch fun x => { x with recd := { x.recd with pclass := 0 } }) (fun c => l c (fun x => x.recd.pclass = 0)),
     spawn (boxed (demoLaunch fun x => { x with total := 2 ^ 32 - 1 })) (fun c => box c && l c (fun x => 2 ^ 32 ≤ x.total + 1)),
     spawn demo (fun c => !box c && l c (fun x => x.recd.pclass ≠ 0)),
     spawn (demoGroup fun g => { g with launch := none }) (fun c => c.grp.launch.isNone),
     meets demo 0x11 (form .n32 (.s 0) .none .none 0 6) (.reg false) .unused .unused none (fun c => c.launch?.isSome),
     split demo (fun c => !c.grp.div), split divisible (fun c => axis c = none), split long4 (fun c => axis c = some 0 && l c (fun x => !x.bits.getLsbD c.grp.facet)),
     meets demo 0x13 (form .b32 .none .none .none) .unused .unused .unused none (fun c => l c (fun x => !x.bits.getLsbD c.grp.facet)),
     meets (cancelled demo) 0x13 (form .b32 .none .none .none) .unused .unused .unused none (fun c => l c (fun x => x.bits.getLsbD c.grp.facet)),
     meets demo 0x13 (form .b32 (.p 0) .none .none 0 1) .pred .unused .unused none (fun c => c.launch?.isSome),
     meets (cancelled (demoWave fun w => { w with trapVec := 0x8000 })) 0x13 (form .b32 .none .none .none 0 2) .unused .unused .unused none
       (fun c => l c (fun x => x.bits.getLsbD c.grp.facet) && c.wave.frames.isEmpty && c.wave.trapVec ≠ 0 && !c.st.ending c.grp)].all id = true := by decide +kernel

/-- A box of 5 by 9 by 4, whose halves must have at least 2 by 4 by 4: the longest axis that can be cut is 1. -/
def wholeBox : Task := { ox := 1, oy := 2, oz := 3, ex := 5, ey := 9, ez := 4, arg := 7, order := [], born := none }
theorem witness_HalvesOfABox : wholeBox.splitAxis { bootRec with min := (2, 4, 4) } = some 1 := by decide +kernel
/-- R287: its halves are 5 and 4 long, the first the longer. -/
theorem test_halves : (wholeBox.halves 1).map (fun t => (t.oy, t.ey, t.ex)) = [(2, 5, 5), (7, 4, 5)] := by decide +kernel
/-- A state as that of a divisible task with its deferred area spent, in which what it exhausts halves it, aborts it, or is the
smallest-grain fault. -/
def exhausting (s : State) : List State :=
  let t := fun (n : Nat) => s.updGroup 2 (fun g => { g with
    div := true
    deferCap := 4096
    deferUsed := 4096
    task := { g.task with ex := n } })
  [t 4, cancelled (t 4), t 1]
theorem test_exhausting : (exhausting demo).map (fun s => (s.group? 2).bind (fun g => (g.launch.bind s.launch?).map (fun l =>
    (g.task.splitAxis l.recd, l.bits.getLsbD g.facet, s.ending g)))) = [some (some 0, false, false), some (some 0, true, false), some (none, false, false)] := by
  decide +kernel
theorem witness_RegionsStandLowest : lowestFree [(0, 4096), (8192, 4096)] 65536 8192 = some 12288 ∧ lowestFree [(0, 4096)] 8192 8192 = none := by
  decide +kernel

/-- The machine after an SALLOC of one page, and one whose spaces name it. -/
def withRegion : State := match exec (.salloc (form .b32 (.s 7) .long .none 4096)) demo with
  | .next t => { t with cur := some (2, 0) }
  | _ => demo

theorem witness_ScratchpadRegions :
    let alloc := fun (s : State) (n var : Nat) (b : Operand) (ok : Ctx → Bool) =>
      meets s 0x14 (form .b32 (.s 7) (.s 0) b 0 var) (.reg false) (.uni false) (if var = 1 then .uni false else .unused) none
        (fun c => c.read 1 .n32 c.form.a 0 = n && ok c)
    let q := fun (c : Ctx) => if c.form.var.getLsbD 0 then c.read 2 .n32 c.form.b 0 else c.grp.facet % 4
    let place := fun (c : Ctx) (n : Nat) => lowestFree (c.st.taken (q c) 0) ((c.st.facet (q c)).spadUnits * 65536) n
    let room := fun (c : Ctx) => decide (c.st.liveBytes c.grp.id + c.read 1 .n32 c.form.a 0 ≤ c.grp.ceil * 4096)
    let sized := fun (n : Nat) => withS [(0, n)]
    let region := fun (c : Ctx) => (c.st.facet 0).regions.find? (fun r => r.base = c.read 1 .n32 c.form.a 0 % 2 ^ 26 && r.ctx = c.grp.ctx)
    [alloc (sized 8192) 8192 1 (.imm 3#9) (fun c => q c = 3 && room c && (place c 8192).isSome && (c.st.facet 3).regions.length < 256),
     alloc ((sized 4096).updGroup 2 (fun g => { g with ceil := 0 })) 4096 0 .none (fun c => !c.grp.div && !room c),
     (exhausting ((sized 4096).updGroup 2 (fun g => { g with ceil := 0 }))).all (fun s =>
       alloc s 4096 0 .none (fun c => c.grp.div && !room c && q c < 4 && c.st.inPartition c.grp (q c))),
     alloc (sized 4100) 4100 0 .none (fun _ => true), alloc (sized 4096) 4096 1 (.imm 4#9) (fun c => q c = 4),
     alloc { sized 4096 with ctxs := [{ bootCtx with plog2 := 0 }] } 4096 1 (.imm 1#9) (fun c => !c.st.inPartition c.grp (q c)),
     meets withRegion 0x15 (form .b32 .none (.s 7) .none) .unused (.uni false) .unused none (fun c => (region c).isSome
       && c.st.routers.all (fun y => y.entries.isEmpty) && (c.st.queuedInto c.grp.ctx (spadKey c.grp.die (c.read 1 .n32 c.form.a 0)) 4096).isEmpty
       && c.st.groups.all (fun g => g.waves.all (fun w => w.cmds.isEmpty))),
     meets withRegion 0x15 (form .b32 .none .long .none 0x2000) .unused (.uni false) .unused none (fun c => (region c).isNone)].all id = true := by decide +kernel

/-- Addresses 64 apart in v0, from 256 on. -/
def spread : State := demoWave fun w => w.setV 0 (BitVec.allOnes 64) (fun l => BitVec.ofNat 32 (256 + 64 * l))
/-- The same with the region of `withRegion` to reach. -/
def spreadP : State := withRegion.updWave 2 0 (fun w => w.setV 0 (BitVec.allOnes 64) (fun l => BitVec.ofNat 32 ((w.s? 7).toNat + 64 * l)))

/-- The conditions of `Ctx.Reaches`, to be evaluated. -/
def reaches (c : Ctx) (sp read write : Bool) (off : Int) : Bool :=
  !c.wave.releaseOwed && c.wave.allDone (fun _ => true) && (checkLanes c.st c.grp sp write (tySize c.form.ty) ((lanesOf c.act).map (c.localAddr off))).isNone
    && (!read || (lanesOf c.act).all (fun l => (c.st.badLocal c.grp sp (c.localAddr off l) (tySize c.form.ty)).isNone))

/-- The same with two of the wave's own commands, of which the second is a release that waits for the first. -/
def owes (s : State) : State := s.updWave 2 0 fun w => { w with
  cmds := [⟨1, 0, 0x4000, 1, .xclr [], [], 0, .queued, false, 0, false, false, 0, 0, 0, [], [], false, false, [], false, 0, []⟩,
    ⟨1, 1, 0x4010, 1, .xclr [], [], 0, .queued, false, 0, false, true, 1, 0, 0, [], [], false, false, [], false, 0, []⟩]
  order := 2 }

theorem witness_LocalLoadsStores :
    let load := fun (s : State) (op : Nat) (imm : Nat) (ok : Ctx → Bool) =>
      meets s op (form .b32 (.v 4) (.v 0) .none imm) { v := true, s := true, wide := false } .addr .unused none ok
    let store := fun (s : State) (op : Nat) (imm : Nat) (ok : Ctx → Bool) =>
      meets s op (form .b32 .none (.v 0) (.v 8) imm) .unused .addr (.value false) none ok
    let off := fun (c : Ctx) => wordOff c.form.imm
    let odd := fun (c : Ctx) => (lanesOf c.act).any (fun l => c.localAddr (off c) l % 4 ≠ 0)
    let past := fun (c : Ctx) => !odd c && (lanesOf c.act).any (fun l => c.grp.cur.sh < c.localAddr (off c) l + 4)
    let far := 384 * 1024 - 256 - 64 * 63
    let quarter := fun (c : Ctx) (l : Nat) => c.grp.die * 4 + c.localAddr (off c) l / 2 ^ 26 % 4
    let region := fun (c : Ctx) (l : Nat) => (c.st.facet (quarter c l)).regionAt (c.localAddr (off c) l % 2 ^ 26) 4
    let inside := fun (c : Ctx) (l : Nat) => c.localAddr (off c) l < 2 ^ 28 && c.st.inPartition c.grp (quarter c l)
      && c.localAddr (off c) l % 2 ^ 26 + 4 ≤ (c.st.facet (quarter c l)).spadUnits * 65536
      && (region c l).any (fun r => r.ctx = c.grp.ctx && (!r.div || r.issuer = c.grp.id))
    let outside := fun (c : Ctx) => !odd c && (lanesOf c.act).any (fun l => !inside c l)
    let foreign := fun (c : Ctx) => !odd c && c.grp.div && (lanesOf c.act).all (inside c)
      && (lanesOf c.act).any (fun l => (region c l).all (fun r => !(r.owned && r.issuer = c.grp.id)))
    let owed := fun (sp write : Bool) (c : Ctx) => c.wave.releaseOwed
      && (checkLanes c.st c.grp sp write 4 ((lanesOf c.act).map (c.localAddr (off c)))).isNone
    [load spread 0x80 0xFFFFFFFC (fun c => reaches c false true false (off c)), store spread 0x81 4 (fun c => reaches c false false true (off c)),
     load spreadP 0x82 4 (fun c => reaches c true true false (off c)), store spreadP 0x83 4 (fun c => reaches c true false true (off c)),
     load (owes spread) 0x80 4 (owed false false), store (owes spread) 0x81 4 (owed false true), load (owes spreadP) 0x82 4 (owed true false),
     store (owes spreadP) 0x83 4 (owed true true), load spread 0x82 4 outside, store spreadP 0x83 4096 outside, load spreadP 0x82 4 (fun c => !outside c),
     store ((spreadP.updGroup 2 fun g => { g with div := true }).updFacet 0 fun x => { x with regions := x.regions.map (fun r => { r with
       issuer := 7 }) }) 0x83 4 foreign,
     load spread 0x80 2 odd, load spread 0x82 1 odd, store spread 0x81 2 odd, store spread 0x83 3 odd, load spread 0x80 far past,
     store spread 0x81 far past, load spread 0x80 (far - 4) (fun c => !past c)].all id = true := by decide +kernel

theorem witness_LocalAtomics :
    let off := fun (c : Ctx) => atomicOff c.form.imm
    [meets spread 0x86 (form .n32 (.v 4) (.v 0) (.imm 1#9) 0x01900040) ((Allow.vreg false).orNone) .addr (.value false) none
       (fun c => reaches c false true true (off c)),
     meets spread 0x86 (form .f32 .none (.v 0) (.v 8) 0 11) ((Allow.vreg false).orNone) .addr (.value false) none
       (fun c => reaches c false true true (off c)),
     meets spreadP 0x87 (form .b64 (.v 4) (.v 0) (.v 8) 0 6) ((Allow.vreg true).orNone) .addr (.value true) none
       (fun c => reaches c true true true (off c)),
     meets spread 0x88 (form .b32 (.v 4) (.v 0) (.v 8)) (.vreg false) .addr (.value false) none (fun c => reaches c false true true (off c)),
     meets spreadP 0x89 (form .b64 (.v 4) (.v 0) (.v 8)) (.vreg true) .addr (.value true) none (fun c => reaches c true true true (off c))].all
    id = true := by decide +kernel

theorem witness_Reservations :
    let off := fun (c : Ctx) => atomicOff c.form.imm
    [meets spread 0x8A (form .b32 (.v 4) (.v 0) .none) (.vreg false) .addr .unused none (fun c => reaches c false true false (off c)),
     meets spread 0x8B (form .b32 (.p 1) (.v 0) (.v 8)) .pred .addr (.value false) none (fun c => reaches c false false true (off c)),
     meets spreadP 0x8C (form .b64 (.v 4) (.v 0) .none) (.vreg true) .addr .unused none (fun c => reaches c true true false (off c)),
     meets spreadP 0x8D (form .b64 (.p 1) (.v 0) (.v 8)) .pred .addr (.value true) none (fun c => reaches c true false true (off c))].all
    id = true := by decide +kernel

theorem witness_SpillFill :
    let o := fun (c : Ctx) => wrapInt (c.read 1 .n32 c.form.a 0 + sx c.form.imm.toNat 32) 32
    let spill := fun (a : Operand) (b : Operand) (imm var : Nat) (ok : Ctx → Bool) =>
      meets demo 0x84 (form .b32 .none a b imm var) .unused .spillBase (.spillBlock (var + 1)) none ok
    let fill := fun (a : Operand) (d : Operand) (imm var : Nat) (ok : Ctx → Bool) =>
      meets demo 0x85 (form .b32 d a .none imm var) (.spillBlock (var + 1)) .spillBase .unused none ok
    [spill .none (.v 0) 0 15 (fun c => o c = 0 && 256 * 16 ≤ c.grp.spillSize), spill (.s 0) (.s 0) 4 3 (fun c => o c = 4),
     fill .none (.v 16) 256 14 (fun c => o c + 256 * 15 = c.grp.spillSize), fill .none (.s 16) 4 0 (fun c => o c = 4),
     spill .none (.v 0) 128 0 (fun c => o c % 256 ≠ 0), fill .none (.s 0) 2 0 (fun c => o c % 4 ≠ 0),
     spill .none (.v 0) 256 15 (fun c => c.grp.spillSize < o c + 256 * 16 && !c.divisible),
     fill .none (.v 0) 256 15 (fun c => c.grp.spillSize < o c + 256 * 16 && !c.divisible),
     (exhausting demo).all (fun s => meets s 0x84 (form .b32 .none .none (.v 0) 256 15) .unused .spillBase (.spillBlock 16) none
       (fun c => c.grp.spillSize < o c + 256 * 16 && c.divisible)),
     (exhausting demo).all (fun s => meets s 0x85 (form .b32 (.v 0) .none .none 256 15) (.spillBlock 16) .spillBase .unused none
       (fun c => c.grp.spillSize < o c + 256 * 16 && c.divisible))].all id = true := by decide +kernel

/-! Commands: accepted, waiting where a class is full, and with no key. -/

/-- The conditions of `Ctx.Takes`, to be evaluated. -/
def takes (c : Ctx) (o : Order) : Bool :=
  !c.full o.cls && (o.effect.access.1.isEmpty || c.st.keyBound c.grp.ctx) && (c.pinsFor o.effect).isSome

/-- A command of a class that is not performed yet. -/
def pending (cls seq : Nat) (status : Byte := 0) (stage : CmdStage := .queued) : Cmd :=
  { cls := cls, seq := seq, pc := 0x4000, mask := 1, effect := .xclr [], pins := [], status := status, stage := stage, begun := false, sent := 0,
    reported := false, rel := false, order := seq, info := 0, since := 0, moved := [], sample := [], asked := false, posted := false, via := [], lost := false,
    die := 0, late := [] }

/-- A state with 256 outstanding commands of a class, and one without a key. -/
def full (s : State) (cls : Nat) : State := s.updWave 2 0 (fun w => { w with cmds := (List.range 256).map (fun i => pending cls i) })
def keyless (s : State) : State := { s with keys := [] }

/-- The three clauses of `Submits` in one: a form that submits a command of a class is accepted in `s`, waits where its class is full, and
has no key where the context has none (`mem` says whether it reaches main memory). -/
def submits (s : State) (op : Nat) (f : Form) (d a b : Allow) (x : Option Allow) (ok : Ctx → Bool) (o : Ctx → Order) (mem : Bool := true) : Bool :=
  meets s op f d a b x (fun c => ok c && takes c (o c))
    && meets (full s ((s.issued op f d a b x).elim 0 (fun c => (o c).cls))) op f d a b x (fun c => ok c && c.full (o c).cls)
    && (!mem || meets (keyless s) op f d a b x (fun c => ok c && !c.full (o c).cls && !(o c).effect.access.1.isEmpty && !c.st.keyBound c.grp.ctx))

/-- The handle operands of a command: none, or h3. -/
def noHandle : Nat := third .none
def handle3 : Nat := third (.h 3)

/-- A bulk descriptor of one row of 64 bytes from 0x4000. -/
def bulk (loc : Nat := 0) (len : Nat := 64) (va : Nat := 0x4000) : State := withS [(0, va), (2, loc), (3, len), (4, 1)]
def evenBulk (c : Ctx) : Bool := c.bulk.va.toNat % 4 = 0 && c.bulk.loc.toNat % 4 = 0 && c.bulk.vstr % 4 = 0 && c.bulk.lstr % 4 = 0
def fairBulk (c : Ctx) : Bool := 4 ≤ c.bulk.len && c.bulk.len ≤ 2 ^ 24 && c.bulk.len % 4 = 0 && 1 ≤ c.bulk.rows && c.bulk.rows ≤ 2 ^ 16
  && c.bulk.len * c.bulk.rows ≤ 2 ^ 24 && c.wave.readS c.st.tick 1 (sIndex c.form.a + 7) = 0

theorem witness_BulkCommands :
    let handle := some Allow.cmdHandle
    let misses := fun (c : Ctx) (acc : Access) (e : Effect) =>
      match (c.st.translateAll c.grp.facet c.wave.core c.grp.ctx acc e.access.1 []).1 with
      | .error (st, _) => st ≠ 0#8 && st ≠ 0xFE#8
      | .ok _ => false
    let good := fun (write : Bool) (c : Ctx) => fairBulk c && evenBulk c && (c.bulk.localCodes c.st c.grp (c.form.var.getLsbD 0) write).isEmpty
    let f := form .b32 .none (.s 0) .none handle3
    let g := form .b32 .none (.s 0) (.imm 7#9) noHandle
    let ins := fun (s : State) (ok : Ctx → Bool) => meets s 0x90 f .unused .descriptor .unused handle ok
    [submits (bulk) 0x90 f .unused .descriptor .unused handle (good true) (fun c => c.order 1 (.bulkIn c.bulk false) (some 3)),
     submits (bulk) 0x91 f .unused .descriptor .unused handle (fun c => good false c && !c.divisible) (fun c => c.order 2 (.bulkOut c.bulk false) (some 3)),
     submits (bulk) 0x94 g .unused .descriptor (.uni false) handle (fun c => fairBulk c && evenBulk c && !c.divisible)
       (fun c => c.order 2 (.bulkFill c.bulk (word (c.uniform 2 .b32 (.imm 7#9)))) none),
     ins demo (fun c => !fairBulk c), ins (bulk 2) (fun c => fairBulk c && !evenBulk c),
     meets demo 0x91 f .unused .descriptor .unused handle (fun c => !fairBulk c),
     meets (bulk 2) 0x91 f .unused .descriptor .unused handle (fun c => fairBulk c && !evenBulk c),
     meets (bulk 0 64 0x4002) 0x94 g .unused .descriptor (.uni false) handle (fun c => fairBulk c && !evenBulk c),
     meets (bulk 0 64 0x5000) 0x91 f .unused .descriptor .unused handle (fun c => good false c && !c.divisible && !c.full 2
       && c.st.keyBound c.grp.ctx && misses c .write (.bulkOut c.bulk false)),
     meets (bulk 0 64 0x5000) 0x94 g .unused .descriptor (.uni false) handle (fun c => fairBulk c && evenBulk c && !c.divisible && !c.full 2
       && c.st.keyBound c.grp.ctx && misses c .write (.bulkFill c.bulk 7)),
     meets demo 0x94 g .unused .descriptor (.uni false) handle (fun c => !fairBulk c),
     ins (bulk 0 64 0x5000) (fun c => good true c && !c.full 1 && c.st.keyBound c.grp.ctx && misses c .read (.bulkIn c.bulk false))].all id = true := by decide +kernel

/-- The address 0x4000 in the pair v0 of every lane, one that is odd, and local addresses in v2. -/
def atPage : State := withV [(0, 0x4000), (2, 64)]
def atOdd : State := withV [(0, 0x4002)]

theorem witness_LaneCommands :
    let handle := some Allow.cmdHandle
    let odd := fun (k : Nat) (c : Ctx) => (lanesOf c.act).any (fun l => c.read 1 .n64 c.form.a l % 2 ^ 64 % k ≠ 0)
    let vals := fun (c : Ctx) => laneList c (c.patB c.form) (fun _ => 0)
    let zero := fun (c : Ctx) => laneList c (fun _ => 0) (fun _ => 0)
    let loc := fun (c : Ctx) => laneList c (fun _ => 0) (fun l => c.read 2 .n32 c.form.b l)
    let f := fun (ty : Ty) (d b : Operand) (var : Nat) => form ty d (.v 0) b handle3 var
    let ok := fun (k : Nat) (c : Ctx) => !odd k c && !c.divisible
    let both := fun (op : Nat) (g : Form) (d b : Allow) (k : Nat) (o : Ctx → Order) =>
      submits atPage op g d (.vreg true) b handle (ok k) o && meets atOdd op g d (.vreg true) b handle (odd k)
    [both 0x92 (f .b32 (.v 4) .none 0) (.vreg false) .unused 4 (fun c => c.order 1 (.gather .b32 0 (.v 4) (zero c)) (some 3)),
     both 0x92 (f .b32 .none (.v 2) 1) .unused (.vreg false) 4 (fun c => c.order 1 (.gather .b32 1 .none (loc c)) (some 3)),
     both 0x93 (f .b64 .none (.v 2) 0) .unused (.value true) 8 (fun c => c.order 2 (.scatter .b64 0 (vals c)) (some 3)),
     both 0x95 (f .n32 (.v 4) (.v 2) 0) (.vreg false) (.value false) 4 (fun c => c.order 3 (.atomic 0 .n32 (.v 4) (vals c)) (some 3)),
     both 0x96 (f .f32 .none (.v 2) 2) .unused (.value false) 4 (fun c => c.order 3 (.atomic 2 .f32 .none (vals c)) (some 3)),
     both 0x97 (f .b64 (.v 4) (.v 2) 0) (.vreg true) (.value true) 8
       (fun c => c.order 3 (.cas .b64 (.v 4) (laneList c (c.patB c.form) (c.patD c.form))) (some 3)),
     both 0x98 (f .f32 .none (.v 2) 0) .unused (.value false) 64 (fun c => c.order 3 (.xsum .f32 (vals c)) (some 3)),
     both 0x99 (f .f32 (.v 4) .none 0) (.vreg false) .unused 64 (fun c => c.order 3 (.xrd .f32 .rn (.v 4) (zero c)) (some 3)),
     both 0x9A (f .b32 .none .none 0) .unused .unused 64 (fun c => c.order 3 (.xclr (zero c)) (some 3)),
     meets (atPage.updGroup 2 fun g => { g with div := true }) 0x95 (f .n32 (.v 4) (.v 2) 0) (.vreg false) (.vreg true) (.value false) handle
       (fun c => !odd 4 c && c.divisible),
     meets (atPage.updGroup 2 fun g => { g with div := true }) 0x97 (f .b64 (.v 4) (.v 2) 0) (.vreg true) (.vreg true) (.value true) handle
       (fun c => !odd 8 c && c.divisible)].all id = true := by decide +kernel

/-- A divisible task with room for its records. -/
def divides (s : State) : State := s.updGroup 2 fun g => { g with
  div := true
  deferCap := 65536 }

theorem witness_HeldBackEffects :
    let handle := some Allow.cmdHandle
    let vals := fun (c : Ctx) => laneList c (c.patB c.form) (fun _ => 0)
    let held := fun (s : State) (op : Nat) (f : Form) (a b : Allow) (size : Nat) (ok : Ctx → Bool) (o : Ctx → Order) =>
      meets (divides s) op f .unused a b handle (fun c => ok c && c.divisible && c.grp.deferUsed + size ≤ c.grp.deferCap && takes c (o c))
        && (exhausting s).all (fun t => meets t op f .unused a b handle
          (fun c => ok c && c.divisible && c.grp.deferCap < c.grp.deferUsed + size && takes c (o c)))
    let lined := fun (k : Nat) (c : Ctx) => (lanesOf c.act).all (fun l => c.read 1 .n64 c.form.a l % 2 ^ 64 % k = 0)
    let f := fun (ty : Ty) (b : Operand) (var : Nat) => form ty .none (.v 0) b handle3 var
    [held (bulk) 0x91 (form .b32 .none (.s 0) .none handle3) .descriptor .unused 128
       (fun c => fairBulk c && evenBulk c && (c.bulk.localCodes c.st c.grp false false).isEmpty) (fun c => c.order 2 (.bulkOut c.bulk false) (some 3)),
     held (bulk) 0x94 (form .b32 .none (.s 0) (.imm 7#9) handle3) .descriptor (.uni false) 128 (fun c => fairBulk c && evenBulk c)
       (fun c => c.order 2 (.bulkFill c.bulk 7) (some 3)),
     held atPage 0x93 (f .b32 (.v 2) 0) (.vreg true) (.value false) 320 (lined 4) (fun c => c.order 2 (.scatter .b32 0 (vals c)) (some 3)),
     held atPage 0x96 (f .n32 (.v 2) 0) (.vreg true) (.value false) 64 (lined 4) (fun c => c.order 3 (.atomic 0 .n32 .none (vals c)) (some 3)),
     held atPage 0x98 (f .f32 (.v 2) 0) (.vreg true) (.value false) 64 (lined 64) (fun c => c.order 3 (.xsum .f32 (vals c)) (some 3)),
     held atPage 0x9A (f .b32 .none 0) (.vreg true) .unused 128 (lined 64) (fun c => c.order 3 (.xclr (vals c)) (some 3))].all id = true := by
  decide +kernel

/-- A wave with one command and its handle in h2, and a handler. -/
def withCmd (k : Cmd) : State := demoWave fun w => { w with
  cmds := [k]
  seqs := [(k.cls, k.seq + 1)]
  h := [(2, .own k.cls k.seq)]
  trapVec := 0x8000 }

theorem witness_WaitingInstructions :
    let w := fun (s : State) (op : Nat) (a : Operand) (imm var : Nat) (ok : Ctx → Bool) =>
      meets s op (form .b32 .none a .none imm var) .unused (if op = 0xA2 then Allow.handle.orNone else .unused) .unused none ok
    let performed := pending 1 0 0 .performed
    let done := pending 1 0 0 .signalled
    let failed := pending 1 0 0x10#8 .signalled
    let toG := fun (x : CmdStage) => { pending 5 0 0 x with effect := .npeek ⟨0, 0, 256⟩ (.g 4) }
    let stage := fun (c : Ctx) => c.wave.cmds.map Cmd.stage
    let caught := fun (c : Ctx) => c.wave.cmds.any (fun k => k.raises && (statusCode k.status).any recoverable) && c.wave.frames.isEmpty
      && c.wave.trapVec ≠ 0 && !c.st.ending c.grp
    [meets atPage 0x9B (form .b32 .none (.s 0) (.imm 1#9)) .unused .pair (.uni false) none (fun c => c.st.copyQueue c.grp.facet c.wave.core < 64),
     meets (full demo 1) 0x9B (form .b32 .none (.s 0) (.imm 1#9)) .unused .pair (.uni false) none
       (fun c => 64 ≤ c.st.copyQueue c.grp.facet c.wave.core),
     w (withCmd performed) 0xA0 .none 2 0 (fun c => stage c = [.performed]), w (withCmd (pending 1 0)) 0xA0 .none 4 0 (fun c => stage c = [.queued]),
     w (withCmd (pending 1 0)) 0xA0 .none 2 0 (fun c => stage c = [.queued]),
     w (withCmd done) 0xA1 .none 0 7 (fun c => stage c = [.signalled] && c.wave.cmds.all (fun k => !k.raises)),
     w (withCmd (pending 1 0)) 0xA1 .none 1 1 (fun c => stage c = [.queued]), w (withCmd (pending 1 0)) 0xA1 .none 0 1 (fun c => stage c = [.queued]),
     w (withCmd (toG .performed)) 0xA0 .none 32 0 (fun c => stage c = [.performed]), w (withCmd (toG .queued)) 0xA0 .none 32 0 (fun c => stage c = [.queued]),
     w (withCmd failed) 0xA1 .none 0 1 caught, w (withCmd failed) 0xA2 (.h 2) 0 0 caught, w (withCmd failed) 0xA2 .none 4 0 caught,
     w (withCmd done) 0xA2 .none 4 0 (fun c => c.grp.handleStatus c.wave (c.wave.h? 2) = 0),
     w (withCmd (pending 1 0)) 0xA2 (.h 2) 0 0 (fun c => c.grp.handleStatus c.wave (c.wave.h? 2) = 1)].all id = true := by decide +kernel

/-- The machine with a word in g4. -/
def withG (x : Nat) : State := demoGroup fun g => g.setG 4 (BitVec.ofNat 32 x)

theorem witness_HandleInstructions :
    let d : Allow := { v := true, s := true, g := true, p := true }
    let cancelIn := fun (s : State) (ok : Ctx → Bool) => meets s 0xA4 (form .b32 (.p 1) (.h 2) .none) (Allow.pred.orNone) .handle .unused none ok
    let cancel := fun (k : Cmd) (ok : Ctx → Bool) => cancelIn (withCmd k) ok
    let tile := { pending 5 0 with asked := true }
    let late := fun (s : State) => s.updRouter 0 (fun r => { r with
      expired := true
      entries := [⟨⟨0, 0, 256⟩, [⟨.localCmd 2 0 0, 0, false, 9⟩], none⟩] })
    let move := fun (s : State) (var : Nat) (d a : Operand) (ok : Ctx → Bool) => meets s 0xA5 (form .b32 d a .none 0 var)
      (if var = 1 then .handle else { g := true, h := true }) (if var = 1 then { g := true } else { g := true, h := true }) .unused none ok
    let g := fun (c : Ctx) => (c.grp.g? 4).toNat
    [meets (withCmd (pending 1 0)) 0xA3 (form .b32 (.s 1) (.h 2) .none) d .handle .unused,
     meets demo 0xA3 (form .b32 (.p 1) (.h 2) .none) d .handle .unused, cancel (pending 1 0) (fun c => c.wave.cmds.all (fun k => !k.done && k.status = 0)),
     cancel (pending 1 0 0 .performed) (fun c => c.wave.cmds.all Cmd.done),
     cancel (pending 1 0 0x10#8) (fun c => c.wave.cmds.all Cmd.failedEarly && c.wave.live ≠ 0),
     cancel (pending 5 0) (fun c => c.wave.cmds.all (fun k => k.cls = 5 && !k.done && !k.begun && !k.asked)),
     cancel tile (fun c => c.wave.cmds.all (fun k => k.cls = 5 && !k.done && !k.begun && k.asked) && c.wave.live ≠ 0
       && c.st.routers.all (fun y => !y.expired)),
     cancelIn (late (withCmd tile)) (fun c => c.wave.cmds.all (fun k => k.cls = 5 && !k.done && !k.begun && k.asked)
       && c.st.routers.any (fun y => y.expired && y.entries.any (fun e => e.recs.any (fun x => x.who = .localCmd c.grp.id c.wave.id 0)))),
     cancel { pending 6 0 with asked := true } (fun c => c.wave.cmds.all (fun k => k.cls = 6 && !k.done && !k.begun && k.asked) && c.wave.live ≠ 0),
     move (withCmd (pending 1 0)) 0 (.g 4) (.h 2) (fun _ => true),
     move (withCmd (pending 1 0)) 0 (.h 5) (.h 2) (fun _ => true), move (withG 0x20400001) 0 (.h 5) (.g 4) (fun c => g c / 2 ^ 20 % 4 = 0 && g c / 2 ^ 29 = 1),
     move (withG 0x00000001) 0 (.h 5) (.g 4) (fun c => g c / 2 ^ 29 = 0 && g c ≠ 0), move (withG 0x01000008) 1 (.h 5) (.g 4) (fun c => g c / 2 ^ 23 % 8 = 2),
     move (withG 0x03000008) 1 (.h 5) (.g 4) (fun c => g c / 2 ^ 23 % 8 = 6)].all id = true := by decide +kernel


/-- A map of a type's elements in column order, from 0 with a row stride of 128 bytes (R140), in m0. -/
def mapped (ty : Ty) : State := demoWave fun w => w.setM 0 (BitVec.ofNat 64 (2 ^ 19 * 128 + 2 ^ 46 * ty.code.toNat + 2 ^ 53))
/-- The same with the latch tag of a command. -/
def tagged (kind : MatKind) (ty : Ty) : State := (mapped ty).updWave 2 0 fun w => { w with latchTag := some (kind, ty, 0) }
/-- A form of the matrix engine, with the reuse hint. -/
def reusing (f : Form) : Form := { f with hints := ⟨false, true, false, 0#2⟩ }

theorem witness_MatrixCommands :
    let handle := some Allow.cmdHandle
    let fits := fun (e : Nat) (c : Ctx) => let x := c.wave.m? (mIndex c.form.b)
      let b := mapElem c.grp.slots x
      mapFmt x ≠ 0 && 1 ≤ e && e ≤ 6 && 1 ≤ b && b ≤ 6 && elemDepth e = elemDepth b && (b ≠ 6 || mapKmaj x)
        && mapBase x + mapSpan c.grp.slots x ≤ c.grp.cur.sh
    let order := fun (m : MatCmd) (c : Ctx) => c.order 4 (.matrix m) none
    let e := elemCode [] Ty.f16 0
    let mma := fun (s : State) (f : Form) (ok : Ctx → Bool) => meets s 0x68 f .tile (.vblock (blockRegs e) false) { m := true } handle ok
    let mmab := fun (s : State) (f : Form) (ok : Ctx → Bool) => meets s 0x69 f .tile .tile { m := true } handle ok
    let f := form .f16 (.a 0) (.v 16) (.m 0) noHandle
    let g := form .f16 (.a 0) (.a 1) (.m 0) noHandle
    let plain := fun (s : State) (op : Nat) (f : Form) (d a b : Allow) (kind : MatKind) (ok : Ctx → Bool) =>
      submits s op f d a b handle ok (order (matrixOf f kind)) false
    let rowsFit := fun (c : Ctx) => (lanesOf c.act).all (fun l => c.smallA c.form l % 4 = 0 && c.smallA c.form l + 256 ≤ c.grp.cur.sh)
    let mask := fun (c : Ctx) => c.read 1 .n32 c.form.a 0
    let rel := fun (n : Nat) (ok : Ctx → Bool) => meets (demoGroup fun g => { g with cur := ⟨256, 384, 0, 8⟩ }) 0x6F
      (form .b32 .none .long .none n) .unused (.uni false) .unused none ok
    [mma (mapped .f16) f (fun c => fits e c && takes c (order (matrixOf f .mma) c)),
     mma (tagged .mma .f16) (reusing f) (fun c => fits e c && c.wave.latchTag = some (.mma, .f16, 0) && takes c (order (matrixOf f .mma) c)),
     mma (mapped .f16) (reusing f) (fun c => c.wave.latchTag = none), mma (mapped .f32) f (fun c => !fits e c),
     mmab (mapped .f16) g (fun c => fits e c && takes c (order (matrixOf g .mmab) c)),
     plain demo 0x6A (form .b32 (.a 31) .none .none noHandle) .tile .unused .unused .mzero (fun _ => true),
     plain demo 0x6B (form .f32 (.a 0) (.v 0) .none noHandle) .tile (.vreg false) .unused .mlda rowsFit,
     plain demo 0x6C (form .f32 .none (.v 0) (.a 0) noHandle) .unused (.vreg false) .tile .msta rowsFit,
     plain demo 0x6D (form .f16 (.v 0) (.a 0) (.imm 56#9) noHandle) (.vblock 4 false) .tile (.uni false) .memit
       (fun c => c.uniform 2 .n32 c.form.b + 8 = 64),
     plain demo 0x6D (form .f32 (.v 0) (.a 0) (.s 0) noHandle 12) (.vblock 64 false) .tile (.uni false) .memit (fun _ => true),
     plain demo 0x70 (form .f32 (.a 0) (.a 1) (.a 2) noHandle 8) .tile .tile .tile .maddt (fun _ => true),
     plain demo 0x71 (form .f32 (.a 0) (.a 1) (.v 0) noHandle 8) .tile .tile (.vreg false) .mscl (fun _ => true),
     plain demo 0x71 (form .f32 (.a 0) (.a 1) (.imm 2#9) noHandle) .tile .tile .scale .mscl (fun _ => true),
     meets (withV [(0, 2)]) 0x6B (form .f32 (.a 0) (.v 0) .none noHandle) .tile (.vreg false) .unused handle (fun c => !rowsFit c),
     meets (withV [(0, 2)]) 0x6C (form .f32 .none (.v 0) (.a 0) noHandle) .unused (.vreg false) .tile handle (fun c => !rowsFit c),
     rel 255 (fun c => mask c < 2 ^ c.grp.cur.t && takes c (order (matrixOf f .mrela) c)), rel 256 (fun c => 2 ^ c.grp.cur.t ≤ mask c),
     meets (withS [(0, 256), (1, 128)]) 0x6E (form .f16 (.m 1) (.s 0) (.s 1)) { m := true } (.uni false) (.uni false) none
       (fun c => c.read 1 .n32 c.form.a 0 = 256 && c.read 2 .n32 c.form.b 0 = 128),
     meets (withS [(0, 257), (1, 128)]) 0x6E (form .f16 (.m 1) (.s 0) (.s 1)) { m := true } (.uni false) (.uni false) none
       (fun c => c.read 1 .n32 c.form.a 0 % 2 ≠ 0),
     meets (slotted 6) 0x6E (form .slot (.m 1) (.s 0) (.s 1) 0 3) { m := true } (.uni false) (.uni false) none
       (fun c => slotElem c.slot = 6 && !c.form.var.getLsbD 3)].all id = true := by decide +kernel

/-- A group whose wave may give its tiles to the engine. -/
theorem witness_TileResults : ((demo.group? 2).any (fun g => (g.wave? 0).isSome)
    && (MatCmd.d (matrixOf (form .f16 (.a 31) (.v 16) (.m 0)) .mma) < 32)
    && (1 + 1) * elemDepth (elemCode [] Ty.f16 0) ≤ 64) = true := by decide +kernel
theorem witness_TilesLeave : ((demo.group? 2).any (fun g => (g.wave? 0).isSome)
    && (matrixOf (form .f16 .none (.v 16) (.a 0)) .msta).kind = .msta) = true := by decide +kernel

/-- A wave with object handles of facet 0 in h0 to h5: a wave, a port, a set, a timer, a proxy and the null handle; and the objects. -/
def holder : State :=
  let objs : List Obj := [⟨1, 0, 1, .wave 2⟩, ⟨2, 0, 1, .port 4 [] [] []⟩, ⟨3, 0, 1, .waitSet [(2, 9), (4, 5)]⟩, ⟨4, 0, 1, .timer 0 true false⟩,
    ⟨5, 0, 1, .proxy 2 7⟩]
  let st := demo.setFacet 0 { State.reset.facet 0 with objs := objs }
  st.updWave 2 0 (fun w => { w with h := [1, 2, 3, 4, 5].map (fun i => (i - 1, HVal.obj (objWord 0 i i 0))) })

/-- The holder with some s registers set. -/
def holds (xs : List (Nat × Nat)) : State := holder.updWave 2 0 (fun w => { w with s := xs.map (fun (k, x) => (k, BitVec.ofNat 32 x)) })

/-- The condition of `namesObject`, to be evaluated. -/
def names (c : Ctx) (o : Operand) (types : List Nat) : Bool :=
  c.wave.h? (hIndex o) = .obj (objWordOf c o) && types.contains (objType (objWordOf c o))
    && (c.firmware || c.st.inPartition c.grp (objFacet (objWordOf c o)))

/-- The clauses of `CallsEngine`. -/
def calls (s : State) (op : Nat) (f : Form) (d a b : Allow) (x : Option Allow) (ok : Ctx → Bool) (call : Call) : Bool :=
  submits s op f d a b x (fun c => !c.divisible && ok c) (fun c => c.order 6 (.call call) none) false
    && meets (s.updGroup 2 fun g => { g with div := true }) op f d a b x (fun c => c.divisible)

theorem witness_WaveAndPortCalls :
    let handle := some Allow.cmdHandle
    let n := fun (o : Operand) (c : Ctx) (k : Nat) => (c.wave.readS c.st.tick 2 (sIndex o + k)).toNat
    let buffer := fun (o : Operand) (write : Bool) (c : Ctx) => n o c 1 ≤ 192 && n o c 1 % 4 = 0
      && (rangeCodes c.st c.grp false write (n o c 0) (n o c 1)).isEmpty
    let spawn := withS [(0, 0x4000), (2, 8 + 8 * 2 ^ 9), (5, 1)]
    let send := holds [(0, 64), (1, 192), (3, 1), (4, 0x4000)]
    let f := fun (d a b : Operand) => form .b32 d a b handle3
    let wrong := fun (c : Ctx) => !c.divisible && c.wave.h? (hIndex c.form.a) = .obj (objWordOf c c.form.a)
    let grant := fun (c : Ctx) => n c.form.b c 3 ≤ 4 && n c.form.b c 4 % 4096 = 0
    [calls spawn 0xB0 (form .b32 (.h 1) (.s 0) .none) .handle (.sblock 8 true) ((Allow.uni false).orNone) none
       (fun c => goodSpawn (fun k => c.wave.readS c.st.tick 1 k)) (.wspawn 1 0 []),
     calls spawn 0xB0 (form .b32 (.h 1) (.s 0) (.imm 63#9)) .handle (.sblock 8 true) ((Allow.uni false).orNone) none
       (fun c => c.read 2 .n32 c.form.b 0 = 63 && c.st.inPartition c.grp 63) (.wspawn 1 63 []),
     calls holder 0xB1 (f .none (.h 0) .none) .unused .handle ((Allow.uni false).orNone) handle
       (fun c => names c c.form.a [1] && c.grp.free.isNone) (.wkill 0 255),
     meets (holder.updGroup 2 fun g => { g with free := some ⟨objWord 0 1 1 0, 5, 0, 0⟩ }) 0xB1 (f .none (.h 0) .none) .unused .handle
       ((Allow.uni false).orNone) handle (fun c => !c.divisible && names c c.form.a [1] && c.grp.free.map FreeWave.handle = some (objWordOf c c.form.a)
         && takes c (c.order 6 (.call (.wkill 0 255)) (some 3) true)),
     calls demo 0xB2 (form .b32 (.h 1) (.imm 255#9) .none) .handle (.uni false) .unused none (fun _ => true) (.pnew 1 255),
     calls send 0xB3 (f .none (.h 1) (.s 0)) .unused .handle (.sblock 12 true) handle
       (fun c => names c c.form.a [2, 5] && buffer c.form.b false c && grant c) (.psend 0 false false 64 192 0 [] none),
     calls (holds [(1, 1), (1, 4)]) 0xB3 (f .none (.h 4) (.s 0)) .unused .handle (.sblock 12 true) handle (fun c => names c c.form.a [2, 5])
       (.psend 0 false false 0 0 0 [] none),
     calls (holds [(0, 64), (1, 192), (2, 0x4000)]) 0xB4 (f (.s 0) (.h 1) .none) (.sblock 8 true) .handle .unused handle
       (fun c => names c c.form.a [2] && buffer c.form.d true c && n c.form.d c 2 % 16384 = 0) (.precv 0 false false 64 192 0 0),
     meets holder 0xB1 (f .none (.h 1) .none) .unused .handle ((Allow.uni false).orNone) handle (fun c => wrong c && !names c c.form.a [1]),
     meets send 0xB3 (f .none (.h 0) (.s 0)) .unused .handle (.sblock 12 true) handle (fun c => wrong c && !names c c.form.a [2, 5]),
     meets send 0xB3 (f .none (.h 9) (.s 0)) .unused .handle (.sblock 12 true) handle (fun c => c.wave.h? 9 = .null),
     meets holder 0xB4 (f (.s 0) (.h 4) .none) (.sblock 8 true) .handle .unused handle (fun c => wrong c && !names c c.form.a [2]),
     meets demo 0xB2 (form .b32 (.h 1) (.s 0) .none) .handle (.uni false) .unused none (fun c => !c.divisible && c.read 1 .n32 c.form.a 0 = 0)].all
    id = true := by decide +kernel

theorem witness_SetTimerAndNameCalls :
    let handle := some Allow.cmdHandle
    let f := fun (d a b : Operand) => form .b32 d a b handle3
    let named := holds [(0, 7), (1, 0)]
    let wwait := fun (s : State) (var : Nat) (ok : Ctx → Bool) => meets s 0xB8 (form .b32 (.s 8) (.h 2) .none 0 var) (.reg false) .handle .unused none ok
    let ready := fun (c : Ctx) (k : Nat) => c.st.memberReady 0 k
    let filled := holder.updFacet 0 (fun f => { f with objs := f.objs.map (fun o => if o.idx = 4 then { o with kind := .timer 0 true true } else o) })
    let other := holder.updFacet 0 (fun f => { f with objs := f.objs.map (fun o => { o with ctx := 9 }) })
    let gone := holder.updFacet 0 (fun f => { f with objs := [] })
    [calls demo 0xB5 (form .b32 (.h 1) .none .none) .handle .unused .unused none (fun _ => true) (.snew 1),
     calls holder 0xB6 (f .none (.h 2) (.h 1)) .unused .handle .handle handle (fun c => names c c.form.a [3] && names c c.form.b [2, 4]) (.sadd 0 0 0),
     calls holder 0xB7 (f .none (.h 2) (.h 3)) .unused .handle .handle handle (fun c => names c c.form.a [3] && names c c.form.b [2, 4]) (.sdel 0 0),
     calls demo 0xB9 (form .b32 (.h 1) .none .none) .handle .unused .unused none (fun _ => true) (.tnew 1),
     calls holder 0xBA (f .none (.h 3) (.s 0)) .unused .handle .pair handle (fun c => names c c.form.a [4]) (.tarm 0 false 0),
     calls holder 0xBB (f .none (.h 3) .none) .unused .handle .unused handle (fun c => names c c.form.a [4]) (.tdis 0),
     calls named 0xBC (form .b32 (.h 6) (.s 0) .none) .handle .pair .unused none (fun c => c.read 1 .n64 c.form.a 0 = 7) (.olook 6 7),
     calls named 0xBD (f .none (.h 1) (.s 0)) .unused .handle .pair handle (fun c => names c c.form.a [2] && c.read 2 .n64 c.form.b 0 = 7) (.obind 0 7 false),
     calls named 0xBD (form .b32 .none (.h 1) (.s 0) handle3 1) .unused .handle .pair handle (fun c => names c c.form.a [2]) (.obind 0 7 true),
     calls named 0xBD (form .b32 .none .none (.s 0) handle3 2) .unused .unused .pair handle (fun c => c.read 2 .n64 c.form.b 0 = 7) (.ounb 7),
     calls holder 0xBE (f .none (.h 4) .none) .unused .handle .unused handle (fun c => names c c.form.a [1, 2, 3, 4, 5]) (.ofree 0),
     submits holder 0xBF (f (.s 2) (.h 0) .none) (.reg false) .handle .unused handle (fun c => names c c.form.a [1, 2, 3, 4, 5])
       (fun c => c.order 6 (.call (.oinfo 0 0 (.s 2))) (some 3)) false,
     meets (holder.updWave 2 0 fun w => { w with h := put HVal.null w.h 7 (.obj (objWord 1 2 2 0)) }) 0xB6 (f .none (.h 2) (.h 7)) .unused .handle .handle
       handle (fun c => names c c.form.a [3] && names c c.form.b [2, 4] && objFacet (objWordOf c c.form.a) ≠ objFacet (objWordOf c c.form.b)),
     meets demo 0xBC (form .b32 (.h 6) (.s 0) .none) .handle .pair .unused none (fun c => c.read 1 .n64 c.form.a 0 = 0),
     meets (holds [(1, 2 ^ 24)]) 0xBD (form .b32 .none .none (.s 0) handle3 2) .unused .unused .pair handle
       (fun c => c.read 2 .n64 c.form.b 0 / 2 ^ 54 ≠ c.st.peerId),
     wwait filled 0 (fun c => names c (.h 2) [3] && ready c 4 && !ready c 2), wwait holder 1 (fun c => !ready c 4 && !ready c 2),
     wwait holder 0 (fun c => (c.st.obj? (objWordOf c (.h 2))).any (fun o => o.ctx = c.grp.ctx)),
     wwait other 0 (fun c => (c.st.obj? (objWordOf c (.h 2))).any (fun o => o.ctx ≠ c.grp.ctx)),
     wwait gone 0 (fun c => names c (.h 2) [3] && (c.st.obj? (objWordOf c (.h 2))).isNone)].all id = true := by decide +kernel

theorem witness_TileCommands :
    let handle := some Allow.cmdHandle
    let st := fun (len life : Nat) => withS [(0, 1), (4, 1024), (5, len), (6, life)]
    let pd := fun (s : State) => s.updWave 2 0 fun w => { w with s := put 0 (put 0 (put 0 w.s 4 (w.s? 7)) 5 256) 7 0 }
    let f := fun (var : Nat) => form .b32 .none (.s 0) (.s 4) handle3 var
    let g := fun (d : Operand) (n : Nat) => form .b32 d (.s 0) (.s n) handle3
    let b := fun (c : Ctx) (k : Nat) => (c.wave.readS c.st.tick 2 (4 + k)).toNat
    let good := fun (c : Ctx) (write : Bool) => (rangeCodes c.st c.grp (c.form.var.getLsbD 0) write (b c 0) (b c 1)).isEmpty && b c 0 % 64 = 0
    let key : TileKey := ⟨0, 0, 256⟩
    let own := withRegion.updGroup 2 (fun g => { g with
      div := true
      deferCap := 65536 })
    [submits (st 256 1) 0xC0 (f 0) .unused .quad .quad handle (good · true) (fun c => c.order 5 (.nwant false key 0 0) (some 3)) false,
     submits (pd withRegion |>.updWave 2 0 fun w => { w with s := put 0 w.s 6 5 }) 0xC0 (f 1) .unused .quad .quad handle (good · true)
       (fun c => c.order 5 (.nwant true key 0 0) (some 3)) false,
     submits (st 65536 0) 0xC1 (f 0) .unused .quad .quad handle (fun c => good c false && !c.divisible) (fun c => c.order 5 (.nhave false key 0 0) (some 3))
       false,
     meets (pd (own.updFacet 0 fun x => { x with regions := x.regions.map (fun r => { r with
         owned := true
         issuer := 2 }) })) 0xC1 (f 1) .unused .quad .quad handle (fun c => c.divisible && good c true && takes c (c.order 5 (.nhave true key 0 0) none)),
     (exhausting (pd (own.updFacet 0 fun x => { x with regions := x.regions.map (fun r => { r with
         owned := true
         issuer := 2 }) }))).all (fun s => meets s 0xC1 (f 1) .unused .quad .quad handle (fun c => c.divisible && good c true
       && c.grp.deferCap < c.grp.deferUsed + 64 && takes c (c.order 5 (.nhave true key 0 0) none))),
     submits (withS [(8, 512)]) 0xC2 (g .none 8) .unused .quad (.uni false) handle (fun c => c.read 2 .n32 c.form.b 0 = 512)
       (fun c => c.order 5 (.ndrop key) (some 3)) false,
     submits (withS [(8, 512)]) 0xC3 (g (.s 2) 8) (.reg false) .quad (.uni false) handle (fun c => c.read 2 .n32 c.form.b 0 = 512)
       (fun c => c.order 5 (.npeek key (.s 2)) (some 3)) false,
     meets (st 300 1) 0xC0 (f 0) .unused .quad .quad handle (fun c => b c 1 % 256 ≠ 0), meets (st 256 0) 0xC0 (f 0) .unused .quad .quad handle (fun c => b c 2 = 0),
     meets (st 300 1) 0xC1 (f 0) .unused .quad .quad handle (fun c => b c 1 % 256 ≠ 0),
     meets ((st 256 1).updWave 2 0 fun w => { w with s := put 0 w.s 4 4 }) 0xC0 (f 0) .unused .quad .quad handle (fun c => b c 0 % 64 ≠ 0),
     meets (divides (st 256 1)) 0xC1 (f 0) .unused .quad .quad handle (fun c => c.divisible && good c false),
     meets (pd (own.updFacet 0 fun x => { x with regions := x.regions.map (fun r => { r with owned := false }) })) 0xC1 (f 1) .unused .quad .quad handle
       (fun c => c.divisible && good c false && !good c true),
     meets demo 0xC2 (g .none 8) .unused .quad (.uni false) handle, meets demo 0xC3 (g (.s 2) 8) (.reg false) .quad (.uni false) handle].all id = true := by
  decide +kernel

/-- A wave of the firmware core, with some s registers set (R18). -/
def firmware (xs : List (Nat × Nat)) : State := (withS xs).updWave 2 0 fun w => { w with core := 8 }
/-- A route of space 7 in the table of router 0. -/
def routed (s : State) (n : Nat) : State := s.updRouter 0 (fun r => { r with routes := List.replicate n ⟨7, 0x10000000, 4, 4⟩ })

theorem witness_RouteTables :
    let add := fun (s : State) (var : Nat) (ok : Ctx → Bool) => meets s 0xC4 (form .b32 (.p 1) (.s 0) .none 0 var) .pred .quad .unused none ok
    let block := fun (space pre : Nat) => firmware [(0, pre), (1, 4 + 5 * 2 ^ 8), (2, space)]
    let rs := fun (c : Ctx) => (c.st.router 0).routes
    let b := fun (c : Ctx) => c.routeBlock
    let same := fun (c : Ctx) (x : Route) => (b c).route.space = x.space && (b c).route.prefx = x.prefx && (b c).route.length = x.length
    let good := fun (c : Ctx) => c.firmware && (b c).ok && faceExists (b c).router (b c).route.face
    [add (routed (block 7 0x10000000) 1) 0 (fun c => good c && (rs c).any (same c)), add (routed (block 8 0x10000000) 1) 0 (fun c => good c && !(rs c).any (same c)),
     add (routed (block 8 0x10000000) 1024) 0 (fun c => good c && !(rs c).any (same c) && (rs c).length = 1024),
     add (routed (block 7 0x10000000) 1) 1 (fun c => good c && (rs c).any (same c)),
     add (routed (firmware [(2, 7)]) 2) 2 (fun c => c.firmware && (b c).ok && (b c).route.length = 0), add demo 0 (fun c => !c.firmware),
     add (block 7 0x18000000) 1 (fun c => c.firmware && !(b c).ok)].all id = true := by decide +kernel

/-- A wave with a trap handler, and one with a frame on its stack whose lanes are in the handler. -/
def vectored : State := demoWave fun w => { w with trapVec := 0x8000 }
def frame (code : Code) : Frame := { id := 2, code := code, pc := 0x4000, rpc := 0x400C, info := 0x6000, mask := BitVec.allOnes 64, prio := 3,
                                     parent := 0, cmd := none, status := 0, hreg := none, esc := false }
def inHandler (code : Code) (wait : PathWait) : State := vectored.updWave 2 0 fun w => { w with
  frames := [frame code]
  paths := w.paths.map (fun p => { p with
    fr := 2
    wait := wait }) }

theorem witness_TrapsAndReturns :
    let op := fun (s : State) (n var : Nat) (ok : Ctx → Bool) => meets s n (form .b32 .none .none .none 0 var) .unused .unused .unused none ok
    [op vectored 0xD0 0 (fun c => c.wave.frames.isEmpty && c.wave.trapVec ≠ 0 && !c.st.ending c.grp), op demo 0xD0 0 (fun c => c.wave.trapVec = 0),
     op (vectored.updWave 2 0 fun w => { w with frames := List.replicate 4 (frame codeTrap) }) 0xD0 0 (fun c => c.wave.frames.length = 4),
     op (faulted vectored) 0xD0 0 (fun c => c.st.ending c.grp),
     op (inHandler codeTrap .ready) 0xD1 0 (fun c => c.path.fr ≠ 0), op (inHandler codeTrap .ready) 0xD1 1 (fun c => c.path.fr ≠ 0),
     op (inHandler codeTrap .ready) 0xD1 2 (fun c => c.path.fr ≠ 0), op demo 0xD1 2 (fun c => c.path.fr = 0)].all id = true := by decide +kernel

theorem witness_TrapReturn : (([0, 1, 2].all (fun n => ((inHandler codePage (.rtt n)).group? 2).any (fun g => (g.wave? 0).any (fun w =>
    !w.dead && (w.frames.find? ((inHandler codePage (.rtt n)).mayReturn g w) = some (frame codePage)) && w.paths.all (fun p => p.fr = 2 && p.wait = .rtt n)))))
    && (frame codeTrap).cmd = none && codeTrap ≠ codePage) = true := by decide +kernel

theorem witness_MatrixPoints :
    let point := fun (s : State) (n : Nat) (ok : Ctx → Bool) => meets s 0xD2 (form .b32 .none .long .none n) .unused (.uni false) .unused none ok
    let eight := fun (s : State) => s.updGroup 2 fun g => { g with cur := ⟨256, 384, 0, 8⟩ }
    let keep := fun (c : Ctx) => c.read 1 .n32 c.form.a 0
    [point (eight demo) 3 (fun c => keep c < 2 ^ c.grp.cur.t && c.st.matq.isEmpty),
     point (eight { demo with matq := [.cmd 0 0 2 0 0] }) 3 (fun c => c.grp.cores = [0] && (matHead c.grp.facet 0 c.st.matq).isSome
       && !c.st.laterEntry c.grp c.wave (.cmd 0 0 2 0 0)),
     point (eight demo) 256 (fun c => 2 ^ c.grp.cur.t ≤ keep c)].all id = true := by decide +kernel

theorem witness_SystemReads :
    let sysr := fun (s : State) (ty : Ty) (a : Operand) (ok : Ctx → Bool) =>
      meets s 0xD3 (form ty (.v 4) a .none) (.reg (wideTy ty)) { s := true, g := true, imm := true, long := true, sys := 2 } .unused none ok
    let n := fun (c : Ctx) => c.read 1 .n32 c.form.a 0
    [sysr demo .b32 (.sys 0x006#9) (fun _ => true), sysr demo .b64 (.sys 0x018#9) (fun _ => true), sysr (firmware []) .b64 (.sys 0x100#9) (fun c => c.firmware),
     sysr (inHandler codeTrap .ready) .b32 (.sys 0x031#9) (fun c => c.wave.frame? c.path.fr = some (frame codeTrap)
       && (c.wave.frame? (frame codeTrap).parent).isNone),
     sysr (withS [(0, 0x23)]) .b32 (.s 0) (fun c => n c = 0x23), sysr (withS [(0, 0x102)]) .b32 (.s 0) (fun c => !c.firmware && n c = 0x102),
     sysr (withS [(0, 0x13)]) .b64 (.s 0) (fun c => n c = 0x13), sysr demo .b32 (.imm 9#9) (fun c => n c = 9)].all id = true := by decide +kernel

theorem witness_SystemWrites :
    let sysw := fun (s : State) (ty : Ty) (i : BitVec 9) (ok : Ctx → Bool) =>
      meets s 0xD4 (form ty (.sys i) (.s 0) .none) { sys := 3 } (.uni (wideTy ty)) .unused none ok
    let v := fun (c : Ctx) => c.read 1 c.form.ty c.form.a 0
    let sub := fun (x : Nat) => (inHandler codeTrap .ready).updWave 2 0 fun w => { w with s := [(0, BitVec.ofNat 32 x)] }
    [sysw (withS [(0, 0x8000)]) .b64 0x030#9 (fun c => v c = 0x8000), sysw (withS [(0, 2)]) .b64 0x030#9 (fun c => v c % 4 ≠ 0),
     sysw (withS [(1, 2 ^ 24)]) .b64 0x030#9 (fun c => v c = 2 ^ 56), sysw (sub 16) .b64 0x034#9 (fun c => c.path.fr ≠ 0 && v c = 16),
     sysw (sub 3) .b64 0x034#9 (fun c => c.path.fr ≠ 0 && v c % 4 ≠ 0), sysw (sub 4095) .b32 0x037#9 (fun c => c.path.fr ≠ 0 && v c = 4095),
     sysw (sub 4096) .b32 0x037#9 (fun c => c.path.fr ≠ 0 && v c = 4096), sysw demo .b64 0x034#9 (fun c => c.path.fr = 0),
     sysw (firmware [(0, 5)]) .b64 0x100#9 (fun c => c.firmware && v c % 4 < 2 && (c.st.waitingFrame (v c / 4)).isNone),
     sysw (firmware [(0, 2)]) .b64 0x100#9 (fun c => c.firmware && v c % 4 = 2),
     sysw (firmware [(0, 63)]) .b64 0x101#9 (fun c => c.firmware && preemptClean (v c) && c.st.groups.all (fun g => g.waves.all (fun w => w.slot ≠ 63))),
     sysw (firmware [(0, 64)]) .b64 0x101#9 (fun c => c.firmware && !preemptClean (v c))].all id = true := by decide +kernel

/-- The machine with a capture bank owned by a context. -/
def banked (ctx : Option Nat) : State := demo.updFacet 0 (fun f => { f with bank := ⟨ctx, [(0, 5)], List.replicate 4 Unit4.clear⟩ })

theorem witness_CountersAndCapture :
    let u := fun (c : Ctx) => c.read 1 .n32 c.form.a 0
    let k := fun (c : Ctx) => c.read 2 .n32 c.form.b 0
    let cntr := fun (s : State) (n : Nat) (ok : Ctx → Bool) => meets s 0xD5 (form .b64 (.v 4) (.imm (BitVec.ofNat 9 n)) .none 0 1) (.reg true) (.uni false) .unused none ok
    let ctl := fun (s : State) (var : Nat) (d a b : Operand) (x y z : Allow) (ok : Ctx → Bool) => meets s 0xD6 (form .b32 d a b 0 var) x y z none ok
    let claim := fun (s : State) (ok : Ctx → Bool) => ctl s 0 (.p 1) .none .none (Allow.pred.orNone) .unused .unused ok
    let free := fun (s : State) (ok : Ctx → Bool) => ctl s 1 .none .none .none .unused .unused .unused ok
    let set := fun (s : State) (a b : Nat) (ok : Ctx → Bool) =>
      ctl s 2 .none (.imm (BitVec.ofNat 9 a)) (.imm (BitVec.ofNat 9 b)) .unused (.uni false) (.uni false) ok
    let read := fun (s : State) (a b : Nat) (ok : Ctx → Bool) =>
      ctl s 3 (.s 10) (.imm (BitVec.ofNat 9 a)) (.imm (BitVec.ofNat 9 b)) (.reg false) (.uni false) (.uni false) ok
    let owner := fun (c : Ctx) => (c.st.facet c.grp.facet).bank.owner
    let mine := fun (c : Ctx) => owner c = some c.grp.ctx
    [cntr (banked (some 1)) 11 (fun c => u c = 11 && mine c), cntr demo 12 (fun c => u c = 12), cntr demo 0 (fun c => owner c = none),
     claim demo (fun c => owner c = none), claim (banked (some 1)) (mine ·), claim (banked (some 7)) (fun c => owner c = some 7), free (banked (some 1)) (mine ·),
     free demo (fun c => owner c = none), set (banked (some 1)) 3 7 (fun c => mine c && u c = 3 && k c = 7), set (banked (some 1)) 4 0 (fun c => u c = 4),
     set (banked (some 1)) 0 8 (fun c => k c = 8), set demo 3 7 (fun c => owner c = none), read (banked (some 1)) 3 71 (fun c => mine c && k c = 71),
     read (banked (some 1)) 0 5 (fun c => mine c && k c = 5), read (banked (some 1)) 0 6 (fun c => k c = 6), read (banked (some 1)) 0 72 (fun c => k c = 72),
     read demo 0 8 (fun c => owner c = none)].all id = true := by decide +kernel

theorem witness_TranslationsAndKeys :
    let fw := firmware [(0, 1), (1, 0), (2, 1), (3, 5), (4, 9), (6, 65536)]
    let inv := fun (s : State) (var : Nat) (a b : Operand) (x y : Allow) (ok : Ctx → Bool) => meets s 0xD7 (form .b32 .none a b 0 var) .unused x y none ok
    let key := fun (s : State) (var a b : Nat) (ok : Ctx → Bool) =>
      meets s 0xD8 (form .b32 (.p 1) (.s a) (if var = 1 then .none else .s b) 0 var) (Allow.pred.orNone) (.uni false) (if var = 1 then .unused else .uni false) none ok
    let busy := fw.updWave 2 0 fun w => { w with cmds := [{ pending 1 0 with pins := [⟨0, 0x200000, 1, 0, 1⟩] }] }
    let pinned := fun (c : Ctx) => c.st.groups.any (fun g => g.waves.any (fun w => w.cmds.any (fun k => !k.done && k.pins.any (fun p => p.vpage / p.span = 0))))
    [inv fw 0 (.s 0) (.s 2) .pair (.uni false) (fun c => c.firmware && !pinned c), inv busy 0 (.s 0) (.s 2) .pair (.uni false) (fun c => c.firmware && pinned c),
     inv fw 0 (.s 0) (.s 6) .pair (.uni false) (fun c => c.firmware && c.read 2 .n32 c.form.b 0 = 65536),
     inv fw 1 .none (.s 2) .unused (.uni false) (fun c => c.firmware), inv fw 2 .none .none .unused .unused (fun c => c.firmware && !pinned c),
     inv busy 2 .none .none .unused .unused (fun c => c.firmware && pinned c), inv demo 2 .none .none .unused .unused (fun c => !c.firmware),
     key fw 0 3 4 (fun c => c.firmware && c.st.keys.all (fun k => k.1 ≠ 5 && k.2 ≠ 9)), key fw 0 0 4 (fun c => c.firmware && c.st.keys.any (fun k => k.1 = 1)),
     key fw 0 1 4 (fun c => c.read 1 .n32 c.form.a 0 = 0), key fw 1 0 0 (fun c => c.firmware && c.st.keys.any (fun k => k = (1, 1))),
     key fw 1 3 0 (fun c => c.st.keys.all (fun k => k.1 ≠ 5)), key fw 1 1 0 (fun c => c.read 1 .n32 c.form.a 0 = 0),
     key demo 0 0 0 (fun c => !c.firmware), key demo 1 0 0 (fun c => !c.firmware)].all id = true := by decide +kernel

/-! Device events -/

/-- A queue of context 1 with a ring at 0x4000 and its control block at 0x320000, and with a packet at READ. -/
def ring : Queue := ⟨9, 1, 0x320000, 0x5000, 0x4000, 3, 0, some (0, true, 0), .idle, 0, [], none, none⟩
def queued (q : Queue) (pkt : Nat) (tail state : Nat := 1) : State :=
  let s : State := { demo with
    queues := [q]
    facets := demo.facets.map (fun f => { f with reserve := 2 ^ 30 }) }
  ((s.writeRaw 1 bootFrame (toBytes 64 pkt)).cbWrite q 16 8 tail).cbWrite q 32 1 state

/-- A launch record at 0x4100 with its completion record at 0x4200: one task, one group of 64 lanes. -/
def record : Nat := 0x4000 + 63 * 2 ^ 96 + 1 * 2 ^ 144 + (1 + 2 ^ 32 + 2 ^ 64) * (2 ^ 192 + 2 ^ 288 + 2 ^ 384)
  + (8 + 8 * 2 ^ 9) * (2 ^ 576 + 2 ^ 640) + 0x4200 * 2 ^ 832
def recorded : State := (queued ring (1 + 0x4100 * 2 ^ 64)).writeRaw 1 (bootFrame + 256) (toBytes 256 record)

/-- The conditions of `packetReady`, to be evaluated, with the packet. -/
def ready (s : State) (ty : Nat) (stage : QStage) : Bool :=
  (s.queue? 9).any (fun q => s.serving q = some 0 && q.stage = stage && (match s.packetAt q 0 with
    | .ok (_, h) => h.pkt % 256 = ty && onlyIn (packetFields ty) h.pkt
    | .error _ => false))

/-- Whether the keys of some addresses are found. -/
def keyed (s : State) (xs : List (Nat × Access)) : Bool :=
  match (s.fetchKeys 0 1 (xs.map (fun (a, x) => (BitVec.ofNat 64 a, x)))).1 with
  | .ok _ => true
  | .error _ => false

/-- R448: an 8-byte unit written over a packet is found whole or not at all, and a byte that no unit was written over stands as it is. -/
theorem test_rereadPacket_units : rereadPacket 2 (3 * 2 ^ 64 + 4) [⟨8, 8, 3⟩] [⟨8, 8, 3⟩] = 3 * 2 ^ 64 + 4
    ∧ rereadPacket 2 (3 * 2 ^ 64 + 4) [⟨8, 8, 3⟩] [] = 4 ∧ unitsOf 0x4006 8 4 = [(0x4006, 2), (0x4008, 4), (0x400C, 2)] := by decide +kernel

theorem witness_QueueEvents :
    let depend := 2 + 2 ^ 32 + 0x4040 * 2 ^ 64
    let unmapped := { ring with slot := none }
    let slots := fun (s : State) => { s with queues := s.queues ++ (List.range 16).map (fun i => { ring with
      id := 20 + i
      key := 0x310000 + 64 * i
      level := 3
      slot := some (0, decide (2 < i), 5 + i) }) }
    let crowded := slots (queued unmapped 4)
    let waits := fun (pkt : Nat) => { ring with
      stage := .depend
      held := some ⟨0, bootFrame, pkt, []⟩ }
    let again := fun (pkt ty : Nat) (ok : Nat → Bool) => ready (queued (waits depend) pkt) ty .depend && ok pkt
    let dirty := queued (waits depend) (2 + 2 ^ 31)
    let missed := fun (va : Nat) => { ring with missing := some (BitVec.ofNat 64 va) }
    [again 4 4 (fun x => x % 256 ≠ 2), again depend 2 (fun x => x = depend),
     (match dirty.packetAt (waits depend) 0 with
      | .ok (_, h) => h.pkt = 2 + 2 ^ 31 && h.pkt % 256 = 2 && !onlyIn (packetFields 2) h.pkt
      | .error _ => false),
     (queued (missed 0x4000) 4 1 2).present? 1 0x4000, !(queued (missed 0x10000) 4 1 2).present? 1 0x10000, ready (queued ring 4) 4 .idle, ready (queued ring (3 + 2 ^ 10 + 0x4080 * 2 ^ 64 + 5 * 2 ^ 128)) 3 .idle && keyed demo [(0x4080, .write)],
     ready (queued ring depend) 2 .idle && keyed demo [(0x4040, .read)], ready (queued (waits depend) depend) 2 .depend,
     (queued (waits depend) depend).host.boot ≠ 2 && ({ queued ring 4 with host := { demo.host with boot := 2 } } : State).host.boot = 2,
     (match (queued (waits depend) depend).packetAt (waits depend) 0 with
      | .ok (t, h) => h = ⟨t.qRead ring, bootFrame, depend, []⟩
      | .error _ => false),
     (match (queued { ring with held := some ⟨1, bootFrame, 4, []⟩ } depend).packetAt { ring with held := some ⟨1, bootFrame, 4, []⟩ } 0 with
      | .ok (t, h) => t.qRead ring ≠ 1 && h.pkt = depend
      | .error _ => false),
     ready recorded 1 .idle && keyed demo [(0x4100, .read), (0x4200, .write)] && (parseRecord record).ok record
       && (recorded.ctx? 1).any (fun c => !recorded.neverAdmissible c (parseRecord record)),
     (recorded.ctx? 1).any (fun c => (recorded.setFacet 0 (State.reset.facet 0)).neverAdmissible { c with plog2 := 0 } { parseRecord record with
       full := ⟨256, 384, 393472, 32⟩ }), (queued ring 5).serving ring = some 0, (queued ring 4 1 2).qState ring = 2,
     (queued ring 4).qTail ring = 1 && (queued ring 4).qRead ring + 2 ^ ring.log2size = 8,
     (queued unmapped 4).queueWaits unmapped && (queued unmapped 4).queueOn unmapped 0 && ((queued unmapped 4).facet 0).runs,
     (crowded.unmapVictim 0).any (fun q => q.id = 23) && crowded.queueWaits unmapped && (crowded.mapped 0).length = 16 && 0 < classMin 0,
     (queued ring 4 0).qRead ring = (queued ring 4 0).qTail ring,
     ({ demo with edges := 10000 }).edges = ring.idleFrom + 10000,
     (demo.ctx? 1).any (fun c => (match walk demo c 0x4000 4 c.root with
       | .ok (e, level) => isLocal (leafBase 0x4000 e level)
       | .error _ => false) && !c.ending) && 3 ≤ field (demo.readNum 1 (bootFrame + 64) 9 + 3 * 2 ^ 64) 64 5].all id = true := by decide +kernel

/-- The launch of `bootLaunch` waiting at its queue, and accepted with one task. -/
def oneTask : Task := ⟨0, 0, 0, 1, 1, 1, 0, [0], none⟩
def presented (f : Launch → Launch) : State :=
  let s := recorded.updLaunch 1 (fun l => f { l with
    queue := 9
    stat := .presented
    tasks := [oneTask] })
  { s with
    queues := [{ ring with stage := .presented 1 }]
    groups := [] }
def accepted (f : Launch → Launch) : State := presented (fun l => f { l with
  stat := .accepted
  recd := { l.recd with pclass := 2 } })

/-- A group whose wave has given a copy-engine request to a link port that is down (R213, R431). -/
def linkDown : State := withCmd { pending 1 0 with
  posted := true
  via := [(3, 7)] }

theorem witness_LaunchEvents :
    let l := fun (s : State) (ok : Launch → Bool) => (s.launch? 1).any ok
    let g := fun (s : State) (ok : Group → Bool) => (s.group? 2).any ok
    let up := (lowered.updGroup 2 fun g => { g with acq := [(1, 13#4)] })
    let down := raised.updWave 2 0 fun w => { w with rel := 15 }
    let fault : PendingFault := ⟨1, codeOperand, 0x4000, 1, 0, 0, 0, 0⟩
    let failed := { demo with faults := [fault] }
    let keeps := fun (s : State) (t : Option State) => t.any (fun x => !s.spoils x)
    let stripped := fun (t : State) => t.updLaunch 1 fun x => { x with
      tasks := []
      headFrom := t.edges }
    [l (presented id) (fun x => x.stat = .presented && x.recd.pclass = 1), (presented id).serving { ring with stage := .presented 1 } = some 0,
     l (presented fun x => { x with recd := { x.recd with pclass := 0 } }) (fun x => x.bits = 0 && (presented id).turnOf x 0),
     keeps (presented id) ((State.placeEach 1 (presented id) [oneTask] [(0, [0])]).map (fun v => v.updLaunch 1 fun x => { x with tasks := [] })),
     l (accepted id) (fun x => keeps (accepted id) (((accepted id).placeTask x oneTask 0 [0]).map stripped)),
     g up (fun x => (x.acq.find? (fun y => up.acqFits x y.1 y.2)).any (fun y => !up.spoils (up.grant 2 y.2))),
     l (accepted id) (fun x => x.tasks = [oneTask] && (accepted id).turnOf x 0 && !(accepted id).savedBefore x [0]
       && ((accepted id).placeTask x oneTask 0 [0]).isSome),
     l (accepted fun x => { x with bits := 1 }) (fun x => x.bits.getLsbD 0 && x.tasks = [oneTask]),
     g up (fun x => (x.acq.find? (fun y => up.acqFits x y.1 y.2)).isSome), g down (fun x => x.lowerable ≠ 0),
     l (divisible.updLaunch 1 fun x => { x with recd := { x.recd with allow := 5 } }) (fun x => x.recd.allow = 5)
       && g (divisible.updGroup 2 fun g => { g with resident := 5 }) (fun x => !x.liveWaves.isEmpty && x.div && 5 ≤ x.resident),
     g (demoWave fun w => { w with
       exited := w.present
       paths := [] }) (fun x => x.retires),
     l (accepted fun x => { x with tasks := [] }) (fun x => x.stat = .accepted && x.tasks.isEmpty) && (match ((accepted id).translate 0 9 1 .write 0x4200).1 with
       | .ok _ => true
       | .error _ => false), l (demoLaunch fun x => { x with cancelKey := some 0x200400 }) (fun x => x.cancelKey = some 0x200400)
       && (demo.toFlip 0x200400 8).isEmpty && ({ demo with host := { demo.host with boot := 2 } } : State).host.boot = 2,
     (linkDown.launchOut 1), !failed.launchOut 1, firstFault failed.faults = some fault && l failed (fun _ => true)].all id = true := by decide +kernel

/-- The translation of the page at 0x4000. -/
def bootPin : Pin := ⟨4, bootFrame, 1, 0, 1⟩

/-- R182: 128 bytes to shared memory from 0xFC0 on are two chunks, cut at 0x1000. -/
theorem test_chunks : (Effect.bulkIn { va := 0x5010, loc := 0xFC0, len := 128, rows := 1, vstr := 0, lstr := 0 } false).pieces
    = [.bulkIn ⟨0x5010, 0xFC0, 64, 1, 0, 0⟩ false, .bulkIn ⟨0x5050, 0x1000, 64, 1, 0, 0⟩ false] := by decide +kernel

theorem witness_WaveEvents :
    let atom : Cmd := { pending 3 0 with
      effect := .atomic 0 .n32 .none [⟨0, 0x4080, 1, 0⟩]
      pins := [bootPin] }
    let copy : Cmd := { pending 1 0 with
      effect := .bulkIn { va := 0x4000, loc := 0, len := 64, rows := 1, vstr := 0, lstr := 0 } false
      pins := [bootPin] }
    let may := fun (c : Cmd) => ((withCmd c).group? 2).any (fun g => (g.wave? 0).any (fun w => (withCmd c).mayPerform g w c && ((withCmd c).consumes g w c).isNone
      && ((withCmd c).portsOf c).isEmpty && !(withCmd c).engineClosed g c && (w.cmd? c.cls c.seq) = some c && (pinned c.pins 0x4000).isSome))
    let two : Cmd := { atom with
      effect := .atomic 0 .n32 .none [⟨0, 0x4080, 1, 0⟩, ⟨1, 0x4084, 1, 0⟩]
      begun := true }
    let away := { atom with pins := [⟨4, 3 * 2 ^ 50, 1, 0, 1⟩] }
    let routed := { withCmd away with fabric := [(3, 7)] }
    let call := { pending 6 0 with effect := .call (.snew 0) }
    let shut := (withCmd call).updFacet 0 fun f => { f with closed := true }
    let tired := demoWave fun w => { w with
      fair := 4096
      paths := w.paths ++ w.paths.map (fun p => { p with id := 5 }) }
    let timed := holder.setFacet 0 { holder.facet 0 with ref := 9 }
    let falling := { pending 5 0 0 .landing with late := [(64, 7)] }
    let sent := { away with
      posted := true
      via := [(3, 7)] }
    [((withCmd falling).group? 2).any (fun g => (g.wave? 0).any (fun w => w.cmd? 5 0 = some falling && !falling.posted && g.works 5
       && !(withCmd falling).engineClosed g falling)),
     ((withCmd sent).group? 2).any (fun g => (g.wave? 0).any (fun w => w.cmd? 3 0 = some sent && !sent.done)
       && sent.via.any (fun x => ((withCmd sent).port x.2).state = 0)),
     may atom, may copy, may two && (two.effect.pieces.drop two.sent).length = 2 && two.effect.pieces.all (fun e => e.words.length ≤ 1
       && (({ two with effect := e } : Cmd).mainKeys).all (fun x => (withCmd two).reaches 0 two x.1)),
     may { atom with lost := true } && !(atom.mainKeys.isEmpty), atom.mainKeys.all (fun x => (withCmd atom).reaches 0 atom x.1),
     (routed.group? 2).any (fun g => (g.wave? 0).any (fun w => routed.mayPerform g w away && !routed.engineClosed g away && !away.posted))
       && (routed.portsOf away).any (fun p => (routed.port p).state ≠ 2),
     (shut.group? 2).any (fun g => (g.wave? 0).any (fun w => w.cmd? 6 0 = some call && !call.done && shut.engineClosed g call)),
     (tired.group? 2).any (fun g => (g.wave? 0).any (fun w => w.run = none && 4096 ≤ w.fair && w.readyPaths.any (fun p => p.id ≠ w.last))),
     ((demoWave fun w => { w with park := .sleep 0 }).group? 2).any (fun g => g.stat = .resident && (g.wave? 0).any (fun w => w.park = .sleep 0)),
     (timed.objAt 0 4).any (fun o => o.kind = .timer 0 true false)].all id = true := by decide +kernel

/-- A group whose wave waits for the firmware with a page request, and one that is saved. -/
def waiting : State := demoWave fun w => { w with frames := [{ frame codePage with esc := true }] }
def withStat (stat : GStat) : State := demoGroup fun g => { g with
  stat := stat
  free := some ⟨0, 5, 0, 0⟩
  launch := none }
def stopped : State := asked.updWave 2 0 fun w => { w with park := .stopped }
/-- The group saved, with no slot held. -/
def saved : State := demo.saveGroup 2 .saved true

theorem witness_SaveEvents :
    let token := escToken 2 0 2
    let g := fun (s : State) (ok : Group → Bool) => (s.group? 2).any ok
    let benched := (withStat .benched).updFacet 0 (fun f => { f with bench := [(5, 2)] })
    let urgent := (accepted fun l => { l with level := 0 })
    let parked := ((withStat .resident).updWave 2 0 fun w => { w with park := .wwait 0 (.s 0) 1 }).updFacet 0 fun f => { f with ref := 2000000 }
    let room := fun (s : State) (yes : Bool) => (s.waitingFrame token).any (fun (gid, wid, f) =>
      (s.group? gid).any (fun g => g.holdsSlots && !s.ending g && (g.wave? wid).any (fun w => s.mayResubmit g w f = yes)))
    let reported := waiting.updWave 2 0 fun w => { w with
      frames := w.frames.map (fun f => { f with cmd := some (1, 3) })
      cmds := (List.range 256).map (fun i => pending 1 i) }
    [room waiting true, room reported false, g linkDown (fun x => linkDown.copyOut x), g stopped (fun x => !stopped.copyOut x),
     g parked (fun x => !parked.copyOut x), ((saved.seatAll ((saved.group? 2).elim [] saved.together) [(1, [3])]).any (fun t => !saved.spoils t)),
     (benched.seat 2 0 [4]).any (fun t => !benched.spoils (t.updFacet 0 (fun f => { f with bench := [] }))),
     (waiting.waitingFrame token).isSome && g waiting Group.holdsSlots, (demo.waitingFrame token).isNone,
     (waiting.updGroup 2 fun x => { x with stat := .saved }).waitingFrame token |>.isSome,
     g (waiting.updGroup 2 fun x => { x with stat := .saved }) (fun x => !x.holdsSlots),
     preemptClean 0 && g demo (fun x => x.stat = .resident && x.preempt.isNone && x.waves.any (fun w => w.core = 0 && w.slot = 0)), !preemptClean 64,
     g asked (fun x => x.preempt.any (fun p => p.deadline = 5)),
     (({ urgent with edges := 1000 }.updFacet 0 fun f => { f with cores := 0 }).overdue 1 0) = some 0,
     g (demoGroup fun x => { x with preempt := some ⟨0, false⟩ }) (fun x => x.preempt.isSome && x.stat = .resident),
     g stopped (fun x => (stopped.together x).all Group.stopped), g stopped (fun x => !stopped.cancelled x && !stopped.allowDue x && stopped.nextSaved [x] x),
     g (cancelled stopped) (fun x => (cancelled stopped).cancelled x),
     g saved (fun x => ((saved.together x).zip [(1, [3])]).all (fun y => saved.mayRestore y.1 y.2.1) && (saved.seatAll (saved.together x) [(1, [3])]).isSome),
     (saved.seat 2 1 [3]).isSome && g saved (fun x => x.savedMat.isEmpty && x.answers.isEmpty && x.waves.all (fun w => w.cmds.isEmpty)),
     (benched.benchHead 0).any (fun x => x.2.stat = .benched && x.2.facet = 0) && (benched.seat 2 0 [4]).isSome,
     g parked (fun x => x.eligible && x.parkedAt + 1000000 ≤ (parked.facet x.facet).ref.toNat && parked.benchRoom x.facet
       && parked.nextAt x.facet parked.tick [x]),
     ((faulted waiting).waitingFrame token).isSome && g (faulted waiting) (fun x => x.holdsSlots && (faulted waiting).ending x),
     g demo (fun x => !x.stopped),
     g (withStat .stoodDown) (fun x => x.free.isSome && x.stat = .stoodDown && x.waves.all Wave.woken)].all id = true := by decide +kernel

/-- A router with an entry and a copy of one key. -/
def tileKey : TileKey := ⟨0, 1, 256⟩
def shelved : State := State.reset.updRouter 3 (fun r => { r with shelf := [⟨tileKey, [], true, 0, []⟩] })
def wanted : State := State.reset.updRouter 3 (fun r => { r with entries := [⟨tileKey, [⟨.face 5, 0, false, 9⟩], some (6, 9)⟩] })

theorem witness_MemoryAndNetworkEvents :
    let busy : State := { demo with migPass := [(bootFrame / 4096 * 4, 6)] }
    let net := fun (s : State) (r face : Nat) (b : NetBody) => { s with net := [⟨r, face, b⟩] }
    [((demo.writeRaw 1 (bootRoot + 0x21000 + 8 * 4) (toBytes 8 (2 ^ 63 + 2 ^ 62 + 2 ^ 49 + bootFrame + 2 ^ 8 + 2 ^ 9))).ctx? 1).any (fun c =>
       match walk (demo.writeRaw 1 (bootRoot + 0x21000 + 8 * 4) (toBytes 8 (2 ^ 63 + 2 ^ 62 + 2 ^ 49 + bootFrame + 2 ^ 8 + 2 ^ 9))) c 0x4000 4 c.root with
       | .ok (e, _) => e / 2 ^ 60 % 4 = 0 && e / 2 ^ 48 % 4 = 2 && look 0 busy.migPass (bootFrame / 4096 * 4 + e / 2 ^ 10 % 4) = 5 + 1
       | .error _ => false),
     ({ demo with host := { demo.host with boot := 2 } } : State).host.boot = 2, demo.host.boot ≠ 2 && demo.hostAddress 0x2000 < 2 ^ 48,
     homeFacet bootFrame ≠ 5 && homeFacet (5 * 2 ^ 34) = 5 && !(demo.pinnedBy 1 0x4000), demo.hostAddress 0x2000 + 8 ≤ 2 ^ 40,
     (({ demo with devBias := [2] } : State).devBias.contains 2) && !(demo.pageBusy 2),
     (net demo 3 5 (.interest tileKey 9)).net[0]?.isSome && (demo.router 3).entries.isEmpty && (demo.faceFor 3 tileKey).isNone,
     (wanted.router 3).shelf.isEmpty && (wanted.router 3).entries.any (fun e => e.key = tileKey && e.recs.any (fun y => y.who = .face 5)),
     (shelved.router 3).shelf.any (fun c => c.key = tileKey) && (faceLink 3 6).isSome && (facePort 3 6).isNone,
     look 0 (demo.countMig 5 2 (bootFrame / 4096) bootFrame).migCount (bootFrame / 4096) = 1,
     (net demo 3 5 (.tile tileKey [] 0 false)).net[0]?.isSome && !(demo.router 3).closed
       && ((demo.updRouter 3 fun r => { r with closed := true }).router 3).closed, (wanted.router 3).entries.any (fun e => e.key = tileKey && e.fwd.any (fun y => y.1 = 6))].all
    id = true := by decide +kernel

/-- A machine with a port in a state, and flits of its own in its replay buffer. -/
def linked (state : Nat) (replay : List Sent := []) : State := State.reset.updPort 7 (fun p => { p with
  state := state
  replay := replay })

/-- A flit under the key 0 with the first word of its trailer, and its CRC made wrong by an exclusive or. -/
def flit (h wrong : Nat) : Flit :=
  let head := List.replicate 240 (0 : Byte) ++ toBytes 4 h
  let body := head ++ toBytes 8 (Config.linkTag 0 head).toNat
  ⟨body ++ toBytes 4 ((crc32 body).toNat ^^^ wrong), none, 2⟩

theorem witness_flit_trailer (h wrong : Nat) (hh : h < 2 ^ 32) (hw : wrong < 2 ^ 32) : ∃ tag crc : Nat, tag < 2 ^ 64 ∧ crc < 2 ^ 32
    ∧ flitTrailer (flit h wrong) = h + 2 ^ 32 * tag + 2 ^ 96 * (crc ^^^ wrong)
    ∧ tag = (Config.linkTag 0 ((flit h wrong).bytes.take 244)).toNat ∧ crc = (crc32 ((flit h wrong).bytes.take 252)).toNat := by
  let head := List.replicate 240 (0 : Byte) ++ toBytes 4 h
  let body := head ++ toBytes 8 (Config.linkTag 0 head).toNat
  have e : (flit h wrong).bytes = body ++ toBytes 4 ((crc32 body).toNat ^^^ wrong) := rfl
  have lh : head.length = 244 := by simp only [head, List.length_append, List.length_replicate, length_toBytes]
  have lb : body.length = 252 := by simp only [body, List.length_append, length_toBytes, lh]
  have e2 : (flit h wrong).bytes.take 252 = body := by rw [e, List.take_left' lb]
  have e1 : (flit h wrong).bytes.take 244 = head := by
    rw [e, List.append_assoc, List.take_left' lh]
  have e0 : (flit h wrong).bytes.drop 240
      = toBytes 4 h ++ (toBytes 8 (Config.linkTag 0 head).toNat ++ toBytes 4 ((crc32 body).toNat ^^^ wrong)) := by
    rw [e]; simp only [body, head, List.append_assoc]; exact List.drop_left' List.length_replicate
  refine ⟨_, _, BitVec.isLt _, BitVec.isLt _, ?_, rfl, rfl⟩
  rw [e1, e2, flitTrailer, e0, ofBytes_append, ofBytes_append, ofBytes_toBytes, ofBytes_toBytes, ofBytes_toBytes, length_toBytes, length_toBytes]
  have a := (Config.linkTag 0 head).isLt
  have b : ((crc32 body).toNat ^^^ wrong) < 2 ^ 32 := Nat.xor_lt_two_pow (BitVec.isLt _) hw
  rw [Nat.mod_eq_of_lt (by simpa using hh), Nat.mod_eq_of_lt (by simpa using a), Nat.mod_eq_of_lt (by simpa using b)]
  omega

/-- The fields of the first word: VC, KIND, ACK and SEQ. -/
theorem witness_flit_fields (h w : Nat) (hh : h < 2 ^ 32) (hw : w < 2 ^ 32) : flitVc (flit h w) = h / 2 ^ 2 % 4
    ∧ flitKind (flit h w) = h / 2 ^ 4 % 16 ∧ flitAck (flit h w) = h / 2 ^ 8 % 2 ^ 12 ∧ flitSeq (flit h w) = h / 2 ^ 20 := by
  obtain ⟨t, c, ht, hc, e, et, ec⟩ := witness_flit_trailer h w hh hw
  simp only [flitVc, flitKind, flitAck, flitSeq, field, e]
  omega
theorem witness_flit_good (h w : Nat) (hh : h < 2 ^ 32) (hw : w < 2 ^ 32) : flitGood (flit h w) 0 = true ↔ w = 0 := by
  obtain ⟨t, c, ht, hc, e, et, ec⟩ := witness_flit_trailer h w hh hw
  have b : c ^^^ w < 2 ^ 32 := Nat.xor_lt_two_pow hc hw
  simp only [flitGood, field, e, ← et, ← ec, Bool.and_eq_true, decide_eq_true_eq]
  have z : c ^^^ w = c ↔ w = 0 := by
    constructor
    · intro h
      have := congrArg (c ^^^ ·) h
      simpa [← Nat.xor_assoc] using this
    · rintro rfl
      simp
  rw [← z]
  omega

/-- The first words that the clauses name: a data flit of VC 2 and one of VC 0, an ACK of SEQ 4, a replay request and a retirement. -/
theorem witness_flit_words : [0x18, 0x10, 0x420, 0x30, 0x40].map (fun h : Nat => (h / 2 ^ 2 % 4, h / 2 ^ 4 % 16, h / 2 ^ 8 % 2 ^ 12, h / 2 ^ 20)) =
    [(2, 1, 0, 0), (0, 1, 0, 0), (0, 2, 4, 0), (0, 3, 0, 0), (0, 4, 0, 0)] ∧ (flit 0x30 0).names = 2 ∧ (flit 0x30 0).msg = none := by
  decide +kernel

theorem witness_LinkAndThermalEvents :
    [(((linked 2).port 7).state = 2 && ((linked 2).port 7).expected = 0 : Bool), ((linked 2 [⟨4, 0, 0, 2, none, 0, []⟩, ⟨2, 2, 0, 2, none, 0, []⟩]).port 7).replay = [⟨4, 0, 0, 2, none, 0, []⟩] ++ ⟨2, 2, 0, 2, none, 0, []⟩ :: [],
     (linked 2 [⟨4, 0, 0, 2, none, 0, []⟩]).portRef 7 = 0,
     ((linked 2).port 7).key = 0, (({ linked 0 with host := { State.reset.host with boot := 2 } } : State)).host.boot = 2,
     (((linked 2 [⟨4, 0, 0, 2, none, 0, []⟩]).updRouter (portRouter 7) (fun r => { r with ref := 1000 })).portRef 7) = 1000,
     ((linked 1).port 7).state = 1 && (linkConfig 15 15 7 7).isSome && (linkConfig 1 2 7 7).isNone, ((linked 0).port 7).retryAt.toNat ≤ 0,
     ((State.reset.updRouter 3 (fun r => { r with ref := 360000000000 })).router 3).hour < 360000000000 / 360000000000,
     ((State.reset.port 7).state ≠ 3 : Bool), routeOk 0 ⟨7, 0x10000000, 4, 5⟩ && (facePort 0 5).isNone && State.reset.host.fwNext.isNone,
     (State.reset.facet 3).powered, ((State.reset.updFacet 3 fun f => { f with
       stepping := [1]
       ref := 10000 }).facet 3).stepping ≠ []].all id = true := by decide +kernel

/-- A trained host port with the command arguments and more changed. -/
def hosted (args : List DWord) (f : HostRegs → HostRegs := id) : State := { demo with host := f { demo.host with
  args := args
  boot := 2 } }

theorem witness_HostAndContextEvents :
    let idle := fun (s : State) => s.host.boot = 2 && !s.host.busy && !s.host.draining && s.host.therm ≠ 3
    let bare := { State.reset with host := { State.reset.host with boot := 2 } }
    let ends := fun (s : State) => { s with ctxs := [{ bootCtx with ending := true }] }
    let mine := fun (s : State) => s.groups.filter (fun g => g.ctx = 1 && g.launch.isSome)
    let lent := (ends (withCmd { pending 1 0 with pins := [bootPin] })).updGroup 2 fun g => { g with
      ctx := 7
      launch := none }
    let left := demoWave fun w => { w with
      exited := w.present
      paths := [] }
    let busy := (ends (withCmd (pending 1 0))).updGroup 2 fun g => { g with
      launch := none
      stat := .exited }
    let pins := fun (s : State) => (({ s with launches := [] } : State).emptyContext { bootCtx with ending := true }).pinsLeft (fun _ p => p.owner = 1)
    [demo.launches.all (fun l => !demo.launchOut l.id) && demo.ctxs.all (fun c => !c.ending) && (mine demo).all (fun g =>
       !g.leaving && demo.launches.any (fun l => l.ctx = 1 && g.launch = some l.id)), linkDown.launches.any (fun l => l.ctx = 1 && linkDown.launchOut l.id),
     left.groups.all Group.leaving && !(mine left).isEmpty, !(mine (ends demo)).isEmpty,
     busy.groups.all (fun g => g.ctx ≠ 1 || g.launch.isNone && g.stat = .exited)
       && busy.groups.any (fun g => g.ctx = 1 && g.waves.any (fun w => w.cmds.any (fun k => !k.done))), (mine lent).isEmpty && pins lent,
     !(pins (ends { demo with groups := [] })), bare.host.boot = 2,
     (demo.host.boot ≠ 2 : Bool), (State.reset.host.boot ≠ 0 : Bool), ({ demo with host := { demo.host with boot := 0 } } : State).host.boot = 0, (hosted []).host.boot = 2,
     linkDown.groups.length = 1 && linkDown.groups.all (fun g => g.stat = .resident && !g.firmware && g.facet < 64 && !g.leaving && linkDown.engineOut g),
     (hosted [0, 0, 0, 0] fun h => { h with busy := true }).host.busy, (hosted [] fun h => { h with draining := true }).host.draining,
     (hosted [] fun h => { h with therm := 3 }).host.therm = 3, idle (hosted []), (hosted demo.host.args).host.args.length = 4,
     (queued ring 4 1 3).qState ring = 3 && ring.va.toNat = 0x5000, !(demo.pageBusy 0x400) && idle (hosted [0x400000, 1, 0, 0]),
     demo.host.fwMin ≤ 3 && demo.host.fwVersion ≤ 3, idle (hosted [0x400000, 64, 0, 0]), !demo.owesIssue,
     ({ demo with ctxs := [{ bootCtx with ending := true }] } : State).pinsLeft (fun _ p => p.owner = 1) = false, (hosted [] fun h => { h with fwNext := some 3 }).host.fwNext = some 3,
     (hosted [0, 1, 0, 0]).host.args.length = 4, (hosted [] fun h => { h with
       draining := true
       busy := true }).host.draining, (demo.ctx? 1).isSome && demo.facets.length ≤ 64,
     bare.ctxs.isEmpty && bare.parts.isEmpty && (List.range 64).all (fun f => (bare.facet f).part.isNone) && bare.host.fwNext.isNone,
     ctxOwns bootCtx (homeFacet bootCtx.root) && bootCtx.nspace.toNat / 2 ^ 22 = bare.peerId && bootCtx.nspace.toNat % 2 ^ 22 ≠ 0x3FFFFF && bootCtx.area % 64 = 0 && bootCtx.area < 2 ^ 40,
     ({ bare with parts := [(0, 6)] } : State).parts.contains (bootCtx.pbase, bootCtx.plog2),
     ({ demo with
        launches := []
        groups := [] } : State).descOf 1 = some bootCtx && demo.ctxs.all (fun x => x.num = 1)].all id = true := by decide +kernel

/-! The machine as a whole -/

theorem witness_IssueRules : ((demo.context (form .b32 .none .none .none)).any (fun c => c.act ≠ 0 && c.wave.fresh.isEmpty)
    && (demo.context { form .b32 .none .none .none with guard := ⟨false, 1#3⟩ }).any (fun c => c.act = 0)
    && (({ demo with cur := none } : State).context (form .b32 .none .none .none)).isNone
    && isEvent .referenceClockEdge && (wordOf (.nop (form .b32 .none .none .none))).isSome) = true := by decide +kernel

/-- The machine that `State.withFetchWord` makes of reset, before its step, with a word that decodes and one that does not. -/
theorem witness_StepRunsDecoded :
    let s := State.reset.withFetchWord 96 0x0000E00E00E0070000000000
    let s' := { s with
      tick := s.tick + 1
      agenda := [] }
    s.agenda = [.issue 2 0] ∧ (match s'.fetchTurn 2 0 with
      | .ok (_, x) => decide (decodeWord x = .ok (.nop (form .b32 .none .none .none)))
      | .error _ => false) = true
    ∧ decodeWord 0x1600E00E00E0070000000000#96 ≠ .ok (.nop (form .b32 .none .none .none))
    ∧ s.icache = [] ∧ s.bad = [] ∧ isEvent .referenceClockEdge = true := by decide +kernel

theorem witness_DecodeEncodeRoundTrip : wellFormed (.nop (form .b32 .none .none .none)) = true
    ∧ encodeWord (.nop (form .b32 .none .none .none)) = some 0x0000E00E00E0070000000000#96 := by decide +kernel

/-- The step of `test_first_step` keeps the package whole, and has a next state. -/
theorem witness_StepKeepsWhole : State.reset.whole = true ∧ (match step (State.reset.withFetchWord 96 0x0000E00E00E0070000000000) with
    | .next t => t.whole
    | _ => false) = true := by decide +kernel

/-! ### Worked values of the spec, one step each -/

/-- What a form leaves in s2, from two values in s0 and s1. -/
def onS (i : Form → Instr) (ty : Ty) (x y : Nat) (var : Nat := 0) (imm : Nat := 0) : Option Nat :=
  sAfter (i (form ty (.s 2) (.s 0) (.s 1) imm var)) (withS [(0, x), (1, y)]) 2
/-- What a form of one source leaves in s2. -/
def onS1 (i : Form → Instr) (ty : Ty) (x : Nat) (var : Nat := 0) (imm : Nat := 0) : Option Nat :=
  sAfter (i (form ty (.s 2) (.s 0) .none imm var)) (withS [(0, x)]) 2

/-- The table of R103. -/
theorem test_idiv : [onS .idiv .s32 7 0xFFFFFFFE, onS .idiv .s32 0xFFFFFFF9 2, onS .idiv .s32 5 0, onS .idiv .s32 0x80000000 0xFFFFFFFF,
    onS .idiv .n32 7 0] = [some 0xFFFFFFFD, some 0xFFFFFFFD, some 0xFFFFFFFF, some 0x80000000, some 0xFFFFFFFF] := by decide +kernel
theorem test_irem : [onS .irem .s32 7 0xFFFFFFFE, onS .irem .s32 0xFFFFFFF9 2, onS .irem .s32 5 0, onS .irem .s32 0x80000000 0xFFFFFFFF,
    onS .irem .n32 7 0] = [some 1, some 0xFFFFFFFF, some 5, some 0, some 7] := by decide +kernel
/-- R103: IABS of the most negative number, wrapping and saturating. -/
theorem test_iabs : [onS1 .iabs .s32 0x80000000, onS1 .iabs .s32 0x80000000 1] = [some 0x80000000, some 0x7FFFFFFF] := by decide +kernel
/-- R110's neighbours: the truth tables of R111 that the spec lists, on D = 0b1010_1010, A = 0b1100_1100, B = 0b1111_0000. -/
theorem test_lop3 : [0xF0, 0xAA, 0xCC, 0x96, 0x80, 0xFE].map (fun t =>
    sAfter (.lop3 (form .b32 (.s 2) (.s 0) (.s 1) t)) (withS [(0, 0xCC), (1, 0xF0), (2, 0xAA)]) 2) =
    [some 0xAA, some 0xCC, some 0xF0, some 0x96, some 0x80, some 0xFE] := by decide +kernel
/-- R112: an amount of the width or more. -/
theorem test_shifts : [onS .shl .b32 0x80000001 32, onS .shr .b32 0x80000001 32, onS .shra .s32 0x80000001 32, onS .shra .s32 0x40000001 99] =
    [some 0, some 0, some 0xFFFFFFFF, some 0] := by decide +kernel
/-- The table under R122: A with its byte order reversed. -/
theorem test_prmt : sAfter (.prmt (form .b32 (.s 2) (.s 0) (.s 1) (third (.s 3)))) (withS [(0, 0x11223344), (3, 0x53)]) 2 = some 0x44332211 := by
  decide +kernel
/-- The table of R125. -/
theorem test_fmin : ([(0x80000000, 0, 0), (0x7FC00001, 0x40400000, 0), (0x7FC00001, 0x40400000, 1), (0xFF800001, 0x7FC00001, 0),
    (0xFF800000, 1, 0)].map (fun (x, y, var) => onS .fmin .f32 x y var)) =
    [some 0x80000000, some 0x40400000, some 0x7FC00000, some 0x7FC00000, some 0xFF800000] := by decide +kernel
theorem test_fmax : ([(0x80000000, 0, 0), (0x7FC00001, 0x40400000, 0), (0x7FC00001, 0x40400000, 1), (0xFF800001, 0x7FC00001, 1),
    (0xFF800000, 1, 0)].map (fun (x, y, var) => onS .fmax .f32 x y var)) =
    [some 0, some 0x40400000, some 0x7FC00000, some 0x7FC00000, some 1] := by decide +kernel
/-- Under R128: FRCP of 2^-149 in each rounding mode. -/
theorem test_frcp : [0, 1, 2, 3].map (fun var => onS1 .frcp .f32 1 var) =
    [(0, 0x7F800000), (1, 0x7F7FFFFF), (2, 0x7F800000), (3, 0x7F7FFFFF)].map (fun x => some x.2) := by decide +kernel
/-- The worked conversions under R82. -/
theorem test_conversions : [(0x3F808000, Fmt.bf16, Rnd.rn, false), (0x3F808000, .bf16, .ru, false), (0x43960000, .f8e4, .rn, false),
    (0x43FA0000, .f8e4, .rn, false), (0x43FA0000, .f8e4, .rn, true), (0x43FA0000, .f8e5, .rn, false), (0x3A800000, .f8e4, .rn, false),
    (0x3A800000, .f8e4, .ru, false), (0x477FF000, .f16, .rn, false), (0x477FF000, .f16, .rz, false)].map
    (fun (x, f, m, sat) => roundF (dec .f32 x) f m sat) = [0x3F80, 0x3F81, 0x79, 0x7F, 0x7E, 0x60, 0, 1, 0x7C00, 0x7BFF] := by decide +kernel
/-- The worked example of R89 and R138. -/
theorem test_qblk : qblk (([0x40A00000, 0xBFC00000, 0x3F400000, 0x41600000] ++ List.replicate 28 0).map (dec .f32)) true =
    [0xA4, 0x81] ++ List.replicate 14 0 ++ [0x80, 0x4E] := by decide +kernel
theorem test_dqblk : [0, 1, 2, 3, 4, 31].map (fun i => roundF (f4xDecode ([0xA4, 0x81] ++ List.replicate 14 0 ++ [0x80, 0x4E]) i true) .f32 .rn false) =
    [0x40800000, 0xC0000000, 0x3F800000, 0x41600000, 0, 0] := by decide +kernel
/-- The worked example "one rounding per element" (R94, R156). -/
theorem test_mma_sum : dotRound [(dec .f16 0x7800, dec .f16 0x6400), (dec .f16 0xF800, dec .f16 0x6400), (dec .f16 0x1400, dec .f16 0x1400)]
    (dec .f32 0x3F800000) .rn = 0x3F800008 := by decide +kernel
theorem test_mma_zero : dotRound [(dec .f16 0x7800, dec .f16 0), (dec .f16 0xF800, dec .f16 0)] (dec .f32 0) .rn = 0 := by decide +kernel
/-- "Lane sum": a butterfly XOR shuffle of LANE_ID by 32, as lane 5 sees it. -/
theorem test_shfl : ((after (.shfl (form .b32 (.v 1) (.v 0) (.imm 32#9) 0 3))
    (demoWave fun w => w.setV 0 (BitVec.allOnes 64) (fun l => BitVec.ofNat 32 l))).map (fun w => ((w.v? 1 5).toNat, (w.v? 1 63).toNat))) =
    some (37, 31) := by decide +kernel
/-- The example of a divergent branch: VOTE.BAL of p1 = lanes 0 to 15. -/
theorem test_vote : ((after (.vote (form .b32 (.s 2) (.p 1) .none 0 3)) (demoWave fun w => w.setP 1 0xFFFF#64 (fun _ => true))).map
    (fun w => ((w.s? 2).toNat, (w.s? 3).toNat))) = some (0xFFFF, 0) := by decide +kernel
/-- The same example: ?p1 BRA by 2 words at PC 0x4018 with priority 300. -/
theorem test_bra : ((after (.bra ⟨0#4, .b32, .none, .none, .none, ⟨false, 1#3⟩, clear, 0x12C00002#32⟩) (demoWave fun w =>
    let w := w.setP 1 0xFFFF#64 (fun _ => true)
    { w with paths := w.paths.map (fun p => { p with
      pc := 0x4018
      prio := 100 }) })).map
    (fun w => w.paths.map (fun p => (p.pc.toNat, p.prio.toNat, p.mask.toNat)))).any (fun ps => ps.length = 2
      && ps.contains (0x403C, 300, 0xFFFF) && ps.contains (0x4024, 100, 0xFFFFFFFFFFFF0000)) = true := by decide +kernel
/-- The example "a trap, then a cooperative save". -/
theorem test_trap : ((after (.trap ⟨0#4, .b32, .none, .none, .none, ⟨false, 1#3⟩, clear, 0x42#32⟩) (demoWave fun w =>
    let w := w.setP 1 0xFF00#64 (fun _ => true)
    { w with
      trapVec := 0x4800
      paths := w.paths.map (fun p => { p with
        pc := 0x4120
        prio := 100 }) })).map
    (fun w => (w.frames.map (fun f => (f.info.toNat, f.pc.toNat, f.rpc.toNat, f.mask.toNat)),
      w.paths.map (fun p => (p.pc.toNat, p.prio.toNat, p.mask.toNat))))).any (fun x => x.1 = [(0x42, 0x4120, 0x412C, 0xFF00)]
      && x.2.length = 2 && x.2.contains (0x4800, 100, 0xFF00) && x.2.contains (0x412C, 100, 0xFFFFFFFFFFFF00FF)) = true := by decide +kernel
/-- The first row of the example under R222: lane 0 stores, and lane 1 of the same sector does not. -/
theorem test_scs : ((after (.scs (form .b32 (.p 1) (.v 1) (.v 3))) (demoWave fun w =>
    { w with
      v := (w.setV 1 3 (fun _ => 0x100)).v
      resvS := [(0, 5), (1, 5)]
      paths := w.paths.map (fun p => { p with mask := 3 }) })).map (fun w => ((w.p? 1).toNat % 4, w.resvS))) = some (1, []) := by decide +kernel
/-- The table under R287: a domain of 8 by 4 with halves of at least 2. -/
theorem test_splits : let r := { bootRec with min := (2, 1, 1) }
    (({ wholeBox with ox := 0, oy := 0, oz := 0, ex := 8, ey := 4, ez := 1 } : Task).splitAxis r,
     ({ wholeBox with ox := 0, oy := 0, oz := 0, ex := 4, ey := 4, ez := 1 } : Task).splitAxis r,
     ({ wholeBox with ox := 0, oy := 0, oz := 0, ex := 2, ey := 4, ez := 1 } : Task).splitAxis r) = (some 0, some 0, some 1) := by decide +kernel
/-- The example under R190: the address 0x5123455A48 lies on die 5, quarter 0, which is facet 20. -/
theorem test_home : homeFacet 0x5123455A48 = 20 := by decide +kernel
/-- R43: a cold reset clears the reference counters and every register of BAR0 (R447). -/
theorem test_reset : (State.reset.facets.all (fun f => f.ref = 0) && (List.range 16).all (fun i => State.reset.bar0 (8 * i) = 0)) = true := by
  decide +kernel

end Sys2Proof.Tests
end

section
/-! PROOF. O55 (`Obligations.IssueRules`) refuted: a CONV whose guard holds in no lane goes on to the next word, and joins there a path that
waits at a CONV for its lanes. That CONV is met, and the lanes go on past it in the same step (R293, R309, assumption 54), so that the
CONV without an active lane leaves more than an issue with no results, and no fault. -/

namespace Sys2Proof.Machine

open Sys2Proof

/-- A wave after an instruction, where the instruction gives a next state. -/
def waveAfter (i : Instr) (s : State) (g w : Nat) : Option Wave :=
  match exec i s with
  | .next t => (t.group? g).bind (fun x => x.wave? w)
  | _ => none

theorem waveAfter_of_next {i : Instr} {s t : State} {g w : Nat} {x : Group} {y : Wave} (hi : exec i s = .next t)
    (hg : t.group? g = some x) (hw : x.wave? w = some y) : waveAfter i s g w = some y := by
  simp [waveAfter, hi, hg, hw]

/-- An issue that only computes leaves the lanes of its path at the next word of their frontier (R47). -/
theorem Computes.wave_advanced {i : Instr} {ws : Ctx → List Write} {s t : State} {c : Ctx} (hi : exec i s = .next t)
    (h : Computes ws s c t) : ∃ w, waveAfter i s c.grp.id c.wave.id = some w ∧ w.stands c.path.fr c.path.mask (c.path.pc + 12) := by
  obtain ⟨g, w, hleft, -, -, -, -, -, hadv⟩ := h
  exact ⟨w, waveAfter_of_next hi hleft.group hleft.wave, hadv⟩

/-- The first fault of a launch leaves its wave without further issues (R412). -/
theorem Faults.wave_dead {i : Instr} {code : Code} {s t : State} {c : Ctx} {l : Nat} (hi : exec i s = .next t)
    (h : Faults code s c t) (hl : c.grp.launch = some l) (he : c.st.ending c.grp = false) :
    ∃ w, waveAfter i s c.grp.id c.wave.id = some w ∧ w.dead = true := by
  obtain ⟨g, w, hleft, rfl, -⟩ := h.launch l hl he
  exact ⟨_, waveAfter_of_next hi hleft.group hleft.wave, rfl⟩

/-- The form of a CONV whose guard holds in no lane. -/
def neverConv : Form := ⟨0#4, .b32, .none, .none, .none, ⟨true, 7#3⟩, ⟨false, false, false, 0#2⟩, 0#32⟩

/-- A wave of 64 lanes set to issue: its lower lanes stand at a word, and its upper lanes wait for them at a CONV of all lanes in the next
word. -/
def awaitedWave : State :=
  { (State.reset.withWord 0).updWave 2 0 (fun w => { w with
      paths := [⟨1, 0, BitVec.ofNat 64 bootPc, 0, lowMask 32, .ready⟩, ⟨2, 0, BitVec.ofNat 64 bootPc + 12, 0, ~~~lowMask 32, .conv none⟩]
      nextId := 3 }) with
    cur := some (2, 0) }

/-- The lower lanes issue, in a launch with no fault, and the guard selects none of them. -/
theorem awaitedWave_context : ∃ c, awaitedWave.context neverConv = some c ∧ c.act = 0 ∧ c.grp.id = 2 ∧ c.wave.id = 0
    ∧ c.grp.launch = some 1 ∧ c.st.ending c.grp = false
    ∧ c.path = ⟨1, 0, BitVec.ofNat 64 bootPc, 0, lowMask 32, .ready⟩ := by
  have h : (awaitedWave.context neverConv).any (fun c => c.act = 0 ∧ c.grp.id = 2 ∧ c.wave.id = 0 ∧ c.grp.launch = some 1
      ∧ c.st.ending c.grp = false ∧ c.path = ⟨1, 0, BitVec.ofNat 64 bootPc, 0, lowMask 32, .ready⟩) = true := by decide +kernel
  simpa using (Option.any_eq_true _ _).1 h

/-- The CONV at which all lanes then stand completes: they go on, as one path, at the word after it, and the wave has no fault. -/
theorem waveAfter_awaitedWave : (waveAfter (.conv neverConv) awaitedWave 2 0).map (fun w => (w.paths, w.dead))
    = some ([⟨1, 0, BitVec.ofNat 64 bootPc + 24, 0, BitVec.allOnes 64, .ready⟩], false) := by decide +kernel

/-- Refutes O55: a CONV without an active lane can do more than go on. Its path reaches the next word, where other lanes wait for it at a
CONV, which completes and takes all of them further (`awaitedWave`). -/
theorem not_issueRules : ¬ Obligations.IssueRules := by
  unfold Obligations.IssueRules
  rintro ⟨-, -, hword, -⟩
  obtain ⟨c, hc, hact, hg, hw, hl, he, hp⟩ := awaitedWave_context
  obtain ⟨-, hissue⟩ := hword (.conv neverConv) 0x06 neverConv awaitedWave rfl
  obtain ⟨-, hnone, -⟩ := hissue c hc
  obtain ⟨t, ht, hpost⟩ := hnone hact
  have after := waveAfter_awaitedWave
  rcases hpost with hcomp | hfault
  · obtain ⟨w, hwave, hstands⟩ := hcomp.wave_advanced ht
    rw [hg, hw] at hwave
    obtain ⟨hpaths, -⟩ : w.paths = [⟨1, 0, BitVec.ofNat 64 bootPc + 24, 0, BitVec.allOnes 64, .ready⟩] ∧ w.dead = false := by
      simpa [hwave] using after
    obtain ⟨p, hmem, -, hpc, -⟩ := hstands 0 (by rw [hp]; decide)
    rw [hpaths, List.mem_singleton] at hmem
    rw [hmem, hp] at hpc
    exact absurd hpc (by decide)
  · obtain ⟨w, hwave, hdead⟩ := hfault.wave_dead ht hl he
    rw [hg, hw] at hwave
    simp [hwave, hdead] at after

end Sys2Proof.Machine
end

section
/-! PROOF. O59: the invariant `State.whole` as a proposition, what a change of one field or a loop does to it, and what an answer that carries
a state says of that state. -/

namespace Sys2Proof.Machine

open Sys2Proof

/-! ### The invariant and what may yield a state -/

/-- The package is whole (`State.whole`), as a proposition with lemmas of its own. -/
def Whole (s : State) : Prop := s.whole = true

/-- Every state that an optional result carries is whole. -/
def Yields {α : Type} (st : α → State) (o : Option α) : Prop := ∀ x, o = some x → Whole (st x)

/-- The next state of an outcome, if there is one, is whole. -/
inductive NextWhole : Host.Outcome State Fault Refusal → Prop
  | next {t : State} (h : Whole t) : NextWhole (.next t)
  | fault {x : Fault} : NextWhole (.fault x)
  | refused {x : Refusal} : NextWhole (.refused x)

/-- The state that the body of an instruction answers with, if there is one, is whole. -/
inductive Res.Whole : Res → Prop
  | done {t : State} (h : Machine.Whole t) : Res.Whole (.done t)
  | moved {t : State} (h : Machine.Whole t) : Res.Whole (.moved t)
  | wait {t : State} {park : Bool} (h : Machine.Whole t) : Res.Whole (.wait park t)
  | waitPort {t : State} {seqs : List Nat} (h : Machine.Whole t) : Res.Whole (.waitPort seqs t)
  | fault {code : Code} : Res.Whole (.fault code)

theorem whole_iff {s : State} : Whole s ↔ s.mem.wf = true ∧ s.spad.wf = true ∧ s.facets.length = 64
    ∧ s.routers.length = 18 ∧ s.ports.length = 24 := by
  simp [Whole, State.whole, and_assoc]

/-- A change of fields that the invariant does not speak of. -/
theorem Whole.keep {s : State} (h : Whole s)
    {tick edges nextId peerId : Nat} {agenda : List Turn} {cur : Option (Nat × Nat)} {keyed migCount migPass : SMap Nat} {bad badSpad devBias
    hostHeld irqs : List Nat} {icache : List OldCode} {tlb : List TlbEntry} {l2 : List L2Line} {parts keys fabric : List (Nat × Nat)} {fwRoot :
    Option Nat} {ctxs : List CtxDesc} {names : List Binding} {lends : List Lend} {queues : List Queue} {launches : List Launch} {groups : List
    Group} {matq : List MatEntry} {net : List NetMsg} {outbox : List (Nat × Word × Msg)} {host : HostRegs} {faults : List PendingFault} {esc :
    List Escalation} {escWait : List (Nat × Waiter)} :
    Whole { s with
      tick := tick, edges := edges, nextId := nextId, agenda := agenda, cur := cur, peerId := peerId, keyed := keyed, bad := bad, badSpad :=
      badSpad, icache := icache, tlb := tlb, l2 := l2, devBias := devBias, hostHeld := hostHeld, migCount := migCount, migPass := migPass, parts
      := parts, fwRoot := fwRoot, ctxs := ctxs, keys := keys, names := names, lends := lends, queues := queues, launches := launches, groups :=
      groups, matq := matq, net := net, fabric := fabric, outbox := outbox, host := host, irqs := irqs, faults := faults, esc := esc, escWait :=
      escWait } := by
  rwa [whole_iff] at *

/-- The same, with as many facets, routers and ports as before. -/
theorem Whole.keepLengths {s : State} (h : Whole s) {facets : List Facet} {routers : List Router} {ports : List Port}
    {tick edges nextId peerId : Nat} {agenda : List Turn} {cur : Option (Nat × Nat)} {keyed migCount migPass : SMap Nat} {bad badSpad devBias
    hostHeld irqs : List Nat} {icache : List OldCode} {tlb : List TlbEntry} {l2 : List L2Line} {parts keys fabric : List (Nat × Nat)} {fwRoot :
    Option Nat} {ctxs : List CtxDesc} {names : List Binding} {lends : List Lend} {queues : List Queue} {launches : List Launch} {groups : List
    Group} {matq : List MatEntry} {net : List NetMsg} {outbox : List (Nat × Word × Msg)} {host : HostRegs} {faults : List PendingFault} {esc :
    List Escalation} {escWait : List (Nat × Waiter)}
    (hf : facets.length = s.facets.length := by simp) (hr : routers.length = s.routers.length := by simp)
    (hp : ports.length = s.ports.length := by simp) :
    Whole { s with
      facets := facets, routers := routers, ports := ports,
      tick := tick, edges := edges, nextId := nextId, agenda := agenda, cur := cur, peerId := peerId, keyed := keyed, bad := bad, badSpad :=
      badSpad, icache := icache, tlb := tlb, l2 := l2, devBias := devBias, hostHeld := hostHeld, migCount := migCount, migPass := migPass, parts
      := parts, fwRoot := fwRoot, ctxs := ctxs, keys := keys, names := names, lends := lends, queues := queues, launches := launches, groups :=
      groups, matq := matq, net := net, fabric := fabric, outbox := outbox, host := host, irqs := irqs, faults := faults, esc := esc, escWait :=
      escWait } := by
  rw [whole_iff] at *
  exact ⟨h.1, h.2.1, hf.trans h.2.2.1, hr.trans h.2.2.2.1, hp.trans h.2.2.2.2⟩

theorem Whole.withMem {s : State} (h : Whole s) {m : Memory} (hm : m.wf = true) : Whole { s with mem := m } := by
  rw [whole_iff] at *; exact ⟨hm, h.2⟩

theorem Whole.withSpad {s : State} (h : Whole s) {m : Memory} (hm : m.wf = true) : Whole { s with spad := m } := by
  rw [whole_iff] at *; exact ⟨h.1, hm, h.2.2⟩

theorem Whole.mem_wf {s : State} (h : Whole s) : s.mem.wf = true := (whole_iff.1 h).1
theorem Whole.spad_wf {s : State} (h : Whole s) : s.spad.wf = true := (whole_iff.1 h).2.1

theorem Whole.ite {c : Prop} [Decidable c] {s t : State} (hs : Whole s) (ht : Whole t) : Whole (if c then s else t) := by
  split <;> assumption

theorem Whole.foldl {α : Type} {f : State → α → State} {l : List α} {s : State} (h : Whole s)
    (hf : ∀ t x, Whole t → Whole (f t x)) : Whole (l.foldl f s) := by
  induction l generalizing s with
  | nil => exact h
  | cons x l ih => exact ih (hf s x h)

theorem Yields.some {α : Type} {st : α → State} {x : α} (h : Whole (st x)) : Yields st (some x) := by
  rintro _ ⟨⟩; exact h

theorem Yields.none {α : Type} {st : α → State} : Yields st (none : Option α) := by rintro _ ⟨⟩

theorem Yields.ite {α : Type} {st : α → State} {c : Prop} [Decidable c] {a b : Option α} (ha : Yields st a) (hb : Yields st b) :
    Yields st (if c then a else b) := by
  split <;> assumption

theorem NextWhole.ite {c : Prop} [Decidable c] {a b : Host.Outcome State Fault Refusal} (ha : NextWhole a) (hb : NextWhole b) :
    NextWhole (if c then a else b) := by
  split <;> assumption

theorem Res.Whole.ite {c : Prop} [Decidable c] {a b : Res} (ha : a.Whole) (hb : b.Whole) : (if c then a else b).Whole := by
  split <;> assumption

/-! ### Reading a part of a result -/

/-- Whichever state an answer carries is whole. -/
inductive Answers {α : Type} (st : α → State) : Except State α → Prop
  | error {s : State} (h : Whole s) : Answers st (.error s)
  | ok {x : α} (h : Whole (st x)) : Answers st (.ok x)

theorem Answers.of_error {α : Type} {st : α → State} {r : Except State α} {s : State} (h : Answers st r) (e : r = .error s) :
    Whole s := by
  subst e; cases h; assumption

theorem Answers.of_ok {α : Type} {st : α → State} {r : Except State α} {x : α} (h : Answers st r) (e : r = .ok x) :
    Whole (st x) := by
  subst e; cases h; assumption

theorem Answers.ite {α : Type} {st : α → State} {c : Prop} [Decidable c] {a b : Except State α} (ha : Answers st a)
    (hb : Answers st b) : Answers st (if c then a else b) := by
  split <;> assumption

theorem Whole.of_fst {α : Type} {p : State × α} {s : State} {x : α} (h : Whole p.1) (e : p = (s, x)) : Whole s := by
  subst e; exact h

theorem Whole.of_snd {α : Type} {p : α × State} {s : State} {x : α} (h : Whole p.2) (e : p = (x, s)) : Whole s := by
  subst e; exact h

theorem Whole.elim {α : Type} {o : Option α} {s : State} {f : α → State} (hs : Whole s) (hf : ∀ x, Whole (f x)) :
    Whole (o.elim s f) := by
  cases o with
  | none => exact hs
  | some x => exact hf x

theorem Whole.getD {o : Option State} {s : State} (hs : Whole s) (ho : Yields id o) : Whole (o.getD s) := by
  cases o with
  | none => exact hs
  | some x => exact ho x rfl

theorem Yields.map {α β : Type} {st : α → State} {st' : β → State} {o : Option α} {f : α → β} (ho : Yields st o)
    (hf : ∀ x, Whole (st x) → Whole (st' (f x))) : Yields st' (o.map f) := by
  rintro _ h
  obtain ⟨x, hx, rfl⟩ := Option.map_eq_some_iff.1 h
  exact hf x (ho x hx)

/-! ### The parts of the state -/

theorem Whole.setFacet {s : State} {f : Nat} {x : Facet} (h : Whole s) : Whole (s.setFacet f x) :=
  h.keepLengths
theorem Whole.setRouter {s : State} {r : Nat} {x : Router} (h : Whole s) : Whole (s.setRouter r x) :=
  h.keepLengths
theorem Whole.setPort {s : State} {p : Nat} {x : Port} (h : Whole s) : Whole (s.setPort p x) :=
  h.keepLengths

theorem Whole.setGroup {s : State} {g : Group} (h : Whole s) : Whole (s.setGroup g) := h.keep
theorem Whole.setLaunch {s : State} {l : Launch} (h : Whole s) : Whole (s.setLaunch l) := h.keep
theorem Whole.setQueue {s : State} {q : Queue} (h : Whole s) : Whole (s.setQueue q) := h.keep
theorem Whole.updGroup {s : State} {g : Nat} {f : Group → Group} (h : Whole s) : Whole (s.updGroup g f) := h.keep
theorem Whole.updWave {s : State} {g w : Nat} {f : Wave → Wave} (h : Whole s) : Whole (s.updWave g w f) := h.keep
theorem Whole.updLaunch {s : State} {l : Nat} {f : Launch → Launch} (h : Whole s) : Whole (s.updLaunch l f) := h.keep
theorem Whole.updFacet {s : State} {f : Nat} {u : Facet → Facet} (h : Whole s) : Whole (s.updFacet f u) := h.setFacet
theorem Whole.updRouter {s : State} {r : Nat} {u : Router → Router} (h : Whole s) : Whole (s.updRouter r u) := h.setRouter
theorem Whole.updPort {s : State} {p : Nat} {u : Port → Port} (h : Whole s) : Whole (s.updPort p u) := h.setPort
theorem Whole.count {s : State} {facet ctx i n : Nat} (h : Whole s) : Whole (s.count facet ctx i n) := h.updFacet
theorem Whole.capture {s : State} {facet ctx code v : Nat} (h : Whole s) : Whole (s.capture facet ctx code v) := h.updFacet

/-! ### Main memory -/

theorem Whole.claimSector {s : State} {ctx key : Nat} (h : Whole s) : Whole (s.claimSector ctx key) := by
  unfold State.claimSector
  refine Whole.ite h (Whole.keep (h.withMem (?_ : Memory.wf (if _ then _ else _) = true)))
  split
  · exact h.mem_wf
  · exact Memory.wf_writeBytes _ _ _ h.mem_wf

theorem Whole.writeByte {s : State} {ctx key : Nat} {b : Byte} (h : Whole s) : Whole (s.writeByte ctx key b) :=
  h.claimSector.withMem (Memory.wf_write _ _ _ h.claimSector.mem_wf)

theorem Whole.writeRaw {s : State} {ctx key : Nat} {bs : List Byte} (h : Whole s) : Whole (s.writeRaw ctx key bs) := by
  induction bs generalizing s key with
  | nil => exact h
  | cons b bs ih => exact ih h.writeByte

theorem Whole.cacheLeaf {s : State} {facet core ctx page : Nat} {x : Nat × Nat × Nat} (h : Whole s) :
    Whole (s.cacheLeaf facet core ctx page x) := by
  unfold State.cacheLeaf
  dsimp only
  split
  · exact Whole.ite h h.keep
  · exact h.keep

end Sys2Proof.Machine
end

section
/-! PROOF. O59: what writes and reads main memory, and translation, keep the package whole. -/

namespace Sys2Proof.Machine

open Sys2Proof

variable {s t : State} {c : Ctx} {f : Form} {g : Group} {w : Wave} {q : Queue} {l : Launch} {k : Cmd} {bytes : List Byte} {ans : Byte}
  {sp : Bool} {facet core ctx key n gid wid cls seq va page lid qid op r face idx : Nat}

theorem Whole.cbWrite {off v : Nat} (h : Whole s) : Whole (s.cbWrite q off n v) := h.writeRaw

theorem Whole.logEntry {kind event port addr pc ref : Nat} (h : Whole s) :
    Whole (s.logEntry kind event ctx facet port addr pc ref) := Whole.ite h h.writeRaw.keep

theorem Whole.abandon (h : Whole s) : Whole (s.abandon q) := by
  unfold State.abandon
  refine Whole.setQueue ?_
  split
  · exact h.keep
  · exact h

theorem Whole.queueError {err : Nat} (h : Whole s) : Whole (s.queueError q err) := h.cbWrite.cbWrite.cbWrite.abandon.keep.logEntry

theorem Whole.tailRule (h : Whole s) :
    Whole (s.tailRule key bytes q) := Whole.ite h (Whole.ite (Whole.ite h (Whole.ite h.cbWrite.setQueue.queueError h.cbWrite.setQueue)) h)

theorem Whole.cancelRule (h : Whole s) : Whole (s.cancelRule key n) := h.keep

theorem Whole.descRule (h : Whole s) : Whole (s.descRule key n) := h.keep

theorem Whole.keepOld (h : Whole s) : Whole (s.keepOld key n) := Whole.ite h h.keep

theorem Whole.noteUnits {old : State} {unit : Nat} (h : Whole s) : Whole (s.noteUnits old key n unit) := h.keep

theorem Whole.applyMain {unit : Nat} (h : Whole s) :
    Whole (s.applyMain ctx key bytes unit) :=
  (((((h.keepOld.foldl (fun _ _ ht => Whole.ite ht ht.writeByte)).foldl (fun _ _ ht => ht.tailRule)).keep).noteUnits).cancelRule).descRule

theorem Whole.dropLines {t : L2Line → Bool} (h : Whole s) : Whole (s.dropLines t) := h.keep

theorem Whole.recallRange (h : Whole s) : Whole (s.recallRange key n) := h.dropLines

theorem Whole.backInvalidate (h : Whole s) : Whole (s.backInvalidate key n) := h.keep

theorem Whole.storeMain {unit : Nat} (h : Whole s) : Whole (s.storeMain ctx key bytes unit) := h.backInvalidate.recallRange.applyMain

theorem Whole.countMig {mode : Nat} (h : Whole s) : Whole (s.countMig facet mode page key) := by
  unfold State.countMig
  refine Whole.ite ?_ h
  dsimp only
  split <;> exact h.keep

theorem Whole.makeWay {sec : Nat} (h : Whole s) : Whole (s.makeWay facet sec) := Whole.ite h h.dropLines

theorem Whole.makeEntry {sec : Nat} (h : Whole s) : Whole (s.makeEntry sec) := Whole.ite h (Whole.ite h h.dropLines)

theorem Whole.touch {mode : Nat} {write : Bool} (h : Whole s) : Whole (s.touch facet ctx mode page key write) := by
  unfold State.touch
  lift_lets
  intro sec s₁ mine serves s₂ s₃ others rest bad shared
  have h₁ : Whole s₁ := h.backInvalidate
  have h₂ : Whole s₂ := Whole.ite h₁ h₁.countMig
  have h₃ : Whole s₃ := Whole.ite h₂.count.makeEntry.makeWay h₂
  refine Whole.ite (Whole.ite h₁.recallRange h₁) (Whole.ite h₃.keep ?_)
  generalize mine = found
  cases found with
  | some _ => exact h₃
  | none => exact Whole.ite h₃.keep h₃.keep

theorem Whole.translate {acc : Access} (h : Whole s) : Whole (s.translate facet core ctx acc va).2 := by
  unfold State.translate
  split
  · exact h
  · split
    · exact h
    · split
      · exact h
      · split
        · dsimp only
          split
          · exact h
          · exact Whole.ite h h.cacheLeaf
        · dsimp only
          split
          · exact h
          · exact (Whole.ite h h.cacheLeaf).cacheLeaf

theorem Whole.translateAll {acc : Access} {vas : List Nat} {pins : List Pin} (h : Whole s) :
    Whole (s.translateAll facet core ctx acc vas pins).2 := by
  induction vas generalizing s pins with
  | nil => exact h
  | cons va vas ih =>
    unfold State.translateAll
    split
    · exact ih h
    · split
      next e => exact (congrArg Prod.snd e ▸ h.translate :)
      next e => exact ih (congrArg Prod.snd e ▸ h.translate :)

theorem Whole.storePinned {pins : List Pin} {unit : Nat} (h : Whole s) : Whole (s.storePinned pins va bytes unit) := by
  unfold State.storePinned
  split
  · exact h.applyMain
  · exact h

theorem Whole.touchPinned {pins : List Pin} {write : Bool} (h : Whole s) : Whole (s.touchPinned facet ctx pins va write) := by
  unfold State.touchPinned
  split
  · exact h.touch
  · exact h

theorem Whole.writtenBy {before : State} {cmd : Nat × Nat × Nat × Nat} (h : Whole s) : Whole (s.writtenBy before cmd) := h.keep

theorem Whole.moveCode {old new size : Nat} (h : Whole s) : Whole (s.moveCode old new size) := h.keep

theorem Whole.dropCode (h : Whole s) : Whole (s.dropCode ctx) := h.keep

theorem Whole.fetchSector {pins : List Pin} {asked : Bool} (h : Whole s) : Whole (s.fetchSector facet ctx pins va asked) := by
  have hf := (whole_iff.1 h).2.2.1
  have ht := (whole_iff.1 (h.touchPinned (facet := facet) (ctx := ctx) (pins := pins) (va := va) (write := false))).2.2.1
  exact h.keepLengths (hf := by simp [hf, ht])

theorem Whole.fetch {pc : Nat} (h : Whole s) : Whole (s.fetch facet core ctx pc).2 := by
  unfold State.fetch
  dsimp only
  split
  next e => exact (congrArg Prod.snd e ▸ h.translateAll :)
  next pins _ e =>
    have ht := (congrArg Prod.snd e ▸ h.translateAll :)
    split
    · exact ht
    · exact ht.foldl fun _ _ h => h.fetchSector

end Sys2Proof.Machine
end

section
/-! PROOF. O59: registers, groups, commands, traps, the issue of an instruction, routers and placement keep the package whole. -/

namespace Sys2Proof.Machine

open Sys2Proof

variable {s t : State} {c : Ctx} {f : Form} {g : Group} {w : Wave} {q : Queue} {l : Launch} {k : Cmd} {bytes : List Byte} {ans : Byte}
  {sp : Bool} {facet core ctx key n gid wid cls seq va page lid qid op r face idx : Nat}

/-! ### Regs -/

theorem Whole.st {self : Ctx} (h : Whole self.st) : Whole self.st := h

theorem Whole.ctxUpdWave {f : Wave → Wave} (hs : Whole s) : Whole (c.updWave s f) := hs.updWave

theorem Whole.ctxUpdGroup {f : Group → Group} (hs : Whole s) : Whole (c.updGroup s f) := hs.updGroup

/-! ### Operands -/

theorem Whole.write {o : Operand} {wide : Bool} {val : Nat → Nat} (hs : Whole s) : Whole (c.write s o wide val) := by
  unfold Ctx.write
  split
  · exact hs.updWave
  · split
    · exact hs
    · exact hs.updWave
  · split
    · exact hs
    · exact hs.updGroup
  · exact hs.updWave
  · exact hs

theorem Whole.writeTy {val : Nat → Nat} (hs : Whole s) : Whole (c.writeTy s val) := hs.write

/-! ### Group -/

theorem Whole.storeSpad (h : Whole s) : Whole (s.storeSpad key bytes) :=
  (h.withSpad (Memory.wf_writeBytes bytes s.spad key h.spad_wf)).keep

theorem Whole.landBytes {late : List (Nat × Nat)} (h : Whole s) : Whole (s.landBytes gid late) :=
  (h.foldl (fun _ _ ht => .ite ht (.ite ht.updGroup ht.storeSpad))).keep.updGroup

theorem Whole.land (h : Whole s) : Whole (s.land gid wid cls seq) := by
  unfold State.land
  split
  · exact h
  · exact .ite h h.landBytes.updGroup

theorem Whole.landAll (h : Whole s) : Whole (s.landAll gid) := by
  unfold State.landAll
  split
  · exact h
  · exact h.foldl (fun _ _ ht => ht.foldl (fun _ _ ht' => ht'.land))

theorem Whole.withdraw {t : IntRec → Bool} (h : Whole s) : Whole (s.withdraw t) := h.keepLengths

theorem Whole.mapObjs {f : Obj → Obj} (h : Whole s) : Whole (s.mapObjs f) := h.keepLengths

theorem Whole.dropWaits {t : Waiter → Bool} (h : Whole s) : Whole (s.dropWaits t) := h.mapObjs.keep

theorem Whole.returnRegions {g : Nat} (h : Whole s) : Whole (s.returnRegions g) := h.keepLengths

theorem Whole.newClock (h : Whole s) : Whole (s.newClock facet) := h.keep

theorem Whole.endClock (h : Whole s) : Whole (s.endClock facet) := h.keep

theorem Whole.drainPoints (h : Whole s) : Whole (State.drainPoints n s facet core) := by
  induction n generalizing s with
  | zero => exact h
  | succ n ih =>
    unfold State.drainPoints
    split
    · exact ih h.keep.updGroup
    · exact h

theorem Whole.drain (h : Whole s) : Whole (s.drain facet core) := h.drainPoints

theorem Whole.takeMatrix {g : Nat} (h : Whole s) : Whole (s.takeMatrix g) := h.keep.foldl (fun _ _ ht => ht.drain)

theorem Whole.returnLent {fs : List (Nat × Bool)} (h : Whole s) : Whole (s.returnLent fs) := h.keep

theorem Whole.recall {g : Nat} (h : Whole s) : Whole (s.recall g) := h.landAll.withdraw.dropWaits.returnLent.takeMatrix

theorem Whole.dropGroup {g : Nat} (h : Whole s) : Whole (s.dropGroup g) := h.recall.returnRegions.keep

theorem Whole.endFree {g : Nat} {status : Byte} {code : Code} {pc : DWord} (h : Whole s) : Whole (s.endFree g status code pc) :=
  (Whole.ite h h.recall).updGroup.keepLengths

theorem Whole.raiseFault {code : Code} {pc addr : DWord} (h : Whole s) : Whole (s.raiseFault gid wid code pc addr) := by
  unfold State.raiseFault
  split
  · exact h
  next g _ =>
    extract_lets -lift kind late u
    have hu : Whole u := .ite h h.keep
    clear_value u
    split
    · exact .ite (.ite hu hu.updWave) (Whole.ite hu hu.updWave).keep
    · exact hu.endFree

theorem Whole.setSpills {rs : List (Nat × List Nat)} (h : Whole s) : Whole (s.setSpills facet n rs) := h.keep

theorem Whole.abortTask {g : Nat} (h : Whole s) : Whole (s.abortTask g) := by
  unfold State.abortTask
  split
  · exact h
  · split
    · exact h.dropGroup
    · exact h.dropGroup.updLaunch

theorem Whole.exhaust {g w : Nat} {pc : DWord} (h : Whole s) : Whole (s.exhaust g w pc) := by
  unfold State.exhaust
  split
  · exact h
  · split
    · exact h
    · refine .ite h.count.abortTask.updLaunch ?_
      split
      · exact h.count.dropGroup.updLaunch
      · exact h.count.raiseFault.dropGroup.updLaunch

/-! ### Paths -/

theorem Whole.finish {advance : Bool} (hs : Whole s) : Whole (c.finish op advance s) := hs.count.updWave

theorem Whole.waits {park : Bool} {port : Option (List Nat)} (hs : Whole s) : Whole (c.waits park port s) := hs.updWave

theorem Whole.parks {p : Park} (hs : Whole s) : Whole (c.parks s p) := hs.updWave

/-! ### Cmd -/

theorem Whole.storeLocal {a : Nat} {die : Option Nat} (h : Whole s) : Whole (s.storeLocal gid sp a bytes die) := by
  unfold State.storeLocal
  split
  · exact h
  · exact .ite h.storeSpad h.updGroup

theorem Whole.replacedLocal {rs : List (Nat × Nat)} (h : Whole s) : Whole (s.replacedLocal g sp rs) := .ite h.keep h.updGroup

theorem Whole.uncorrectable {pc : DWord} {addr : Nat} (h : Whole s) : Whole (s.uncorrectable gid wid pc addr) := by
  unfold State.uncorrectable
  split
  · exact h
  · exact h.keep.logEntry.raiseFault

theorem Whole.beginLanding {status : Byte} {regs : List (Nat × Nat)} (h : Whole s) :
    Whole (s.beginLanding gid wid cls seq status key bytes regs) := by
  unfold State.beginLanding
  split
  · exact h
  · exact .ite h.landBytes.updWave h.landBytes.updWave.land

theorem Whole.submit {o : Order} (h : Whole s) : Whole (s.submit gid wid o) := by
  unfold State.submit
  split
  · exact h
  · refine .ite h.translateAll.uncorrectable (.ite h.translateAll.raiseFault ?_)
    split
    · exact h.translateAll
    · exact .ite h.translateAll.updWave.keep h.translateAll.updWave

theorem Whole.accept {o : Order} (h : Whole s) : Whole (s.accept gid wid o).1 := by
  unfold State.accept
  split
  · exact h
  · split
    · split
      · dsimp only
        split <;> exact h.submit
      · dsimp only
        split
        · exact h.submit
        · split
          · exact h.uncorrectable
          · split
            · exact h.exhaust
            · exact h.submit.updGroup
    · exact h.submit

/-! ### Ops -/

theorem Whole.postRequest {e : Escalation} (h : Whole s) : Whole (s.postRequest e) := .ite h h.writeRaw.keep

theorem Whole.servePage {e : Escalation} {kind index : Nat} (h : Whole s) : Whole (s.servePage e kind index) := .ite h.keep (.ite h.postRequest h)

theorem Whole.pageRequest {w frame : Nat} {addr pc : DWord} (h : Whole s) : Whole (s.pageRequest g w frame addr pc) := h.keep.servePage

theorem Whole.trapEntry {p : Path} {t : TrapInfo} (h : Whole s) : Whole (s.trapEntry gid wid p t) := by
  unfold State.trapEntry
  split
  · exact h
  · split
    · exact h
    · exact .ite h.updWave (.ite h.raiseFault (.ite h.updWave (.ite h.updWave.pageRequest (.ite h.abortTask h.raiseFault))))

theorem Whole.resubmit {f : Frame} (h : Whole s) : Whole (s.resubmit gid wid f) := by
  unfold State.resubmit
  split
  · exact h
  · split
    · exact h
    · split
      · exact h
      · exact h.accept

theorem Whole.returnFrame {f : Frame} (h : Whole s) : Whole (s.returnFrame gid wid f) := by
  unfold State.returnFrame
  split
  · exact h
  · dsimp only
    split
    · exact .ite h.raiseFault h.updWave.pageRequest
    · split
      · exact .ite h.raiseFault h.resubmit.updWave
      · exact h.updWave

theorem Whole.arrive (h : Whole s) : Whole (s.arrive gid wid) := by
  unfold State.arrive
  split
  · exact h
  · split
    · exact h
    · exact .ite h (.ite h.raiseFault h.updGroup)

theorem Whole.settleOnce (h : Whole s) : Yields id (s.settleOnce gid wid) := by
  unfold State.settleOnce
  split
  · exact .none
  · refine .ite .none ?_
    split
    · exact .some h.returnFrame
    · exact .ite (.some h.updWave) .none

theorem Whole.settleWave (h : Whole s) : Whole (State.settleWave n s gid wid) := by
  induction n generalizing s with
  | zero => exact h
  | succ n ih =>
    unfold State.settleWave
    split
    · exact h
    next e => exact ih (h.settleOnce _ e)

theorem Whole.checkStuck (h : Whole s) : Whole (s.checkStuck gid wid) := by
  unfold State.checkStuck
  split
  · exact h
  · refine .ite h ?_
    split
    · exact h.raiseFault
    · exact h

theorem Whole.freeRegion (h : Whole s) : Whole (s.freeRegion g w) := by
  unfold State.freeRegion
  split
  · split
    · exact .ite h h.updFacet.updWave
    · exact h.updWave
  · exact h

theorem Whole.freeRegions (h : Whole s) : Whole s.freeRegions := h.foldl (fun _ _ ht => ht.foldl (fun _ _ ht' => ht'.freeRegion))

theorem Whole.applyAnswer {token : Nat} {retry : Bool} (h : Whole s) : Whole (s.applyAnswer token retry) := by
  unfold State.applyAnswer
  split
  · exact h
  · exact .ite h (.ite h.resubmit.updWave h.raiseFault)

theorem Whole.takeAnswers (h : Whole s) : Whole (s.takeAnswers gid) := h.foldl (fun _ _ ht => .ite ht.updGroup.applyAnswer ht)

theorem Whole.settle (h : Whole s) : Whole (s.settle gid) := by
  unfold State.settle
  split
  · exact h
  · exact ((((h.takeAnswers.foldl (fun _ _ ht => ht.settleWave)).foldl (fun _ _ ht => ht.arrive)).updGroup.foldl (fun _ _ ht =>
      ht.settleWave)).foldl (fun _ _ ht => ht.checkStuck)).updGroup

theorem Whole.settleAll (h : Whole s) : Whole s.settleAll := h.freeRegions.foldl (fun _ _ ht => ht.settle)

theorem Whole.goOn (hs : Whole s) : Whole (c.goOn s) := hs.updWave

theorem Whole.report {hreg : Option Nat} (hs : Whole s) : Whole (c.report s k hreg) := by
  unfold Ctx.report
  split
  · exact hs.updWave
  · exact .ite hs.updWave.trapEntry hs.updWave.raiseFault

theorem Whole.readHandles {regs : List Nat} {x : Res} (h : Whole c.st) (e : c.readHandles regs = some x) : x.Whole := by
  unfold Ctx.readHandles at e
  dsimp only at e
  split at e
  · cases e
    split
    · exact .waitPort h
    · exact .wait h
  · obtain ⟨y, -, rfl⟩ := Option.map_eq_some_iff.1 e
    exact .moved h.goOn.report

theorem Whole.context (h : Whole s) (e : s.context f = some c) : Whole c.st := by
  unfold State.context at e
  split at e
  · cases e
  · cases e
    exact h.updWave

/-- An issue keeps the package whole if its body does. -/
theorem issueInstr_whole {d a b : Allow} {x : Option Allow} {extra : Ctx → Bool} {body : Ctx → Res} (h : Whole s)
    (hb : ∀ c, Whole c.st → (body c).Whole) : NextWhole (issueInstr op f s d a b x extra body) := by
  unfold issueInstr
  split
  · exact .fault
  next c e =>
    have hc := h.context e
    refine .ite (.next hc.raiseFault) (.ite (.next hc.finish) ?_)
    generalize hx : body c = res
    cases hx ▸ hb c hc with
    | done ht | moved ht => exact .next ht.finish
    | wait ht | waitPort ht => exact .next ht.waits
    | fault => exact .next hc.raiseFault

/-! ### Fetch -/

theorem Whole.fetchFault {p : Path} {st : Byte} (h : Whole s) : Whole (s.fetchFault g w p st va) := by
  unfold State.fetchFault
  split
  · exact h.trapEntry.updWave
  · exact h.raiseFault
  · exact h.raiseFault
  · exact h.uncorrectable
  · exact h.raiseFault

theorem Whole.firstIssue (h : Whole s) : Whole (s.firstIssue g) := by
  unfold State.firstIssue
  split
  · exact (Whole.ite h h.capture).updLaunch
  · exact h

theorem Whole.noteIssue (ht : Whole t) : Whole (s.noteIssue gid wid t) := by
  unfold State.noteIssue
  split
  · exact ht
  · exact .ite ht ht.firstIssue

theorem Whole.startClock (h : Whole s) : Whole (s.startClock g w) := (Whole.ite h.newClock h).updGroup

theorem Whole.fetchTurn (h : Whole s) : Answers Prod.fst (s.fetchTurn gid wid) := by
  unfold State.fetchTurn
  split
  · exact .error h
  next g w _ =>
    have ht : Whole { (s.updWave gid wid (fun _ => w.startRun)).startClock g w.startRun with cur := some (gid, wid) } :=
      h.updWave.startClock.keep
    refine .ite (.error h) ?_
    dsimp only
    split
    · exact .error ht
    · split
      next e => exact .error (ht.fetch.of_snd e).fetchFault
      next e => exact .ok (ht.fetch.of_snd e)

theorem Whole.illegalWord (h : Whole s) : Whole s.illegalWord := by
  unfold State.illegalWord
  split
  · exact h
  · exact h.raiseFault

/-! ### Leave -/

theorem Whole.cancelCmd (h : Whole s) : Whole (s.cancelCmd gid wid cls seq) := h.updWave

theorem Whole.withdrawWaits (h : Whole s) : Whole (s.withdrawWaits gid wid) := by
  unfold State.withdrawWaits
  split
  · exact h
  · exact h.dropWaits.foldl (fun _ _ ht => ht.cancelCmd)

theorem Whole.waveLeft (h : Whole s) : Whole (s.waveLeft gid wid) := by
  unfold State.waveLeft
  split
  · exact h
  · refine .ite h ?_
    split
    · split
      · exact h.withdrawWaits.updGroup
      · exact h.withdrawWaits.updGroup.updWave.raiseFault
    · split
      · exact h
      · exact h.updWave.raiseFault

theorem Whole.signal (h : Whole s) : Whole (s.signal g wid cls) := by
  unfold State.signal
  split
  · exact h
  · refine .ite (h.updWave.foldl (fun t x ht => ?_)) (h.updWave.foldl (fun t x ht => ?_)).waveLeft
    · split
      · exact ht.capture
      · exact ht
    · split
      · exact ht.capture
      · exact ht

theorem Whole.cancelNow (h : Whole s) : Whole (s.cancelNow gid wid cls seq) := by
  unfold State.cancelNow
  dsimp only
  split
  · exact h.cancelCmd
  · exact h.cancelCmd.signal

/-! ### Finsel -/

theorem Whole.sendFlit {p vc : Nat} {tag : Option (Nat × Nat × Nat × Nat)} {peer : Nat} {data : List Byte} (h : Whole s) :
    Whole (s.sendFlit p vc tag peer data) := h.updPort

theorem Whole.sendFace {body : NetBody} (h : Whole s) : Whole (s.sendFace r face body) := by
  unfold State.sendFace
  refine .ite h ?_
  split
  · exact h.sendFlit
  · exact h.keep
  · exact h

theorem Whole.completeName {status : Byte} (h : Whole s) : Whole (s.completeName gid wid seq status) := h.updWave

theorem Whole.satisfy {k : TileKey} {y0 : IntRec} (h : Whole s) : Whole (s.satisfy r k bytes y0) := by
  unfold State.satisfy
  split
  · exact h.sendFace
  · split
    · dsimp only
      split
      · exact h.beginLanding.count
      · exact h.beginLanding
    · dsimp only
      split
      · exact h.beginLanding.count
      · exact h.beginLanding

theorem Whole.expireRec {y0 : IntRec} (h : Whole s) : Whole (s.expireRec y0) := by
  unfold State.expireRec
  split
  · exact h.completeName
  · exact h

theorem Whole.shelve {c : Shelf} (h : Whole s) : Whole (s.shelve r c) := by
  unfold State.shelve
  split
  · exact h
  · exact .ite h (.ite h h.setRouter)

theorem Whole.forwardEntry {e : IntEntry} (h : Whole s) : Whole (s.forwardEntry r e) := by
  unfold State.forwardEntry
  split
  · exact h.setRouter
  · exact .ite h.setRouter h.setRouter.sendFace

theorem Whole.serveCopy {c : Shelf} {y0 : IntRec} (h : Whole s) : Whole (s.serveCopy r c y0) := by
  unfold State.serveCopy
  split
  · split
    · exact h.uncorrectable
    · exact h
  · exact h.satisfy

theorem Whole.record {k : TileKey} {y0 : IntRec} (h : Whole s) : Whole (s.record r k y0) := by
  unfold State.record
  refine .ite h.expireRec ?_
  split
  · exact h.setRouter.serveCopy
  · split
    · exact h.forwardEntry
    · dsimp only
      split
      · exact .ite h.forwardEntry h.setRouter
      · exact h.setRouter

theorem Whole.tileAt {k : TileKey} {shelf : Nat} {announced : Bool} (h : Whole s) : Whole (s.tileAt r k bytes shelf announced) := by
  unfold State.tileAt
  extract_lets -lift rt entry taken u
  clear_value entry
  have hu : Whole u := by
    unfold u
    split
    · exact h.setRouter.foldl fun _ _ ht => ht.satisfy
    · exact h
  clear_value u
  refine .ite ?_ (.ite hu.shelve hu)
  split
  · exact hu.shelve.sendFace
  · exact .ite hu hu.shelve

theorem Whole.expireEntry {e : IntEntry} (h : Whole s) : Whole (s.expireEntry r e) := by
  unfold State.expireEntry
  refine h.updRouter.foldl (fun t x ht => ?_)
  split
  · exact ht.sendFace
  · exact ht.expireRec

theorem Whole.faceDown (h : Whole s) : Whole (s.faceDown r face) := h.updRouter.foldl (fun _ _ ht => ht.expireEntry)

/-! ### Admit -/

theorem Whole.grant {m : BitVec 4} (h : Whole s) : Whole (s.grant gid m) := h.updGroup

theorem Whole.lower {but : Option Nat} {m : BitVec 4} (h : Whole s) : Whole (s.lower gid but m) := h.updGroup

/-! ### Room -/

theorem Whole.placeTask {t : Task} {cores : List Nat} (h : Whole s) : Yields id (s.placeTask l t facet cores) := by
  unfold State.placeTask
  refine .ite .none ?_
  split
  · exact .none
  · exact .some h.keep.setSpills.updLaunch

theorem Whole.placeEach {ts : List Task} {ps : List (Nat × List Nat)} (h : Whole s) : Yields id (State.placeEach lid s ts ps) := by
  induction ts generalizing s ps with
  | nil =>
    cases ps with
    | nil => exact .some h
    | cons => exact .none
  | cons t ts ih =>
    obtain - | ⟨⟨p, cores⟩, ps⟩ := ps
    · exact .none
    · unfold State.placeEach
      split
      · exact .none
      · split
        · exact .none
        next e => exact ih (h.placeTask _ e)

theorem Whole.unless (h : Whole s) (ht : Whole t) : Whole (s.unless t) := .ite h ht

end Sys2Proof.Machine
end

section
/-! PROOF. O59: the instructions of OP 0x00 to 0xC4, and what the engines do for them, keep the package whole. -/

namespace Sys2Proof.Machine

open Sys2Proof

variable {s t : State} {c : Ctx} {f : Form} {g : Group} {w : Wave} {q : Queue} {l : Launch} {k : Cmd} {bytes : List Byte} {ans : Byte}
  {sp : Bool} {facet core ctx key n gid wid cls seq va page lid qid op r face idx : Nat}

/-! ### Control -/

theorem Whole.branch {dest : Nat → DWord × BitVec 12} (hs : Whole s) : Whole (c.branch s dest) := hs.updWave

theorem Whole.link (hs : Whole s) : Whole (c.link s) := hs.updWave

theorem execNop_whole (h : Whole s) : NextWhole (execNop f s) := issueInstr_whole h (fun _ h' => .done h')

theorem execBra_whole (h : Whole s) : NextWhole (execBra f s) := issueInstr_whole h (fun _ h' => .moved h'.branch)

theorem execBrx_whole (h : Whole s) : NextWhole (execBrx f s) := issueInstr_whole h (fun _ h' => .ite .fault (.moved h'.branch))

theorem execCall_whole (h : Whole s) : NextWhole (execCall f s) := issueInstr_whole h (fun _ h' => .moved h'.link.branch)

theorem execCallx_whole (h : Whole s) : NextWhole (execCallx f s) := issueInstr_whole h (fun _ h' => .ite .fault (.moved h'.link.branch))

theorem execRet_whole (h : Whole s) : NextWhole (execRet f s) := issueInstr_whole h (fun _ h' => .ite .fault (.moved h'.branch))

theorem settling_whole {o : Host.Outcome State Fault Refusal} (ho : NextWhole o) : NextWhole (settling s o) := by
  unfold settling
  split
  · cases ho with
    | next ht => exact .next ht.settle
  · exact ho

theorem execConv_whole (h : Whole s) : NextWhole (execConv f s) := settling_whole (issueInstr_whole h (fun _ h' => .moved h'.updWave))

theorem execPrio_whole (h : Whole s) : NextWhole (execPrio f s) := issueInstr_whole h (fun _ h' => .done h'.updWave)

theorem execVote_whole (h : Whole s) : NextWhole (execVote f s) := issueInstr_whole h (fun _ h' => .done h'.write)

theorem execSloop_whole (h : Whole s) : NextWhole (execSloop f s) :=
  issueInstr_whole h fun _ hc => .ite (.done hc.write) (.moved hc.write.branch)

theorem execBar_whole (h : Whole s) : NextWhole (execBar f s) := settling_whole (issueInstr_whole h (fun _ h' => .ite .fault (.moved h'.updWave)))

theorem execExit_whole (h : Whole s) : NextWhole (execExit f s) :=
  settling_whole (issueInstr_whole h (fun _ h' => .done h'.updGroup.updWave.waveLeft))

theorem execYield_whole (h : Whole s) : NextWhole (execYield f s) := issueInstr_whole h (fun _ h' => .done (.ite h'.parks h'))

theorem execSleep_whole (h : Whole s) : NextWhole (execSleep f s) := issueInstr_whole h (fun _ h' => .done (.ite h' h'.parks))

theorem execAcq_whole (h : Whole s) : NextWhole (execAcq f s) := by
  refine issueInstr_whole h fun c hc => ?_
  extract_lets -lift need t new ticket asked u v
  have ht : Whole t := .ite hc.grant hc
  have hu : Whole u := ht.updGroup.keep
  clear_value t u
  have hv : Whole v := by
    unfold v
    split
    · exact ht
    · split
      · exact .ite hu.grant hu
      · exact hu
  clear_value v
  refine .ite (.done hc) ?_
  split
  · exact .ite (.wait hc) (.ite (.done hv) (.wait hv))
  · exact .done hv

theorem execRel_whole (h : Whole s) : NextWhole (execRel f s) := by
  refine issueInstr_whole h fun c hc => .ite (.done hc) ?_
  dsimp only
  split
  · exact .done hc.updWave
  · split
    · refine .ite (.done ?_) (.wait ?_) <;> exact .ite hc.updWave hc.updWave.lower
    · exact .done (.ite hc.updWave hc.updWave.lower)

theorem Whole.inTask {body : Launch → Res} (hbody : ∀ (a : Launch), (body a).Whole) : (c.inTask body).Whole := by
  unfold Ctx.inTask
  split
  · exact .fault
  · exact hbody _

theorem Whole.defer {d : Deferred} {size : Nat} (h : Whole c.st) (hs : Whole s) : (c.defer s d size).Whole :=
  .ite (.moved h.exhaust) (.done hs.updGroup)

theorem execTspawn_whole (h : Whole s) : NextWhole (execTspawn f s) :=
  issueInstr_whole h (fun _ h' => Whole.inTask (fun _ => .ite .fault (.ite .fault (.ite .fault (.ite (h'.defer h') (.done h'.updLaunch))))))

theorem execTdom_whole (h : Whole s) : NextWhole (execTdom f s) := issueInstr_whole h (fun _ h' => Whole.inTask (fun _ => .done h'.write))

theorem execTsplit_whole (h : Whole s) : NextWhole (execTsplit f s) :=
  issueInstr_whole h (fun _ h' => Whole.inTask (fun _ => .ite (.moved h'.exhaust) (.done h'.write)))

theorem execTchk_whole (h : Whole s) : NextWhole (execTchk f s) :=
  issueInstr_whole h (fun _ h' => Whole.inTask (fun _ => .ite (.moved h'.abortTask) (.done h')))

theorem execTchkTest_whole (h : Whole s) : NextWhole (execTchkTest f s) := issueInstr_whole h (fun _ h' => Whole.inTask (fun _ => .done h'.write))

theorem execTchkTrap_whole (h : Whole s) : NextWhole (execTchkTrap f s) :=
  issueInstr_whole h (fun _ h' => Whole.inTask (fun _ => .ite (.moved h'.goOn.trapEntry) (.done h')))

theorem Whole.zeroSpad (h : Whole s) : Whole (s.zeroSpad key n) := (h.withSpad (Memory.wf_clear s.spad key n h.spad_wf)).keep

theorem execSalloc_whole (h : Whole s) : NextWhole (execSalloc f s) := by
  unfold execSalloc
  refine issueInstr_whole h (fun x0 h' => .ite .fault (.ite .fault (.ite (.ite (.moved h'.exhaust) (.done h'.write)) ?_)))
  split
  · split
    · exact .done h'.write
    · dsimp only
      split
      · exact .done h'.write
      · exact .ite (.wait h') (.done h'.updFacet.zeroSpad.write)
  · split
    · exact .done h'.write
    · dsimp only
      split
      · exact .done h'.write
      · exact .ite (.wait h') (.done h'.updFacet.zeroSpad.write)

theorem Whole.cancelInto (h : Whole s) : Whole (s.cancelInto ctx key n) := h.keepLengths.foldl (fun _ _ ht => ht.cancelNow)

theorem execSfree_whole (h : Whole s) : NextWhole (execSfree f s) := by
  unfold execSfree
  refine issueInstr_whole h (fun x0 h' => ?_)
  dsimp only
  split
  · exact .fault
  · exact .ite .fault (.ite (.done h'.cancelInto.parks) (.done h'.cancelInto.updFacet))

/-! ### IntAlu -/

theorem arith2_whole {fn : Int → Int → Int} (h : Whole s) : NextWhole (arith2 op f s fn) := issueInstr_whole h (fun _ h' => .done h'.writeTy)

theorem arith3_whole {fn : Int → Int → Int → Int} (h : Whole s) : NextWhole (arith3 op f s fn) :=
  issueInstr_whole h (fun _ h' => .done h'.writeTy)

theorem execIadd_whole (h : Whole s) : NextWhole (execIadd f s) := arith2_whole h

theorem execIsub_whole (h : Whole s) : NextWhole (execIsub f s) := arith2_whole h

theorem execImul_whole (h : Whole s) : NextWhole (execImul f s) := arith2_whole h

theorem execImulh_whole (h : Whole s) : NextWhole (execImulh f s) := arith2_whole h

theorem execImad_whole (h : Whole s) : NextWhole (execImad f s) := arith3_whole h

theorem execIdiv_whole (h : Whole s) : NextWhole (execIdiv f s) := arith2_whole h

theorem execIrem_whole (h : Whole s) : NextWhole (execIrem f s) := arith2_whole h

theorem execImin_whole (h : Whole s) : NextWhole (execImin f s) := arith2_whole h

theorem execImax_whole (h : Whole s) : NextWhole (execImax f s) := arith2_whole h

theorem execIsad_whole (h : Whole s) : NextWhole (execIsad f s) := arith3_whole h

theorem execIabs_whole (h : Whole s) : NextWhole (execIabs f s) := issueInstr_whole h (fun _ h' => .done h'.writeTy)

theorem execIaddc_whole (h : Whole s) : NextWhole (execIaddc f s) := issueInstr_whole h (fun _ h' => .done h'.writeTy.write)

theorem execImadw_whole (h : Whole s) : NextWhole (execImadw f s) := issueInstr_whole h (fun _ h' => .done h'.write)

theorem execIsetp_whole (h : Whole s) : NextWhole (execIsetp f s) := issueInstr_whole h (fun _ h' => .done h'.write)

theorem execIsel_whole (h : Whole s) : NextWhole (execIsel f s) := issueInstr_whole h (fun _ h' => .done h'.writeTy)

theorem execLea_whole (h : Whole s) : NextWhole (execLea f s) := issueInstr_whole h (fun _ h' => .done h'.writeTy)

/-! ### Float -/

theorem float1_whole {fn : Nat → Nat} (h : Whole s) : NextWhole (float1 op f s fn) := issueInstr_whole h (fun _ h' => .done h'.writeTy)

theorem float2_whole {fn : Nat → Nat → Nat} (h : Whole s) : NextWhole (float2 op f s fn) := issueInstr_whole h (fun _ h' => .done h'.writeTy)

theorem execFadd_whole (h : Whole s) : NextWhole (execFadd f s) := float2_whole h

theorem execFsub_whole (h : Whole s) : NextWhole (execFsub f s) := float2_whole h

theorem execFmul_whole (h : Whole s) : NextWhole (execFmul f s) := float2_whole h

theorem execFfma_whole (h : Whole s) : NextWhole (execFfma f s) := issueInstr_whole h (fun _ h' => .done h'.writeTy)

theorem execFmin_whole (h : Whole s) : NextWhole (execFmin f s) := float2_whole h

theorem execFmax_whole (h : Whole s) : NextWhole (execFmax f s) := float2_whole h

theorem execFsetp_whole (h : Whole s) : NextWhole (execFsetp f s) := issueInstr_whole h (fun _ h' => .done h'.write)

theorem execFclass_whole (h : Whole s) : NextWhole (execFclass f s) := by
  unfold execFclass
  split <;> exact issueInstr_whole h (fun _ h' => .done h'.write)

theorem execFrcp_whole (h : Whole s) : NextWhole (execFrcp f s) := float1_whole h

theorem execFrsq_whole (h : Whole s) : NextWhole (execFrsq f s) := float1_whole h

theorem execFsqrt_whole (h : Whole s) : NextWhole (execFsqrt f s) := float1_whole h

theorem execFdiv_whole (h : Whole s) : NextWhole (execFdiv f s) := float2_whole h

theorem execFexp2_whole (h : Whole s) : NextWhole (execFexp2 f s) := float1_whole h

theorem execFlog2_whole (h : Whole s) : NextWhole (execFlog2 f s) := float1_whole h

theorem execFsin_whole (h : Whole s) : NextWhole (execFsin f s) := float1_whole h

theorem execFcos_whole (h : Whole s) : NextWhole (execFcos f s) := float1_whole h

theorem execFtanh_whole (h : Whole s) : NextWhole (execFtanh f s) := float1_whole h

theorem execFrnd_whole (h : Whole s) : NextWhole (execFrnd f s) := float1_whole h

theorem execFscale_whole (h : Whole s) : NextWhole (execFscale f s) := issueInstr_whole h (fun _ h' => .done h'.writeTy)

theorem execHfma2_whole (h : Whole s) : NextWhole (execHfma2 f s) := issueInstr_whole h (fun _ h' => .done h'.write)

theorem execHadd2_whole (h : Whole s) : NextWhole (execHadd2 f s) := issueInstr_whole h (fun _ h' => .done h'.write)

theorem execHmul2_whole (h : Whole s) : NextWhole (execHmul2 f s) := issueInstr_whole h (fun _ h' => .done h'.write)

theorem execFdot2_whole (h : Whole s) : NextWhole (execFdot2 f s) := issueInstr_whole h (fun _ h' => .done h'.write)

theorem execFdot4_whole (h : Whole s) : NextWhole (execFdot4 f s) := issueInstr_whole h (fun _ h' => .done h'.write)

/-! ### Command -/

theorem Whole.command {e : Effect} {reg : Option Nat} {rel : Bool} {status : Byte} (h : Whole c.st) :
    (c.command cls e reg rel status).Whole := by
  unfold Ctx.command
  refine .ite (.wait h) (.ite .fault ?_)
  split
  next e => exact .done (h.accept.of_fst e)
  next e => exact .moved (h.accept.of_fst e)

/-- A command issued, and what follows its acceptance. -/
theorem Whole.commandThen {e : Effect} {reg : Option Nat} {rel : Bool} {status : Byte} {x : Res} (h : Whole c.st)
    (e : c.command cls e reg rel status = x) : x.Whole := e ▸ h.command

/-! ### LocalMem -/

theorem Whole.localAccess {read write : Bool} {off : Int} {rel : Bool} {body : Res} (h : Whole c.st) (hbody : body.Whole) :
    (c.localAccess sp read write off rel body).Whole := by
  unfold Ctx.localAccess
  split
  · exact .fault
  · refine .ite (.wait h) ?_
    split
    · exact .moved h.uncorrectable
    · exact hbody

theorem loadLocal_whole (h : Whole s) : NextWhole (loadLocal op sp f s) := issueInstr_whole h (fun _ h' => h'.localAccess (.done h'.writeTy))

theorem storeLocalInstr_whole (h : Whole s) : NextWhole (storeLocalInstr op sp f s) :=
  issueInstr_whole h (fun _ h' => h'.localAccess (.done (h'.foldl (fun _ _ ht' => ht'.storeLocal)).replacedLocal))

theorem execLds_whole (h : Whole s) : NextWhole (execLds f s) := loadLocal_whole h

theorem execSts_whole (h : Whole s) : NextWhole (execSts f s) := storeLocalInstr_whole h

theorem execLdp_whole (h : Whole s) : NextWhole (execLdp f s) := loadLocal_whole h

theorem execStp_whole (h : Whole s) : NextWhole (execStp f s) := storeLocalInstr_whole h

theorem eachLane_whole {step : State → Nat → State × Nat} {ls : List Nat} (h : Whole s) (hs : ∀ t x, Whole t → Whole (step t x).1) :
    Whole (eachLane step s ls).1 := by
  induction ls generalizing s with
  | nil => exact h
  | cons x ls ih => exact ih (hs s x h)

theorem Whole.localRmw {new : Nat → Nat → Option Nat} (h : Whole c.st) : (c.localRmw sp new).Whole := by
  unfold Ctx.localRmw
  refine h.localAccess (.done (eachLane_whole h (fun x0 x1 h' => ?_)).writeTy)
  dsimp only
  split
  · exact h'.storeLocal
  · exact h'.updWave

theorem localAtomic_whole (h : Whole s) : NextWhole (localAtomic op sp f s) := issueInstr_whole h (fun _ h' => h'.localRmw)

theorem localCas_whole (h : Whole s) : NextWhole (localCas op sp f s) := issueInstr_whole h (fun _ h' => h'.localRmw)

theorem execAts_whole (h : Whole s) : NextWhole (execAts f s) := localAtomic_whole h

theorem execAtp_whole (h : Whole s) : NextWhole (execAtp f s) := localAtomic_whole h

theorem execCass_whole (h : Whole s) : NextWhole (execCass f s) := localCas_whole h

theorem execCasp_whole (h : Whole s) : NextWhole (execCasp f s) := localCas_whole h

theorem loadReserve_whole (h : Whole s) : NextWhole (loadReserve op sp f s) :=
  issueInstr_whole h (fun _ h' => h'.localAccess (.done h'.writeTy.updWave))

theorem storeConditional_whole (h : Whole s) : NextWhole (storeConditional op sp f s) :=
  issueInstr_whole h (fun _ h' => h'.localAccess (.done (eachLane_whole h' (fun _ _ h'' => (Whole.ite h''.storeLocal h'').updWave)).write))

theorem execLrs_whole (h : Whole s) : NextWhole (execLrs f s) := loadReserve_whole h

theorem execScs_whole (h : Whole s) : NextWhole (execScs f s) := storeConditional_whole h

theorem execLrp_whole (h : Whole s) : NextWhole (execLrp f s) := loadReserve_whole h

theorem execScp_whole (h : Whole s) : NextWhole (execScp f s) := storeConditional_whole h

theorem Whole.spillRange {blk : Operand} {body : Nat → Res} (h : Whole c.st) (hbody : ∀ (a : Nat), (body a).Whole) :
    (c.spillRange blk body).Whole := .ite .fault (.ite (.ite (.moved h.exhaust) .fault) (hbody _))

theorem execSpill_whole (h : Whole s) : NextWhole (execSpill f s) :=
  issueInstr_whole h (fun _ h' => h'.spillRange (fun _ => .done h'.keep.updWave))

theorem execFill_whole (h : Whole s) : NextWhole (execFill f s) := by
  unfold execFill
  refine issueInstr_whole h (fun x0 h' => h'.spillRange (fun x0 => ?_))
  split
  · dsimp only
    split
    · exact .moved h'.uncorrectable
    · exact .done h'.updWave
  · dsimp only
    split
    · exact .moved h'.uncorrectable
    · exact .done h'.updWave

/-! ### CopyEngine -/

theorem execBcin_whole (h : Whole s) : NextWhole (execBcin f s) := by
  unfold execBcin
  refine issueInstr_whole h (fun x0 h' => ?_)
  split
  · exact .fault
  · exact h'.command

theorem execBcout_whole (h : Whole s) : NextWhole (execBcout f s) := by
  unfold execBcout
  refine issueInstr_whole h (fun x0 h' => ?_)
  dsimp only
  split
  · exact .fault
  · exact h'.command

theorem execBfill_whole (h : Whole s) : NextWhole (execBfill f s) := by
  unfold execBfill
  refine issueInstr_whole h (fun x0 h' => ?_)
  dsimp only
  split
  · exact .fault
  · exact h'.command

theorem execBgath_whole (h : Whole s) : NextWhole (execBgath f s) := by
  unfold execBgath
  refine issueInstr_whole h (fun x0 h' => ?_)
  split
  · dsimp only
    split
    · exact .fault
    · exact h'.command
  · dsimp only
    split
    · exact .fault
    · exact h'.command

theorem execBscat_whole (h : Whole s) : NextWhole (execBscat f s) := by
  unfold execBscat
  refine issueInstr_whole h (fun x0 h' => ?_)
  split
  · dsimp only
    split
    · exact .fault
    · exact h'.command
  · dsimp only
    split
    · exact .fault
    · exact h'.command

theorem execMatom_whole (h : Whole s) : NextWhole (execMatom f s) := by
  unfold execMatom
  refine issueInstr_whole h (fun x0 h' => ?_)
  split
  · dsimp only
    split <;> exact .fault
  · dsimp only
    split
    · exact .fault
    · exact h'.command

theorem execMred_whole (h : Whole s) : NextWhole (execMred f s) := by
  unfold execMred
  refine issueInstr_whole h (fun x0 h' => ?_)
  dsimp only
  split
  · exact .fault
  · exact h'.command

theorem execMcas_whole (h : Whole s) : NextWhole (execMcas f s) := by
  unfold execMcas
  refine issueInstr_whole h (fun x0 h' => ?_)
  split
  · dsimp only
    split <;> exact .fault
  · dsimp only
    split
    · exact .fault
    · exact h'.command

theorem execXsum_whole (h : Whole s) : NextWhole (execXsum f s) := by
  unfold execXsum
  refine issueInstr_whole h (fun x0 h' => ?_)
  dsimp only
  split
  · exact .fault
  · exact h'.command

theorem execXrd_whole (h : Whole s) : NextWhole (execXrd f s) := by
  unfold execXrd
  refine issueInstr_whole h (fun x0 h' => ?_)
  dsimp only
  split
  · exact .fault
  · exact h'.command

theorem execXclr_whole (h : Whole s) : NextWhole (execXclr f s) := by
  unfold execXclr
  refine issueInstr_whole h (fun x0 h' => ?_)
  dsimp only
  split
  · exact .fault
  · exact h'.command

theorem Whole.prefetch (h : Whole s) : Whole (s.prefetch facet core ctx va) := by
  unfold State.prefetch
  split
  next e => exact .ite (h.translate.of_snd e).touch (h.translate.of_snd e)
  next e => exact h.translate.of_snd e

theorem execPref_whole (h : Whole s) : NextWhole (execPref f s) :=
  issueInstr_whole h (fun _ h' => .ite (.wait h') (.done (h'.foldl (fun _ _ ht' => ht'.prefetch))))

/-! ### Objects -/

theorem Whole.setEsc {die : Nat} {q : List Msg} {rs : List Waiter} (h : Whole s) : Whole (s.setEsc die q rs) := h.keep

theorem Whole.updObj {f : Obj → Obj} (h : Whole s) : Whole (s.updObj facet idx f) := by
  unfold State.updObj
  refine .ite ?_ h.updFacet
  split
  · exact h.setEsc
  · exact h

theorem Whole.calls {body : Res} (hbody : body.Whole) : (c.calls body).Whole := .ite .fault hbody

theorem Whole.onObject {types : List Nat} {body : Word → Res} (h : Whole c.st) (hb : ∀ x, (body x).Whole) :
    (c.onObject types body).Whole := by
  unfold Ctx.onObject
  split
  next e => exact h.readHandles e
  next =>
    split
    · exact .fault
    · exact hb _

theorem Whole.call {y : Call} {reg : Option Nat} {rel : Bool} {status : Byte} (h : Whole c.st) :
    (c.call y reg rel status).Whole := h.command

theorem execWspawn_whole (h : Whole s) : NextWhole (execWspawn f s) := issueInstr_whole h (fun _ h' => Whole.calls (.ite .fault h'.call))

theorem execWkill_whole (h : Whole s) : NextWhole (execWkill f s) := by
  refine issueInstr_whole h fun c hc => Whole.calls (hc.onObject fun x => ?_)
  dsimp only
  split
  next e =>
    cases e ▸ hc.call with
    | done ht => exact .done (.ite ht.updWave ht)
  next => exact hc.call

theorem execPnew_whole (h : Whole s) : NextWhole (execPnew f s) := issueInstr_whole h (fun _ h' => Whole.calls (.ite .fault h'.call))

theorem execPsend_whole (h : Whole s) : NextWhole (execPsend f s) := by
  unfold execPsend
  refine issueInstr_whole h (fun x0 h' => Whole.calls (h'.onObject (fun x0 => .ite .fault ?_)))
  split
  · exact .fault
  · exact h'.call

theorem execPrecv_whole (h : Whole s) : NextWhole (execPrecv f s) := by
  unfold execPrecv
  refine issueInstr_whole h (fun x0 h' => Whole.calls (h'.onObject (fun x0 => .ite .fault ?_)))
  split
  · exact .fault
  · exact h'.call

theorem execSnew_whole (h : Whole s) : NextWhole (execSnew f s) := issueInstr_whole h (fun _ h' => Whole.calls h'.call)

theorem Whole.onMember {body : Word → Word → Res} (h : Whole c.st) (hb : ∀ x y, (body x y).Whole) : (c.onMember body).Whole := by
  unfold Ctx.onMember
  split
  next e => exact h.readHandles e
  next =>
    split
    · exact .ite (hb _ _) .fault
    · exact .fault

theorem execSadd_whole (h : Whole s) : NextWhole (execSadd f s) := issueInstr_whole h (fun _ h' => Whole.calls (h'.onMember (fun _ _ => h'.call)))

theorem execSdel_whole (h : Whole s) : NextWhole (execSdel f s) := issueInstr_whole h (fun _ h' => Whole.calls (h'.onMember (fun _ _ => h'.call)))

theorem execWwait_whole (h : Whole s) : NextWhole (execWwait f s) := by
  unfold execWwait
  refine issueInstr_whole h (fun x0 h' => h'.onObject (fun x0 => ?_))
  split
  · refine .ite .fault ?_
    split
    · exact .done h'.write
    · exact .ite (.done h'.write) (.done h'.parks)
  · exact .done h'.write

theorem execTnew_whole (h : Whole s) : NextWhole (execTnew f s) := issueInstr_whole h (fun _ h' => Whole.calls h'.call)

theorem execTarm_whole (h : Whole s) : NextWhole (execTarm f s) := issueInstr_whole h (fun _ h' => Whole.calls (h'.onObject (fun _ => h'.call)))

theorem execTdis_whole (h : Whole s) : NextWhole (execTdis f s) := issueInstr_whole h (fun _ h' => Whole.calls (h'.onObject (fun _ => h'.call)))

theorem execOlook_whole (h : Whole s) : NextWhole (execOlook f s) := issueInstr_whole h (fun _ h' => Whole.calls (.ite .fault h'.call))

theorem bindInstr_whole {pub : Bool} (h : Whole s) : NextWhole (bindInstr f s pub) :=
  issueInstr_whole h (fun _ h' => Whole.calls (h'.onObject (fun _ => .ite h'.call .fault)))

theorem execObind_whole (h : Whole s) : NextWhole (execObind f s) := bindInstr_whole h

theorem execObindPub_whole (h : Whole s) : NextWhole (execObindPub f s) := bindInstr_whole h

theorem execObindUnb_whole (h : Whole s) : NextWhole (execObindUnb f s) := issueInstr_whole h (fun _ h' => Whole.calls (.ite h'.call .fault))

theorem execOfree_whole (h : Whole s) : NextWhole (execOfree f s) := issueInstr_whole h (fun _ h' => Whole.calls (h'.onObject (fun _ => h'.call)))

theorem execOinfo_whole (h : Whole s) : NextWhole (execOinfo f s) := issueInstr_whole h (fun _ h' => h'.onObject (fun _ => h'.call))

/-! ### Calls -/

theorem Whole.updCmd {f : Cmd → Cmd} (h : Whole s) : Whole (s.updCmd gid wid cls seq f) := h.updWave

theorem Whole.perform {status : Byte} (h : Whole s) : Whole (s.perform gid wid cls seq status) := h.updCmd

theorem Whole.deliverTo {o : Operand} {wide : Bool} {m : Mask} {val : Nat → Nat} (h : Whole s) : Whole (s.deliverTo gid wid o wide m val) := by
  unfold State.deliverTo
  split
  · split
    · exact h
    · exact (Whole.ite h.newClock h).updGroup.endClock
  · exact h.updGroup

theorem Whole.create {kind : Word → ObjKind} (h : Whole s) : Yields (fun x => x.1) (s.create facet ctx kind) := .ite .none (.some h.updFacet)

theorem Whole.freeIndex (h : Whole s) : Whole (s.freeIndex facet idx) := h.updFacet

theorem Whole.dropTlb (h : Whole s) : Whole (s.dropTlb ctx va) := h.keep

theorem Whole.takeGrants {dest : Dest} {pages : List DWord} (h : Whole s) : Whole (s.takeGrants ctx dest pages) := by
  unfold State.takeGrants
  refine .ite (h.foldl (fun t x ht => ?_)).keep (h.foldl (fun t x ht => ?_))
  · split
    · exact ht.storeMain.dropTlb
    · exact ht
  · split
    · exact ht.storeMain.dropTlb
    · exact ht

theorem Whole.rekey {owner frame : Nat} (h : Whole s) : Whole (s.rekey owner ctx frame) := .ite h h.writeRaw

theorem Whole.install {gva : Nat} {m : Msg} (h : Whole s) : Whole (s.install ctx gva m) := by
  unfold State.install
  refine h.foldl (fun t x ht => ?_)
  split
  · exact (Whole.ite (Whole.ite ht ht.rekey).keep (.ite ht ht.rekey)).storeMain
  · exact ht

theorem Whole.takeMsg {die loc cap gva d : Nat} {m : Msg} (h : Whole s) : Whole (s.takeMsg gid wid seq die sp loc cap gva d m).1 := by
  unfold State.takeMsg
  split
  · exact h
  · split
    · exact h.perform
    · exact h.install.beginLanding

theorem Whole.updPort' {f : List Msg → List Waiter → List Waiter → List Msg × List Waiter × List Waiter} (h : Whole s) :
    Whole (s.updPort' facet idx f) := h.updObj

theorem Whole.serve (h : Whole s) : Whole (State.serve n s facet idx) := by
  induction n generalizing s with
  | zero => exact h
  | succ n ih =>
    unfold State.serve
    split
    · dsimp only
      split
      · exact ih h.updPort'
      · exact ih (Whole.ite h.updPort'.takeMsg.updPort' h.updPort'.takeMsg)
    · exact h

theorem Whole.deposit {m : Msg} (h : Whole s) : Whole (s.deposit facet idx m) := h.updPort'.serve

theorem Whole.grantThen {dest : Dest} {pages : List DWord} {held : Option (List (Nat × Bool))} {go : State → List (Nat × Bool) → State} (h : Whole
    s) (hgo : ∀ (a : State) (a_1 : List (Nat × Bool)), Whole a → Whole (go a a_1)) :
    Whole (s.grantThen g wid k dest pages held go) := .ite (hgo _ _ (.ite h h.takeGrants)) (Whole.ite h h.takeGrants).updCmd

theorem Whole.placeSenders (h : Whole s) : Whole (State.placeSenders n s facet idx) := by
  induction n generalizing s with
  | zero => exact h
  | succ n ih =>
    unfold State.placeSenders
    split
    · dsimp only
      split
      · exact h
      · split
        · exact ih h.updPort'.deposit
        · split
          · split
            · exact Whole.ite (ih h.updPort'.perform)
                (Whole.ite (ih h.updPort'.perform) (h.grantThen fun _ _ h' => ih h'.updPort'.perform.deposit))
            · exact ih h.updPort'
          · exact ih h.updPort'
    · exact h

theorem Whole.admitSender (h : Whole s) : Whole (s.admitSender facet idx) := by
  unfold State.admitSender
  split
  · exact h.placeSenders
  · exact h

theorem Whole.spawnFree {r : Nat → Word} (h : Whole s) : Yields (fun x => x.1) (s.spawnFree g facet r) := by
  unfold State.spawnFree
  refine .ite .none ?_
  split
  · dsimp only
    split
    · exact .none
    next e => exact .some (h.create _ e).dropCode.keep.updFacet
  · dsimp only
    split
    · exact .none
    next e => exact .some (h.create _ e).dropCode.keep.updFacet

theorem Whole.closePort {ws : List Waiter} (h : Whole s) : Whole (s.closePort ws) := h.foldl (fun _ _ ht => .ite ht ht.perform)

theorem Whole.dropMessages {ms : List Msg} (h : Whole s) : Whole (s.dropMessages ms) := by
  unfold State.dropMessages
  refine h.returnLent.foldl (fun t x ht => ?_)
  split
  · exact ht.sendFlit
  · exact ht

theorem Whole.freeObj {o : Obj} (h : Whole s) : Whole (s.freeObj facet o) := by
  unfold State.freeObj
  refine Whole.freeIndex ?_
  split
  · exact h.dropGroup
  · exact h.closePort.dropMessages.keep
  · exact h

theorem Whole.created {o : Option (State × Word)} (h : Whole s) (ho : Yields Prod.fst o) : Whole (s.created gid wid seq o) := by
  unfold State.created
  split
  · exact h.perform
  · exact (ho _ rfl : Whole _).updCmd

theorem Whole.addMember {y0 y : Word} {tag : Nat} {members : SMap Nat} (h : Whole s) : Yields id (s.addMember y0 y tag members) :=
  .ite .none (.some h.updObj)

theorem Whole.doCall {call : Call} (h : Whole s) : Whole (s.doCall g w k ans call) := by
  unfold State.doCall
  cases call with
  | wspawn => exact h.unless (h.created h.spawnFree)
  | wkill =>
    dsimp only
    split
    · exact h.perform
    · split
      · exact h.perform.endFree
      · exact h.perform
  | pnew => exact h.created h.create
  | psend =>
    -- What a message that leaves is checked for first stands before either way that it takes.
    have away {c : Prop} [Decidable c] {b b' : Bool} {st st' : Byte} {u : State} (hu : Whole u) :
        Whole (if c then u else if b then s.perform g.id w.id 6 k.seq st else if b' then s.perform g.id w.id 6 k.seq st' else u) :=
      .ite hu (.ite h.perform (.ite h.perform hu))
    dsimp only
    split
    · exact h.grantThen (fun _ _ h' => h'.perform.dropMessages)
    · exact h.perform
    · split
      · exact away (.ite (.ite h.perform (.ite h.perform h.updCmd.updPort')) (h.grantThen (fun _ _ h' => h'.perform.deposit)))
      · exact .ite h.returnLent.perform (.ite h (.ite (.ite h.perform (.ite h h.updCmd)) (.ite (.ite h.perform h)
          (away (h.grantThen (fun _ _ h' => h'.keep.perform))))))
      · exact h.perform
  | precv =>
    dsimp only
    split
    · exact h.serve.perform
    · split
      · split
        · exact .ite h.serve.perform (.ite h.serve.perform h.serve.updCmd.updPort')
        · exact .ite h.serve.takeMsg.updPort'.admitSender h.serve.takeMsg
      · exact h.serve.perform
  | snew => exact h.created h.create
  | sadd =>
    dsimp only
    split
    · exact h.perform
    · split
      · exact h.perform
      · split
        · split
          next e => exact (h.addMember _ e).perform
          · exact h.perform
        · exact h.perform
  | sdel =>
    dsimp only
    split
    · exact h.perform
    · split
      · exact h.perform
      · exact h.updObj.perform
  | tnew => exact h.created h.create
  | tarm =>
    dsimp only
    split
    · exact h.perform
    · exact h.updObj.perform
  | tdis =>
    dsimp only
    split
    · exact h.perform
    · exact h.updObj.perform
  | olook =>
    refine .ite ?_ (.ite h.perform (.ite (.ite h.perform h) (h.created h.create)))
    dsimp only
    split
    · exact h.created (.some h)
    · exact h.perform
  | obind =>
    dsimp only
    split
    · exact h.perform
    · exact .ite h.perform (.ite h.perform h.keep.perform)
  | ounb => exact .ite h.keep.perform h.perform
  | ofree =>
    dsimp only
    split
    · exact h.perform
    · exact .ite h.perform (.ite h h.freeObj.perform)
  | oinfo =>
    dsimp only
    split
    · exact h.perform
    · exact h.deliverTo.perform

theorem Whole.serveEsc (h : Whole s) : Whole s.serveEsc := .ite h (h.foldl (fun _ _ ht => ht.serve))

theorem Whole.servePorts (h : Whole s) : Whole s.servePorts := h.serveEsc.foldl (fun _ _ ht => ht.admitSender)

theorem Whole.wakeWave (h : Whole s) : Whole (s.wakeWave gid w) := by
  unfold State.wakeWave
  split
  · split
    · exact h
    · exact h.deliverTo.updWave
  · exact h

theorem Whole.wakeAll (h : Whole s) : Whole s.wakeAll := h.foldl (fun _ _ ht => ht.foldl (fun _ _ ht' => ht'.wakeWave))

/-! ### Memory -/

theorem Whole.resetMig (h : Whole s) : Whole (s.resetMig page) := h.keep

theorem Whole.moveKeys {old new size : Nat} (h : Whole s) : Whole (s.moveKeys old new size) := h.keep

theorem execPageMigrate_whole {va : DWord} {frame : Nat} (h : Whole s) : NextWhole (execPageMigrate ctx va facet frame s) := by
  unfold execPageMigrate
  split
  · exact .next h
  · split
    · exact .ite (.next h) (.ite (.next h.resetMig) (.ite (.next h) (.next (h.recallRange.storeMain.keep.moveCode.foldl (fun _ _ ht =>
        ht.storeMain)).keep.moveKeys.resetMig)))
    · exact .next h

theorem Whole.flipHost (h : Whole s) : Whole (s.flipHost page) := h.keep.dropLines

theorem Whole.flipDevice (h : Whole s) : Whole (s.flipDevice page) := h.keep

theorem Whole.forHost {a : Nat} (h : Whole s) : Yields id (s.forHost a n) := .ite .none (.some (h.foldl (fun _ _ ht => ht.flipHost)).recallRange)

theorem Whole.hostTakes {a : Nat} (h : Whole s) : Whole (s.hostTakes a n) := h.keep

theorem execHostMemAccess_whole {pa : Nat} {write : Bool} (h : Whole s) : NextWhole (execHostMemAccess pa write bytes s) := by
  unfold execHostMemAccess
  refine .ite (.next (.ite (.ite h.applyMain h.storeMain) h)) (.ite (.next h) ?_)
  split
  · exact .next h
  next e => exact .next (Whole.ite (h.forHost _ e).storeMain (h.forHost _ e)).hostTakes

theorem execHostRecall_whole {pa : Nat} (h : Whole s) : NextWhole (execHostRecall pa s) := .next (.ite h.recallRange h)

theorem Whole.hostWord {v : DWord} (h : Whole s) : Whole (s.hostWord ctx key v) :=
  .ite h (.ite (h.getD (h.forHost.map fun _ ht => ht.storeMain)) h.storeMain)

theorem execTailWrite_whole {v : DWord} (h : Whole s) : NextWhole (execTailWrite qid v s) := by
  unfold execTailWrite
  split
  · exact .next h
  · exact .next h.hostWord

theorem execCancelWordWrite_whole {v : DWord} (h : Whole s) : NextWhole (execCancelWordWrite lid v s) := by
  unfold execCancelWordWrite
  split
  · exact .next h
  · exact .next (h.elim (fun _ => h.hostWord))

/-! ### Convert -/

theorem execCvt_whole (h : Whole s) : NextWhole (execCvt f s) := issueInstr_whole h (fun _ h' => .done h'.write)

theorem execCvti_whole (h : Whole s) : NextWhole (execCvti f s) := issueInstr_whole h (fun _ h' => .done h'.writeTy)

theorem execPack_whole (h : Whole s) : NextWhole (execPack f s) := issueInstr_whole h (fun _ h' => .done h'.write)

theorem execUnpk_whole (h : Whole s) : NextWhole (execUnpk f s) := issueInstr_whole h (fun _ h' => .done h'.write)

theorem Whole.writeBlock {base : Nat} {val : Nat → Nat → Nat} (hs : Whole s) : Whole (c.writeBlock s base n val) :=
  hs.foldl (fun _ _ ht => ht.updWave)

theorem execQblk_whole (h : Whole s) : NextWhole (execQblk f s) := issueInstr_whole h (fun _ h' => .done h'.writeBlock)

theorem execDqblk_whole (h : Whole s) : NextWhole (execDqblk f s) := issueInstr_whole h (fun _ h' => .done h'.writeBlock)

/-! ### Matrix -/

theorem Whole.matrix {m : MatCmd} (h : Whole c.st) : (c.matrix m).Whole := h.command

theorem Whole.latches {m : MatCmd} {x : Res} (hx : x.Whole) : (c.latches m x).Whole := by
  cases hx with
  | done h => exact .ite (.done h) (.done h.updWave)
  | moved h => exact .moved h
  | wait h => exact .wait h
  | waitPort h => exact .waitPort h
  | fault => exact .fault

theorem Whole.multiply {m : MatCmd} {e : Nat} (h : Whole c.st) : (c.multiply m e).Whole := .ite .fault (.ite .fault (Whole.latches h.matrix))

theorem execMma_whole (h : Whole s) : NextWhole (execMma f s) := issueInstr_whole h (fun _ h' => h'.multiply)

theorem execMmab_whole (h : Whole s) : NextWhole (execMmab f s) := issueInstr_whole h (fun _ h' => h'.multiply)

theorem execMzero_whole (h : Whole s) : NextWhole (execMzero f s) := issueInstr_whole h (fun _ h' => h'.matrix)

theorem execMlda_whole (h : Whole s) : NextWhole (execMlda f s) := by
  unfold execMlda
  refine issueInstr_whole h (fun x0 h' => ?_)
  split
  · exact .fault
  · exact h'.matrix

theorem execMsta_whole (h : Whole s) : NextWhole (execMsta f s) := by
  unfold execMsta
  refine issueInstr_whole h (fun x0 h' => ?_)
  split
  · exact .fault
  · exact h'.matrix

theorem execMemit_whole (h : Whole s) : NextWhole (execMemit f s) := issueInstr_whole h (fun _ h' => .ite .fault h'.matrix)

theorem execMmap_whole (h : Whole s) : NextWhole (execMmap f s) := issueInstr_whole h (fun _ h' => .ite .fault (.done h'.updWave))

theorem execMrela_whole (h : Whole s) : NextWhole (execMrela f s) := by
  refine issueInstr_whole h fun c hc => .ite .fault ?_
  dsimp only
  split
  next e =>
    cases e ▸ hc.command with
    | done ht => exact .done (.ite ht.updWave ht)
  next => exact hc.command

theorem execMaddt_whole (h : Whole s) : NextWhole (execMaddt f s) := issueInstr_whole h (fun _ h' => h'.matrix)

theorem execMscl_whole (h : Whole s) : NextWhole (execMscl f s) := issueInstr_whole h (fun _ h' => h'.matrix)

/-! ### Tiles -/

theorem execNwant_whole (h : Whole s) : NextWhole (execNwant f s) := by
  refine issueInstr_whole h fun c hc => ?_
  dsimp only
  split
  · exact .fault
  · split
    next e =>
      cases e ▸ hc.command with
      | done ht => exact .done ht.count
    next => exact hc.command

theorem execNhave_whole (h : Whole s) : NextWhole (execNhave f s) := by
  unfold execNhave
  refine issueInstr_whole h (fun x0 h' => ?_)
  split
  · exact .fault
  · exact .ite .fault (.ite .fault h'.command)

theorem execNdrop_whole (h : Whole s) : NextWhole (execNdrop f s) := issueInstr_whole h (fun _ h' => .ite h'.command .fault)

theorem execNpeek_whole (h : Whole s) : NextWhole (execNpeek f s) := issueInstr_whole h (fun _ h' => .ite h'.command .fault)

theorem routeInstr_whole {ok : RouteBlock → Bool} {change : RouteBlock → List Route → List Route × Bool} (h : Whole s) :
    NextWhole (routeInstr f s ok change) := issueInstr_whole h (fun _ h' => .ite .fault (.ite .fault (.done h'.updRouter.write)))

theorem execNrouteAdd_whole (h : Whole s) : NextWhole (execNrouteAdd f s) := routeInstr_whole h

theorem execNrouteDel_whole (h : Whole s) : NextWhole (execNrouteDel f s) := routeInstr_whole h

theorem execNrouteClr_whole (h : Whole s) : NextWhole (execNrouteClr f s) := routeInstr_whole h

end Sys2Proof.Machine
end

section
/-! PROOF. O59: performed commands, traps, placement, queues, tasks and saves keep the package whole. -/

namespace Sys2Proof.Machine

open Sys2Proof

variable {s t : State} {c : Ctx} {f : Form} {g : Group} {w : Wave} {q : Queue} {l : Launch} {k : Cmd} {bytes : List Byte} {ans : Byte}
  {sp : Bool} {facet core ctx key n gid wid cls seq va page lid qid op r face idx : Nat}

/-! ### Perform -/

theorem Whole.storeLost {owner : Nat} (h : Whole s) : Whole (s.storeLost owner key n bytes) := h.foldl (fun _ _ ht => .ite ht.storeMain ht)

theorem Whole.sendStore {c : Cmd} (h : Whole s) : Whole (s.sendStore c ans va bytes) := by
  unfold State.sendStore
  split
  · exact h
  · exact .ite h.storePinned (.ite h.storeLost h)

theorem Whole.sendRow {c : Cmd} {a : Nat} (h : Whole s) : Whole (s.sendRow c ans a bytes) := h.foldl (fun _ _ ht => ht.sendStore)

theorem Whole.fetchRow {c : Cmd} {a loc : Nat} (h : Whole s) : Whole (s.fetchRow g c ans sp a loc n) := by
  unfold State.fetchRow
  refine h.foldl (fun t x ht => ?_)
  split
  · split
    · exact ht
    · exact .ite ht.storeLocal ht

theorem Whole.atHome {c : Cmd} {y0 : LaneArg} {new : Nat → Option Nat} (h : Whole s) : Whole (s.atHome c ans n y0 new).1 := by
  unfold State.atHome
  split
  · exact h
  · split
    · split
      · exact .ite h.storeLost h
      · exact h
    · dsimp only
      split
      · exact h.backInvalidate.recallRange.storeMain
      · exact h.backInvalidate.recallRange

theorem Whole.lanesAtHome {new : LaneArg → Nat → Option Nat} {xs : List LaneArg} (h : Whole s) :
    Whole (State.lanesAtHome k ans n new s xs).1 := by
  induction xs generalizing s with
  | nil => exact h
  | cons x xs ih => exact ih h.atHome

theorem Whole.copyEffect {c : Cmd} (h : Whole s) : Whole (s.copyEffect g w c ans) := by
  unfold State.copyEffect
  split
  · exact h.foldl (fun _ _ ht => ht.fetchRow)
  · exact h.foldl (fun _ _ ht => ht.sendRow)
  · exact h.foldl (fun _ _ ht => ht.sendRow)
  · exact h.deliverTo
  · exact h.foldl (fun _ _ ht => ht.fetchRow)
  · exact h.foldl (fun _ _ ht => ht.sendStore)
  · exact .ite h.lanesAtHome h.lanesAtHome.deliverTo
  · exact h.lanesAtHome.count.deliverTo
  · exact h.lanesAtHome
  · exact h.lanesAtHome.deliverTo
  · exact h.lanesAtHome
  · exact h

theorem Whole.countMain {e : Effect} {keys : List (Nat × Nat)} (h : Whole s) : Whole (s.countMain g e keys) := by
  unfold State.countMain
  split
  · split
    · exact h.count
    · exact .ite h.count.count h.count
  · split
    · exact h
    · exact .ite h.count h

theorem Whole.requests {c : Cmd} {es : List Effect} (h : Whole s) : Whole (s.requests facet ctx c ans es) := by
  unfold State.requests
  refine h.foldl (fun t x ht => ?_)
  split
  · exact .ite ht (.ite ht.touchPinned ht.countMig)
  · exact ht

theorem Whole.mendRanges {rs : List (Nat × Nat)} (h : Whole s) : Whole (s.mendRanges gid rs) := h.keep.updGroup

theorem Whole.mend {c : Cmd} {es : List Effect} (h : Whole s) : Whole (s.mend g c ans es) := .ite h h.mendRanges

theorem Whole.copyPieces {c : Cmd} {es : List Effect} {ks : List Cmd} (h : Whole s) : Whole (s.copyPieces g w c ans es ks) :=
  (h.foldl (fun _ _ ht => ht.copyEffect)).writtenBy.countMain.mend.requests

theorem Whole.performCopy {c : Cmd} (h : Whole s) : Whole (s.performCopy g w c ans) := h.copyPieces.perform

theorem Whole.performPiece {c : Cmd} {e : Effect} (h : Whole s) : Whole (s.performPiece g w c e) := by
  unfold State.performPiece
  dsimp only
  split
  · exact h.uncorrectable
  · exact .ite h.performCopy h.copyPieces.updCmd

theorem Whole.finishUnit (h : Whole s) : Whole (State.finishUnit n s gid wid cls seq) := by
  induction n generalizing s with
  | zero => exact h
  | succ n ih =>
    unfold State.finishUnit
    split
    · exact h
    · refine Whole.ite h ?_
      split
      · exact h.perform
      · exact Whole.ite (Whole.ite (ih h.performPiece) h.performPiece) h

theorem Whole.finishUnits (h : Whole s) : Whole (s.finishUnits gid) := by
  unfold State.finishUnits
  split
  · exact h
  · exact h.foldl (fun _ _ ht => ht.foldl (fun _ _ ht' => ht'.finishUnit))

theorem Whole.sampleLocal {c : Cmd} (h : Whole s) : Whole (s.sampleLocal g w c) := h.updCmd

theorem Whole.performMatrix {c : Cmd} {m : MatCmd} (h : Whole s) : Whole (s.performMatrix g w c m) := h.keep.updGroup.endClock.count.perform.drain

theorem Whole.progressMatrix {c : Cmd} {m : MatCmd} (h : Whole s) : Whole (s.progressMatrix g w c m) := by
  unfold State.progressMatrix
  split
  · exact h.updGroup.updCmd
  · exact h.updCmd

theorem Whole.performName {c : Cmd} (h : Whole s) : Whole (s.performName g w c) := by
  unfold State.performName
  split
  · exact h.updCmd.record
  · exact .ite h h.perform.tileAt
  · refine .ite h (h.updRouter.foldl (fun t x ht => ?_)).perform
    split
    · exact ht.cancelCmd
    · exact ht
  · exact h.deliverTo.perform
  · exact h

theorem Whole.performCmd {c : Cmd} (h : Whole s) : Whole (s.performCmd g w c ans) := by
  unfold State.performCmd
  split
  · split
    · exact h.uncorrectable
    · exact h.performMatrix
  · refine .ite h.perform ?_
    split
    · exact h.uncorrectable
    · split
      · exact .ite h.doCall h.doCall.count
      · exact .ite h.performName h.performCopy

theorem Whole.progress {c : Cmd} (h : Whole s) : Whole (s.progress g w c) := by
  unfold State.progress
  split
  · refine .ite ?_ (.ite h.sampleLocal h)
    split
    · exact h.doCall
    · exact h
  · refine .ite h (.ite h.updCmd (.ite h ?_))
    split
    · exact h.progressMatrix
    · split
      · exact h
      · refine .ite h.performPiece ?_
        split
        · exact (h.foldl (fun _ _ ht => ht.copyEffect)).writtenBy.updCmd
        · dsimp only
          split
          · exact h.uncorrectable
          · exact (h.foldl (fun _ _ ht => ht.copyEffect)).writtenBy.updCmd

theorem Whole.progressLanding {c : Cmd} (h : Whole s) : Whole (s.progressLanding g w c) := h.landBytes.updCmd

theorem Whole.postRequests {c : Cmd} (h : Whole s) : Whole (s.postRequests g w c) := .ite h (h.foldl (fun _ _ ht => ht.sendFlit)).updCmd

theorem execCommandComplete_whole (h : Whole s) : NextWhole (execCommandComplete gid wid cls seq ans s) := by
  unfold execCommandComplete
  split
  · exact .next h
  · refine .ite (.next h) (.next (Whole.ite (.ite h.postRequests (.ite h.progress h.performCmd)) (.ite (.ite h.progressLanding h.land) (.ite ?_
      h))).signal)
    split
    · exact .ite (.ite h h.doCall) (.ite h.doCall h.admitSender)
    · exact h.serve
    · exact h

/-! ### Traps -/

theorem execTrap_whole (h : Whole s) : NextWhole (execTrap f s) := issueInstr_whole h (fun _ h' => .moved h'.goOn.trapEntry)

theorem returnInstr_whole {form : Nat} (h : Whole s) : NextWhole (returnInstr form f s) :=
  settling_whole (issueInstr_whole h (fun _ h' => .ite .fault (.moved h'.updWave)))

theorem execRtt_whole (h : Whole s) : NextWhole (execRtt f s) := returnInstr_whole h

theorem execRttRpl_whole (h : Whole s) : NextWhole (execRttRpl f s) := returnInstr_whole h

theorem execRttEsc_whole (h : Whole s) : NextWhole (execRttEsc f s) := returnInstr_whole h

theorem execMpoint_whole (h : Whole s) : NextWhole (execMpoint f s) :=
  issueInstr_whole h (fun _ h' => .ite .fault (.done (.ite ((Whole.ite h' h'.updGroup).foldl (fun _ _ ht' => ht'.keep.drain)).parks ((Whole.ite h'
      h'.updGroup).foldl (fun _ _ ht' => ht'.keep.drain)))))

theorem Whole.answer {token : Nat} {retry : Bool} (h : Whole s) : Whole (s.answer token retry) := by
  unfold State.answer
  split
  · exact h
  · exact .ite h.applyAnswer h.updGroup

theorem Whole.postOne (h : Whole s) : Whole (s.postOne gid n) := h.updGroup

theorem Whole.postPreempt (h : Whole s) : Whole (s.postPreempt gid n) := by
  unfold State.postPreempt
  split
  · exact h
  · split
    · exact .ite (h.foldl (fun _ _ ht => ht.postOne)) h.postOne
    · exact h.postOne

theorem Whole.writePreempt {v : Nat} (h : Whole s) : Whole (s.writePreempt v) := by
  unfold State.writePreempt
  dsimp only
  split
  · exact h.postPreempt
  · exact h

theorem execSysr_whole (h : Whole s) : NextWhole (execSysr f s) := issueInstr_whole h (fun _ h' => .done h'.write)

theorem Whole.updFrame {u : Frame → Frame} (hs : Whole s) : Whole (c.updFrame s u) := hs.updWave

theorem execSysw_whole (h : Whole s) : NextWhole (execSysw f s) := by
  unfold execSysw
  refine issueInstr_whole h (fun x0 h' => ?_)
  split
  · refine .ite .fault ?_
    split
    · exact .ite (.done h'.updWave) .fault
    · exact .ite (.done h'.updFrame) .fault
    · exact .ite (.done h'.updFrame) .fault
    · split
      · exact .done h'.answer
      · exact .done h'.answer
      · exact .fault
    · exact .ite (.done h'.writePreempt) .fault
    · exact .fault
  · exact .fault

theorem execCntr_whole (h : Whole s) : NextWhole (execCntr f s) :=
  issueInstr_whole h (fun _ h' => .ite .fault (.ite .fault (.done (Whole.ite h'.updFacet h').write)))

theorem execMonctlClaim_whole (h : Whole s) : NextWhole (execMonctlClaim f s) :=
  issueInstr_whole h (fun _ h' => .ite (.done h'.updFacet.write) (.done h'.write))

theorem execMonctlFree_whole (h : Whole s) : NextWhole (execMonctlFree f s) := issueInstr_whole h (fun _ h' => .ite (.done h'.updFacet) .fault)

theorem execMonctlSet_whole (h : Whole s) : NextWhole (execMonctlSet f s) :=
  issueInstr_whole h (fun _ h' => .ite .fault (.ite .fault (.done h'.updFacet)))

theorem execMonctlRead_whole (h : Whole s) : NextWhole (execMonctlRead f s) := by
  unfold execMonctlRead
  refine issueInstr_whole h (fun x0 h' => .ite .fault ?_)
  split
  · exact .fault
  · exact .ite (.done h'.write) .fault

theorem invalidate_whole {a b : Allow} {ok : Ctx → Bool} {entry : Ctx → Nat → Nat → Nat → Bool} (h : Whole s) :
    NextWhole (invalidate f s a b ok entry) := issueInstr_whole h (fun _ h' => .ite .fault (.ite .fault (.ite (.wait h'.keep) (.done h'.keep))))

theorem execTlbinvVa_whole (h : Whole s) : NextWhole (execTlbinvVa f s) := invalidate_whole h

theorem execTlbinvCtx_whole (h : Whole s) : NextWhole (execTlbinvCtx f s) := invalidate_whole h

theorem execTlbinvAll_whole (h : Whole s) : NextWhole (execTlbinvAll f s) := invalidate_whole h

theorem execKeyselGen_whole (h : Whole s) : NextWhole (execKeyselGen f s) :=
  issueInstr_whole h (fun _ h' => .ite .fault (.ite .fault (.ite (.done h'.write) (.done h'.keep.write))))

theorem Whole.eraseKey {slot : Nat} (h : Whole s) : Whole (s.eraseKey slot) := h.keep

theorem execKeyselDel_whole (h : Whole s) : NextWhole (execKeyselDel f s) := by
  unfold execKeyselDel
  refine issueInstr_whole h (fun x0 h' => .ite .fault (.ite .fault ?_))
  split
  · exact .done h'.write
  · exact .ite (.wait h') (.done h'.eraseKey.write)

/-! ### Place -/

theorem Whole.finishStarted (h : Whole s) : Whole (s.finishStarted g) := by
  unfold State.finishStarted
  refine h.foldl (fun t x ht => ht.foldl (fun t x ht' => ?_))
  split
  · exact ht'.performCmd.signal
  · exact ht'

theorem Whole.toBench (h : Whole s) : Whole (s.toBench g) := by
  unfold State.toBench
  split
  · exact h.updFacet
  · exact h

theorem Whole.saveGroup {stat : GStat} {calls : Bool} (h : Whole s) : Whole (s.saveGroup gid stat calls) := by
  unfold State.saveGroup
  split
  · exact h
  · exact (Whole.ite (Whole.ite h.finishUnits.landAll.dropWaits h.finishUnits.landAll).toBench (.ite h.finishUnits.landAll.dropWaits
      h.finishUnits.landAll)).takeMatrix.setSpills.updGroup

theorem Whole.repin {c : Cmd} (h : Whole s) : Whole (s.repin gid wid c) := by
  unfold State.repin
  split
  · exact h
  · refine .ite h ?_
    dsimp only
    split
    next e₁ => exact (h.translateAll.of_snd e₁).updCmd
    next e₂ => exact .ite (h.translateAll.of_snd e₂).uncorrectable (.ite (h.translateAll.of_snd e₂).raiseFault (h.translateAll.of_snd e₂).updCmd)

theorem Whole.seat {cores : List Nat} (h : Whole s) : Yields id (s.seat gid facet cores) := by
  unfold State.seat
  split
  · exact .none
  · refine .ite .none ?_
    split
    · exact .none
    · exact .some ((h.keep.updGroup.setSpills.keep.foldl (fun _ _ ht => ht.drain)).foldl (fun _ _ ht => ht.foldl (fun _ _ ht' =>
        ht'.repin))).takeAnswers

/-! ### Queues -/

theorem Whole.nameFault {va : DWord} (h : Whole s) : Whole (s.nameFault facet ctx va) := .ite h h.keep.servePage

theorem Whole.queueFault {y0 : Byte × DWord} {err : Nat} (h : Whole s) : Whole (s.queueFault q facet y0 err) :=
  .ite h.cbWrite.abandon.nameFault h.queueError

theorem Whole.fetchKeys {vs : List (DWord × Access)} (h : Whole s) : Whole (s.fetchKeys facet ctx vs).2 := by
  induction vs generalizing s with
  | nil => exact h
  | cons v vs ih =>
    unfold State.fetchKeys
    split
    next e =>
      have ht := h.translate.of_snd e
      split
      next e' => exact (ih ht).of_snd e'
      next e' => exact (ih ht).of_snd e'
    next e =>
      have ht := h.translate.of_snd e
      split
      next e' => exact (ih ht).of_snd e'
      next e' => exact (ih ht).of_snd e'

theorem Whole.packetAt (h : Whole s) : Answers Prod.fst (s.packetAt q facet) := by
  unfold State.packetAt
  split
  next e => exact .error (h.fetchKeys.of_snd e).queueFault
  next e => exact .ok (h.fetchKeys.of_snd e)
  next e => exact .error (h.fetchKeys.of_snd e)

theorem Whole.consume (h : Whole s) : Whole (s.consume q key) := h.storeMain.cbWrite.setQueue

theorem Whole.processing {ty : Nat} {body : State → Queue → Nat → Held → State} (h : Whole s)
    (hb : ∀ t q f x, Whole t → Whole (body t q f x)) : Whole (s.processing qid ty body) := by
  unfold State.processing
  split
  · exact h
  · split
    · exact h
    · refine .ite h ?_
      split
      next e => exact h.packetAt.of_error e
      next e =>
        have ht := h.packetAt.of_ok e
        exact .ite h (.ite h (.ite ht.queueError (hb _ _ _ _ ht)))

theorem execPacketHeaderReread_whole (h : Whole s) : NextWhole (execPacketHeaderReread qid s) := by
  unfold execPacketHeaderReread
  split
  · exact .next h
  · split
    · exact .next h
    · refine .ite (.next h) ?_
      split
      next e => exact .next (h.packetAt.of_error e)
      next e =>
        have ht := h.packetAt.of_ok e
        exact .next (.ite ht.queueError ht.setQueue)

theorem execNopkt_whole (h : Whole s) : NextWhole (execNopkt qid s) := .next (h.processing (fun _ _ _ _ h' => h'.consume))

theorem execSignalPacket_whole (h : Whole s) : NextWhole (execSignalPacket qid s) := by
  refine .next (h.processing fun t q f x ht => .ite ht.queueError (.ite ht.queueError ?_))
  split
  next e =>
    have hk := ht.fetchKeys.of_snd e
    have hs : ∀ b : Bool, ∀ u v, Whole u → Whole v → Whole (if b then u else v) := fun _ _ _ hu hv => .ite hu hv
    dsimp only
    split
    · exact (hs _ _ _ hk.storeMain.keep hk.storeMain).consume
    · exact hs _ _ _ hk.storeMain.keep hk.storeMain
  next e => exact ht.fetchKeys.of_snd e
  next e => exact (ht.fetchKeys.of_snd e).queueFault

theorem dependBody_whole {x : Held} (h : Whole s) : Whole (dependBody s q facet x) := by
  unfold dependBody
  refine Whole.ite h.queueError (Whole.ite h.queueError ?_)
  split
  next e => exact (h.fetchKeys.of_snd e).queueFault
  next e => exact Whole.ite (h.fetchKeys.of_snd e).consume (h.fetchKeys.of_snd e).setQueue

theorem execDependPacket_whole (h : Whole s) : NextWhole (execDependPacket qid s) := .next (h.processing (fun _ _ _ _ h' => dependBody_whole h'))

theorem execDependRecheck_whole (h : Whole s) : NextWhole (execDependRecheck qid s) := by
  unfold execDependRecheck
  split
  · exact .next h
  · split
    · split
      next e => exact .next (h.packetAt.of_error e)
      next e =>
        have ht := h.packetAt.of_ok e
        exact .next (.ite ht.setQueue (.ite ht.queueError (dependBody_whole ht)))
    · exact .next h

theorem Whole.writeCompl {status : Nat} (h : Whole s) : Whole (s.writeCompl l status).1 := by
  unfold State.writeCompl
  split
  next e => exact (h.translate.of_snd e).storeMain
  next e =>
    split
    · exact (h.translate.of_snd e).nameFault
    · exact (h.translate.of_snd e).logEntry

theorem Whole.present (h : Whole s) : Whole (s.present q key l) := .ite h.keep.storeMain.storeMain.consume h.keep.storeMain.keep.setQueue

theorem execLaunchPacket_whole (h : Whole s) : NextWhole (execLaunchPacket qid s) := by
  unfold execLaunchPacket
  refine .next (h.processing (fun x0 x1 x2 x3 h' => .ite h'.queueError ?_))
  split
  next e₁ => exact (h'.fetchKeys.of_snd e₁).queueFault
  next e₂ => exact h'.fetchKeys.of_snd e₂
  next e₃ =>
    refine .ite (h'.fetchKeys.of_snd e₃).queueError ?_
    split
    next e₄ => exact ((h'.fetchKeys.of_snd e₃).fetchKeys.of_snd e₄).queueFault
    next e₅ => exact ((h'.fetchKeys.of_snd e₃).fetchKeys.of_snd e₅).present
    next e₆ => exact (h'.fetchKeys.of_snd e₃).fetchKeys.of_snd e₆

theorem execQueueStallResume_whole (h : Whole s) : NextWhole (execQueueStallResume qid s) := by
  unfold execQueueStallResume
  split
  · exact .next h
  · exact .next (.ite h.cbWrite.setQueue h)

theorem execQueueMap_whole (h : Whole s) : NextWhole (execQueueMap qid facet s) := by
  unfold execQueueMap
  split
  · exact .next h
  · exact .ite (.next h.cbWrite.keep) (.next h)

theorem Whole.unmap (h : Whole s) : Whole (s.unmap q) := (Whole.ite h.abandon h.abandon.cbWrite).setQueue

theorem execForcedUnmap_whole (h : Whole s) : NextWhole (execForcedUnmap facet cls s) := by
  unfold execForcedUnmap
  split
  · exact .next (.ite h.unmap h)
  · exact .next h

theorem execQueueIdleUnmap_whole (h : Whole s) : NextWhole (execQueueIdleUnmap qid s) := by
  unfold execQueueIdleUnmap
  split
  · exact .next h
  · split
    · exact .next h
    · exact .next (.ite h.unmap h)

theorem execQueueRegister_whole {cb : DWord} (h : Whole s) : NextWhole (execQueueRegister ctx cb s) := by
  unfold execQueueRegister
  split
  · exact .next h
  · split
    · exact .next h
    · exact .ite (.next h) (.next h.keep)

/-! ### Tasks -/

theorem Whole.accepted (h : Whole s) : Whole (s.accepted l q key) := h.keep.dropCode.consume

theorem execLaunchAccept_whole {places : List (Nat × List Nat)} (h : Whole s) : NextWhole (execLaunchAccept lid places s) := by
  unfold execLaunchAccept
  split
  · exact .next h
  · split
    · exact .next h
    · refine .ite (.next h) ?_
      split
      next e => exact .next (h.packetAt.of_error e)
      next e =>
        have ht := h.packetAt.of_ok e
        refine .ite (.next ht.accepted) (.ite (.next ht) ?_)
        split
        · exact .next ht
        next e => exact .next (ht.unless (ht.accepted.placeEach _ e : Whole _).updLaunch)

theorem Whole.takeBack {t : Task} (h : Whole s) : Whole (s.takeBack l t) := by
  unfold State.takeBack
  refine .ite h ?_
  split
  · exact h.postPreempt
  · exact h

theorem execGroupPlace_whole {cores : List Nat} (h : Whole s) : NextWhole (execGroupPlace lid facet cores s) := by
  unfold execGroupPlace
  split
  · exact .next h
  · split
    · exact .next h
    · refine .ite (.next h) (.ite (.next h.updLaunch) (.ite (.next h) (.ite (.next h) ?_)))
      split
      next e => exact .next (h.unless (h.placeTask _ e).updLaunch)
      · exact .next h.takeBack

theorem execAcqGrant_whole (h : Whole s) : NextWhole (execAcqGrant gid s) := by
  unfold execAcqGrant
  split
  · exact .next h
  · split
    · exact .next (.ite (h.unless h.grant) h)
    · exact .next h

theorem execRelLower_whole (h : Whole s) : NextWhole (execRelLower gid s) := by
  unfold execRelLower
  split
  · exact .next h
  · exact .next (.ite h.lower h)

theorem Whole.expireAllow (h : Whole s) : Whole (s.expireAllow g) := by
  unfold State.expireAllow
  split
  · exact .ite h.exhaust h
  · exact h

theorem execAllowExpiry_whole (h : Whole s) : NextWhole (execAllowExpiry gid s) := .next (h.elim fun _ => h.expireAllow)

theorem Whole.sendHeld {ports : List Nat} (h : Whole s) : Yields id (s.sendHeld ports) := .ite .none (.some (h.foldl (fun _ _ ht => ht.sendFlit)))

theorem Whole.retireOne {pc : DWord} {d : Deferred} (h : Whole s) : Whole (s.retireOne g w pc d).1 := by
  unfold State.retireOne
  obtain ⟨vas, acc⟩ := d.access
  dsimp only
  split
  next e =>
    have ht := h.translateAll.of_snd e
    split
    · exact ht.uncorrectable
    · split <;> exact ht.raiseFault
  next e =>
    have ht := h.translateAll.of_snd e
    split
    · exact ht.raiseFault
    · split
      · exact ht
      next e' =>
        have hu := ht.sendHeld _ e'
        cases d with
        | store => exact ((hu.foldl fun _ _ h => h.sendRow).mendRanges.foldl fun _ _ h => h.touchPinned).count
        | announce =>
          dsimp only
          split
          · exact ht
          · split
            · exact ht.uncorrectable
            · exact ht.tileAt
        | spawn => exact ht
        | atomic | xsum =>
          dsimp only
          split
          · exact ht.uncorrectable
          · split
            · exact ht.raiseFault
            · exact hu.copyPieces

theorem Whole.retireAll {ds : List (DWord × Deferred)} (h : Whole s) : Whole (s.retireAll g w ds).1 := by
  induction ds generalizing s with
  | nil => exact h
  | cons d ds ih =>
    unfold State.retireAll
    split
    next e => exact ih (h.retireOne.of_fst e)
    next e => exact h.retireOne.of_fst e

theorem Whole.retireTask (h : Whole s) : Whole (s.retireTask g) := by
  unfold State.retireTask
  split
  · exact .ite h.updLaunch.retireAll.updGroup h.updLaunch.retireAll.updLaunch.dropGroup.count
  · exact h

theorem execTaskRetire_whole (h : Whole s) : NextWhole (execTaskRetire gid s) := by
  unfold execTaskRetire
  split
  · exact .next h
  · exact .next (.ite h.retireTask h)

theorem Whole.finishLaunch (h : Whole s) : Whole (s.finishLaunch l) := by
  unfold State.finishLaunch
  split
  next e => exact (h.writeCompl.of_fst e).keep
  next e => exact h.writeCompl.of_fst e

theorem execLaunchComplete_whole (h : Whole s) : NextWhole (execLaunchComplete lid s) := by
  unfold execLaunchComplete
  split
  · exact .next h
  · exact .ite (.next h.finishLaunch) (.next h)

theorem Whole.abortRunning {l : Nat} (h : Whole s) : Whole (s.abortRunning l) := h.foldl (fun _ _ ht => ht.finishUnits.abortTask)

theorem execLaunchEnd_whole (h : Whole s) : NextWhole (execLaunchEnd lid s) := by
  unfold execLaunchEnd
  split
  · exact .next h
  · refine .ite (.next h) ?_
    dsimp only
    split
    · exact .next (.ite h.abortRunning.keep.updLaunch.logEntry h.abortRunning.keep.updLaunch.logEntry.finishLaunch)
    · exact .next h.abortRunning.keep.updLaunch.logEntry

theorem execFairnessRun_whole (h : Whole s) : NextWhole (execFairnessRun gid wid s) := .next h.updWave

theorem execSleepWake_whole (h : Whole s) : NextWhole (execSleepWake gid wid s) := by
  unfold execSleepWake
  split
  · exact .next h
  · split
    · exact .next (.ite h.updWave h)
    · exact .next h

theorem execTimerExpire_whole (h : Whole s) : NextWhole (execTimerExpire facet idx s) := by
  unfold execTimerExpire
  split
  · exact .next h
  · exact .ite (.next h.updObj.updFacet) (.next h)

/-! ### Save -/

theorem execResumeRetry_whole {token : Nat} (h : Whole s) : NextWhole (execResumeRetry token s) := .next h.answer

theorem execResumeEnd_whole {token : Nat} (h : Whole s) : NextWhole (execResumeEnd token s) := .next h.answer

theorem execPreemptWrite_whole {v : DWord} (h : Whole s) : NextWhole (execPreemptWrite v s) := .next (.ite h.writePreempt h)

theorem execPriorityPreempt_whole {id : Nat} (h : Whole s) : NextWhole (execPriorityPreempt id facet s) := by
  unfold execPriorityPreempt
  split
  · exact .next h
  · split
    · dsimp only
      split
      · exact .next h.postPreempt
      · exact .next h
    · dsimp only
      split <;> exact .next h

theorem execSaveDeadline_whole (h : Whole s) : NextWhole (execSaveDeadline gid s) := by
  unfold execSaveDeadline
  split
  · exact .next h
  · split
    · exact .next (.ite h.expireAllow (.ite h.updGroup h))
    · exact .next h

theorem execGroupSave_whole (h : Whole s) : NextWhole (execGroupSave gid s) := by
  unfold execGroupSave
  split
  · exact .next h
  · exact .ite (.next h) (.ite (.next (h.foldl (fun _ _ ht => ht.expireAllow))) (.next (h.foldl (fun _ _ ht => .ite ht.abortTask ht.saveGroup))))

theorem Whole.seatAll {gs : List Group} {ps : List (Nat × List Nat)} (h : Whole s) : Yields id (s.seatAll gs ps) := by
  induction gs generalizing s ps with
  | nil =>
    cases ps with
    | nil => exact .some h
    | cons => exact .none
  | cons g gs ih =>
    obtain - | ⟨⟨p, cores⟩, ps⟩ := ps
    · exact .none
    · unfold State.seatAll
      split
      · exact .none
      next e => exact ih (h.seat _ e)

theorem execGroupRestore_whole {places : List (Nat × List Nat)} (h : Whole s) : NextWhole (execGroupRestore gid places s) := by
  unfold execGroupRestore
  split
  · exact .next h
  · exact .ite (.next h) (.next (h.unless (h.getD h.seatAll)))

theorem execBenchPlace_whole (h : Whole s) : NextWhole (execBenchPlace facet core s) := by
  unfold execBenchPlace
  split
  · exact .next h
  · refine .ite (.next h) ?_
    split
    · exact .next h
    next e => exact .next (h.unless (h.seat _ e).updFacet)

theorem execStandDown_whole (h : Whole s) : NextWhole (execStandDown gid s) := by
  unfold execStandDown
  split
  · exact .next h
  · exact .next (.ite h.saveGroup.count h)

theorem execStoodDownWake_whole (h : Whole s) : NextWhole (execStoodDownWake gid s) := by
  unfold execStoodDownWake
  split
  · exact .next h
  · split
    · exact .next h
    · exact .next (.ite h.updGroup.updFacet h)

end Sys2Proof.Machine
end

section
/-! PROOF. O59: the host port, the network, links, contexts, the clock, handles, bitwise logic and heat keep the package whole. -/

namespace Sys2Proof.Machine

open Sys2Proof

variable {s t : State} {c : Ctx} {f : Form} {g : Group} {w : Wave} {q : Queue} {l : Launch} {k : Cmd} {bytes : List Byte} {ans : Byte}
  {sp : Bool} {facet core ctx key n gid wid cls seq va page lid qid op r face idx : Nat}

/-! ### HostPort -/

theorem Whole.updHost {f : HostRegs → HostRegs} (h : Whole s) : Whole (s.updHost f) := h.keep

theorem Whole.trained (h : Whole s) (ht : Whole t) : Whole (s.trained t) := .ite ht h

theorem execHostPortTrain_whole {rate width : Nat} {cxl : Bool} (h : Whole s) : NextWhole (execHostPortTrain rate width cxl s) :=
  .next (.ite h h.updHost)

theorem execHealthWrite_whole {v : DWord} (h : Whole s) : NextWhole (execHealthWrite v s) := .next (h.trained h.updHost)

theorem execDrvstatWrite_whole {v : DWord} (h : Whole s) : NextWhole (execDrvstatWrite v s) := .next (h.trained h.updHost)

theorem execRegisterWrite_whole {off : Nat} {v : DWord} (h : Whole s) : NextWhole (execRegisterWrite off v s) := .next (h.trained h.updHost)

theorem Whole.result {r : Byte} (h : Whole s) : Whole (s.result r) := h.updHost

theorem Whole.stateCommand {op : BitVec 4} {body : State → State} (h : Whole s) (hbody : ∀ (a : State), Whole a → Whole (body a)) :
    Whole (s.command op body) := .ite h (.ite h.updHost (.ite h.updHost.result (hbody _ h.updHost)))

theorem execDrvcmdBadOp_whole {op : BitVec 4} (h : Whole s) : NextWhole (execDrvcmdBadOp op s) :=
  .next (.ite (h.stateCommand (fun _ h' => h'.result)) h)

theorem Whole.clearQueue {action : Nat} (h : Whole s) : Whole (s.clearQueue q action) := by
  unfold State.clearQueue
  refine Whole.cbWrite (Whole.cbWrite (Whole.cbWrite ?_))
  dsimp only
  split
  · split
    next e => exact (h.fetchKeys.of_snd e).consume
    next e => exact (h.fetchKeys.of_snd e).cbWrite.setQueue
  · exact h.cbWrite.setQueue
  · exact h

theorem execQclear_whole (h : Whole s) : NextWhole (execQclear s) := by
  unfold execQclear
  refine .next (h.stateCommand (fun x0 h' => ?_))
  split
  · exact .ite h'.result h'.clearQueue.result
  · exact h'.result

theorem Whole.runBias (h : Whole s) : Whole s.runBias :=
  .ite h (.ite (h.foldl (fun _ _ ht => .ite ht.flipDevice ht.flipHost)).result (h.foldl (fun _ _ ht => .ite ht.flipDevice ht.flipHost)).updHost)

theorem execBias_whole (h : Whole s) : NextWhole (execBias s) := .next (h.stateCommand (fun _ h' => .ite h'.result h'.updHost.runBias))

theorem execPageans_whole (h : Whole s) : NextWhole (execPageans s) := .next (h.stateCommand (fun _ h' => .ite h'.result h'.answer.result))

theorem execFwupd_whole {accepted : Bool} {version : Nat} (h : Whole s) : NextWhole (execFwupd accepted version s) :=
  .next (h.stateCommand (fun _ h' => .ite h'.result (.ite h (.ite h'.result h'.updHost))))

theorem execFwupdSwitch_whole (h : Whole s) : NextWhole (execFwupdSwitch s) := by
  unfold execFwupdSwitch
  split
  · exact .next h
  · exact .next (h.updHost.logEntry.foldl (fun _ _ ht => ht.servePage)).result.updHost

theorem execLogset_whole (h : Whole s) : NextWhole (execLogset s) := .next (h.stateCommand (fun _ h' => .ite h'.result h'.updHost.result))

theorem execPrset_whole (h : Whole s) : NextWhole (execPrset s) := .next (h.stateCommand (fun _ h' => .ite h'.result h'.updHost.result))

theorem execAttest_whole (h : Whole s) : NextWhole (execAttest s) := .next (h.stateCommand (fun _ h' => .ite h'.result h'.writeRaw.result))

theorem Whole.saveFacet (h : Whole s) : Whole (s.saveFacet facet) :=
  h.foldl (fun _ _ ht => ht.foldl (fun _ _ ht' => .ite ht' (.ite ht'.updGroup (.ite ht'.abortTask ht'.finishStarted.saveGroup))))

theorem execDrain_whole (h : Whole s) : NextWhole (execDrain s) :=
  .next (h.stateCommand (fun _ h' => .ite h'.result (((h'.updHost.foldl (fun _ _ ht' => ht'.foldl (fun _ _ ht'' => ht''.unmap))).foldl (fun _ _
      ht' => ht'.saveFacet)).foldl (fun _ _ ht' => ht'.updFacet))))

theorem Whole.drainSector {key : List Byte} {dest base sec : Nat} (h : Whole s) : Whole (s.drainSector key dest base sec) := h.writeRaw

theorem execDrainComplete_whole (h : Whole s) : NextWhole (execDrainComplete s) :=
  .ite (.next (.ite (h.foldl (fun _ _ ht => ht.saveFacet)) h)) (.next ((Whole.ite (h.foldl (fun _ _ ht => ht.saveFacet)) h).foldl (fun _ _ ht =>
      ht.foldl (fun _ _ ht' => ht'.drainSector))).updHost.result)

theorem Whole.startFirmware {b : Boot} (h : Whole s) : Whole (s.startFirmware b) :=
  .ite h.updHost (h.foldl (fun _ _ ht => ht.writeRaw)).updHost.keep

theorem execColdReset_whole {b : Boot} (h : Whole s) : NextWhole (execColdReset b s) := by
  refine .next (Whole.startFirmware (whole_iff.2 ⟨?_, rfl, ?_, ?_, rfl⟩))
  · exact Memory.wf_filter s.mem (fun c => decide (2 ^ 48 ≤ c.1)) h.mem_wf
  · rw [List.length_map, List.length_range]
  · rw [List.length_map, List.length_range]

/-! ### Network -/

theorem Whole.takeNet (h : Whole s) : Yields Prod.snd (s.takeNet n) := by
  rintro _ e
  obtain ⟨m, -, rfl⟩ := Option.map_eq_some_iff.1 e
  exact h.keep

theorem execInterestArrive_whole {i : Nat} (h : Whole s) : NextWhole (execInterestArrive i s) := by
  unfold execInterestArrive
  split
  next e => exact .next (h.takeNet _ e).record
  · exact .next h

theorem execTileArrive_whole {i : Nat} (h : Whole s) : NextWhole (execTileArrive i s) := by
  unfold execTileArrive
  split
  next e => exact .next (.ite h (h.takeNet _ e).tileAt)
  · exact .next h

theorem Whole.expireDue {key : TileKey} (h : Whole s) : Whole (s.expireDue r key) := by
  unfold State.expireDue
  split
  · exact h
  · exact h.updRouter.foldl (fun _ _ ht => ht.expireRec)

theorem execInterestExpire_whole {key : TileKey} (h : Whole s) : NextWhole (execInterestExpire r key s) := .next h.expireDue

theorem execShelfCopyExpire_whole {key : TileKey} (h : Whole s) : NextWhole (execShelfCopyExpire r key s) := .next h.updRouter

theorem execExpiryNotice_whole {i : Nat} (h : Whole s) : NextWhole (execExpiryNotice i s) := by
  unfold execExpiryNotice
  split
  next e =>
    split
    · exact .next (h.takeNet _ e).expireEntry
    · exact .next (h.takeNet _ e)
  · exact .next h

theorem Whole.expireRouter (h : Whole s) : Whole (s.expireRouter r) := (h.foldl (fun _ _ ht => ht.expireDue)).updRouter

/-! ### Links -/

theorem Whole.portLog {kind p : Nat} (h : Whole s) : Whole (s.portLog kind p) := h.logEntry

theorem Whole.loseRequest {tag : Nat × Nat × Nat × Nat} {peers : List Nat} (h : Whole s) : Whole (s.loseRequest tag peers) := h.updCmd

theorem Whole.retirePort {p : Nat} (h : Whole s) : Whole (s.retirePort p) :=
  .ite h (h.updPort.keep.keep.foldl (fun _ _ ht => ht.loseRequest)).faceDown.portLog

theorem Whole.drainHour (h : Whole s) : Whole (s.drainHour r) := .ite h h.updRouter.keepLengths

theorem Whole.addToken {p : Nat} (h : Whole s) : Whole (s.addToken p) := .ite h.drainHour.updPort.retirePort h.drainHour.updPort

theorem Whole.retrain {p : Nat} (h : Whole s) : Whole (s.retrain p) := .ite h.addToken h.addToken.updPort.portLog

theorem Whole.forPeer {peer pa : Nat} {new : Nat → Nat} (h : Whole s) : Whole (s.forPeer peer pa n new) := by
  unfold State.forPeer
  split
  · exact h.storeMain
  · exact h

theorem Whole.fromPeer {y0 : Word} {nw : Bool} {m : Msg} (h : Whole s) : Whole (s.fromPeer y0 nw m) := by
  unfold State.fromPeer
  split
  · exact .ite h.deposit (.ite h h.updPort')
  · exact h

theorem Whole.peerRequest {p peer : Nat} {r : PeerReq} (h : Whole s) : Whole (s.peerRequest p peer r) := by
  unfold State.peerRequest
  split
  · exact h.keep
  · exact h.sendFlit
  · refine Whole.sendFlit ?_
    split
    · exact h.storeMain
    · exact h
  · exact h.forPeer.sendFlit
  · exact h.forPeer.sendFlit
  · exact h.forPeer.sendFlit
  · exact h.sendFlit
  · exact h.fromPeer.sendFlit
  · exact h.keep

theorem Whole.resend {p from_ : Nat} {failed : Nat → Sent → Bool} (h : Whole s) : Whole (s.resend p from_ failed) :=
  .ite h (.ite h.updPort.retrain h.updPort)

theorem Whole.sendFailed {p : Nat} (h : Whole s) : Whole (s.sendFailed p seq) := .ite h h.resend

theorem Whole.takeFlit {p : Nat} {f : Flit} (h : Whole s) : Whole (s.takeFlit p f) := by
  unfold State.takeFlit
  refine .ite h ?_
  split
  · exact .ite ((Whole.ite h.updPort h).updPort.elim (fun _ => .ite (Whole.ite h.updPort h).updPort.peerRequest (Whole.ite h.updPort h).updPort))
      (Whole.ite h.updPort h).updPort
  · exact .ite (Whole.ite h.updPort h).sendFailed (.ite h.updPort h)
  · exact .ite h.updPort h

theorem execFlitReceive_whole {p : Nat} {f : Flit} (h : Whole s) : NextWhole (execFlitReceive p f s) := .next h.takeFlit

theorem execReplayRequest_whole {p : Nat} {f : Flit} (h : Whole s) : NextWhole (execReplayRequest p f s) := .next (.ite h.takeFlit h)

theorem execAckTimeout_whole {p : Nat} (h : Whole s) : NextWhole (execAckTimeout p s) := .next (.ite h.resend h)

theorem execLinkTraining_whole {p : Nat} {maskA maskB : BitVec 4} {speedsA speedsB : BitVec 3} {verified : Bool} (h : Whole s) :
    NextWhole (execLinkTraining p maskA maskB speedsA speedsB verified s) := by
  unfold execLinkTraining
  refine .ite (.next h) ?_
  split
  · exact .next h.updPort
  · exact .next h.updPort.portLog.addToken

theorem execTrainingRetry_whole {p : Nat} (h : Whole s) : NextWhole (execTrainingRetry p s) := .next (.ite h.updPort h)

theorem execBucketDrain_whole (h : Whole s) : NextWhole (execBucketDrain r s) := .next h.drainHour

theorem execPeerRetireFlit_whole {y0 : PortFlit} (h : Whole s) : NextWhole (execPeerRetireFlit y0 s) := .next (.ite h.retirePort h)

theorem execRouteRegenerate_whole {fabric : List (Nat × Nat)} {routes : List (Nat × Route)} (h : Whole s) :
    NextWhole (execRouteRegenerate fabric routes s) := .ite (.next h) (.next h.keepLengths)

/-! ### Contexts -/

theorem Whole.writeDesc {c : CtxDesc} {state : Nat} (h : Whole s) : Whole (s.writeDesc c state) := h.storeMain

theorem execContextCreate_whole {c : CtxDesc} (h : Whole s) : NextWhole (execContextCreate c s) := .next (.ite h.writeDesc.keep h)

theorem Whole.endWithContext (h : Whole s) : Whole (s.endWithContext l) := .ite h.keep.abortRunning.updLaunch h.keep.abortRunning.updLaunch.keep

theorem Whole.freeObjects (h : Whole s) : Whole (s.freeObjects ctx facet) := h.foldl (fun _ _ ht => ht.freeObj)

theorem Whole.dropSpace {space : Word} (h : Whole s) : Whole (s.dropSpace space) := h.keepLengths

theorem Whole.returnReceived (h : Whole s) : Whole (s.returnReceived n) := by
  unfold State.returnReceived
  refine h.keep.foldl (fun t x ht => ?_)
  split
  · exact ht.sendFlit
  · exact ht

theorem Whole.endWaves (h : Whole s) : Whole (s.endWaves ctx) := h.foldl (fun _ _ ht => ht.endFree)

theorem Whole.emptyContext {d : CtxDesc} (h : Whole s) : Whole (s.emptyContext d) :=
  .ite h (.ite (h.foldl fun _ _ ht => ht.finishLaunch).keep.endWaves
    ((((h.foldl fun _ _ ht => ht.finishLaunch).keep.endWaves.foldl fun _ _ ht => ht.freeObjects).foldl
      fun _ _ ht => ht.dropGroup).dropSpace.keepLengths.returnReceived.dropCode))

theorem Whole.beginEnd {c : CtxDesc} (h : Whole s) : Whole (s.beginEnd c) :=
  ((h.writeDesc.keep.foldl (fun _ _ ht => ht.unmap)).foldl (fun _ _ ht => ht.endWithContext)).keep.emptyContext

theorem Whole.finishEnd {c : CtxDesc} (h : Whole s) : Whole (s.finishEnd c) :=
  .ite h.emptyContext (h.emptyContext.dropSpace.foldl (fun _ _ ht => ht.eraseKey)).keep.writeDesc

theorem execContextEnd_whole (h : Whole s) : NextWhole (execContextEnd n s) := by
  unfold execContextEnd
  split
  · exact .next h
  · exact .next (.ite h.finishEnd (.ite h h.beginEnd))

theorem Memory.wf_clears {m : Memory} {fs : List Nat} {a : Nat → Nat} (hm : m.wf = true) :
    (fs.foldl (fun (m : Memory) f => m.clear (a f) n) m).wf = true := by
  induction fs generalizing m with
  | nil => exact hm
  | cons f fs ih => exact ih (Memory.wf_clear m _ _ hm)

theorem execPartitionChange_whole {base log2 shelfUnits reserve : Nat} (h : Whole s) :
    NextWhole (execPartitionChange base log2 shelfUnits reserve s) :=
  .ite (.next h) (.next (Whole.keepLengths (h.withSpad (Memory.wf_clears h.spad_wf))
    (List.length_mapIdx ..) (List.length_map ..) rfl))

theorem Whole.sample (h : Whole s) : Whole (s.sample facet) := by
  unfold State.sample
  split
  · exact h
  · exact .ite h (h.foldl (fun _ _ ht => ht.foldl (fun _ _ ht' => .ite ht'.capture.capture ht')))

theorem execReferenceClockEdge_whole (h : Whole s) : NextWhole (execReferenceClockEdge s) :=
  .ite (.next h) (.next (((h.keep.keepLengths.wakeAll.foldl (fun _ _ ht => ht.expireRouter.drainHour)).foldl (fun _ _ ht =>
      ht.sample)).runBias.foldl (fun _ _ ht => ht.finishEnd)).keepLengths)

/-! ### Handles -/

theorem execFence_whole (h : Whole s) : NextWhole (execFence f s) := issueInstr_whole h (fun _ h' => .ite (.done h') (.wait h'))

theorem execWaitc_whole (h : Whole s) : NextWhole (execWaitc f s) := by
  unfold execWaitc
  refine issueInstr_whole h (fun x0 h' => .ite (.ite (.waitPort h') (.wait h')) ?_)
  split
  · exact .moved h'.goOn.report
  · exact .done h'

theorem execHwait_whole (h : Whole s) : NextWhole (execHwait f s) := by
  refine issueInstr_whole h fun c h' => ?_
  dsimp only
  cases e : c.readHandles _ with
  | none => exact .done h'
  | some x => exact h'.readHandles e

theorem execHtest_whole (h : Whole s) : NextWhole (execHtest f s) := issueInstr_whole h (fun _ h' => .done h'.write)

theorem Whole.hcancel (h : Whole s) : Yields id (s.hcancel gid wid k) := by
  unfold State.hcancel
  refine .ite ?_ (.ite .none (.ite (.ite .none (.some h.updWave)) (.some (Whole.ite (Whole.ite h.withdraw h).dropWaits (.ite h.withdraw
      h)).cancelNow)))
  split
  · exact .none
  · exact .some h.updWave.signal

theorem execHcancel_whole (h : Whole s) : NextWhole (execHcancel f s) := by
  refine issueInstr_whole h fun c hc => ?_
  dsimp only
  split
  next e =>
    obtain ⟨k, -, e⟩ := Option.bind_eq_some_iff.1 e
    obtain ⟨t, ht, e⟩ := Option.map_eq_some_iff.1 e
    cases e
    exact .ite (.wait hc.updWave) (.done (hc.hcancel _ ht : Whole _).write)
  next => exact .done hc.write

theorem execHmov_whole (h : Whole s) : NextWhole (execHmov f s) := by
  unfold execHmov
  refine issueInstr_whole h (fun x0 h' => ?_)
  split
  · exact .done h'.updGroup
  · exact .ite (.done h'.updWave) .fault
  · exact .done h'.updWave
  · exact .fault

theorem execHmovObj_whole (h : Whole s) : NextWhole (execHmovObj f s) := issueInstr_whole h (fun _ h' => .ite (.done h'.updWave) .fault)

/-! ### Logic -/

theorem logic2_whole {k : Nat} {fn : Nat → Nat → Nat} (h : Whole s) : NextWhole (logic2 op k f s fn) :=
  .ite (issueInstr_whole h (fun _ h' => .done h'.write)) (issueInstr_whole h (fun _ h' => .done h'.writeTy))

theorem execAnd_whole (h : Whole s) : NextWhole (execAnd f s) := logic2_whole h

theorem execOr_whole (h : Whole s) : NextWhole (execOr f s) := logic2_whole h

theorem execXor_whole (h : Whole s) : NextWhole (execXor f s) := logic2_whole h

theorem execNot_whole (h : Whole s) : NextWhole (execNot f s) :=
  .ite (issueInstr_whole h (fun _ h' => .done h'.write)) (issueInstr_whole h (fun _ h' => .done h'.writeTy))

theorem execLop3_whole (h : Whole s) : NextWhole (execLop3 f s) := issueInstr_whole h (fun _ h' => .done h'.writeTy)

theorem shift_whole {fn : Nat → Nat → Nat} (h : Whole s) : NextWhole (shift op f s fn) := issueInstr_whole h (fun _ h' => .done h'.writeTy)

theorem execShl_whole (h : Whole s) : NextWhole (execShl f s) := shift_whole h

theorem execShr_whole (h : Whole s) : NextWhole (execShr f s) := shift_whole h

theorem execShra_whole (h : Whole s) : NextWhole (execShra f s) := shift_whole h

theorem execFshf_whole (h : Whole s) : NextWhole (execFshf f s) := issueInstr_whole h (fun _ h' => .done h'.writeTy)

theorem execBfx_whole (h : Whole s) : NextWhole (execBfx f s) := issueInstr_whole h (fun _ h' => .done h'.writeTy)

theorem execBfi_whole (h : Whole s) : NextWhole (execBfi f s) := issueInstr_whole h (fun _ h' => .done h'.writeTy)

theorem countBits_whole {fn : Nat → Nat} (h : Whole s) : NextWhole (countBits op f s fn) := issueInstr_whole h (fun _ h' => .done h'.write)

theorem execPopc_whole (h : Whole s) : NextWhole (execPopc f s) := countBits_whole h

theorem execClz_whole (h : Whole s) : NextWhole (execClz f s) := countBits_whole h

theorem execBrev_whole (h : Whole s) : NextWhole (execBrev f s) := issueInstr_whole h (fun _ h' => .done h'.writeTy)

theorem execMov_whole (h : Whole s) : NextWhole (execMov f s) := issueInstr_whole h (fun _ h' => .done h'.writeTy)

theorem execMovi_whole (h : Whole s) : NextWhole (execMovi f s) :=
  .ite (issueInstr_whole h (fun _ h' => .done h'.write)) (issueInstr_whole h (fun _ h' => .done h'.writeTy))

theorem execShfl_whole (h : Whole s) : NextWhole (execShfl f s) := issueInstr_whole h (fun _ h' => .done h'.writeTy)

theorem execRdlane_whole (h : Whole s) : NextWhole (execRdlane f s) := issueInstr_whole h (fun _ h' => .done h'.writeTy)

theorem execWrlane_whole (h : Whole s) : NextWhole (execWrlane f s) := issueInstr_whole h (fun _ h' => .done h'.writeTy)

theorem execBcast_whole (h : Whole s) : NextWhole (execBcast f s) := issueInstr_whole h (fun _ h' => .done h'.writeTy)

theorem execPrmt_whole (h : Whole s) : NextWhole (execPrmt f s) := issueInstr_whole h (fun _ h' => .done h'.writeTy)

/-! ### Thermal -/

theorem Whole.refreshTherm (h : Whole s) : Whole (s.refreshTherm facet) := .ite h h.keep.logEntry

theorem Whole.setTherm {level : Nat} (h : Whole s) : Whole (s.setTherm facet core level) := h.updFacet.refreshTherm

theorem Whole.migrateHeat (h : Whole s) : Whole (s.migrateHeat facet core) := by
  unfold State.migrateHeat
  split
  · dsimp only
    split
    · exact h.postPreempt.updGroup
    · exact h
  · dsimp only
    split <;> exact h

theorem execThermHot_whole (h : Whole s) : NextWhole (execThermHot facet core s) := .ite (.next h) (.next h.setTherm.migrateHeat)

theorem execThermThrottle_whole (h : Whole s) : NextWhole (execThermThrottle facet core s) := .ite (.next h) (.next h.updFacet.setTherm)

theorem execThrottleStep_whole (h : Whole s) : NextWhole (execThrottleStep facet s) := .ite (.next h.updFacet) (.next h)

theorem execThermDrop_whole {level : Nat} (h : Whole s) : NextWhole (execThermDrop facet core level s) :=
  .ite (.next h) (.next h.updFacet.setTherm)

theorem Whole.loseSector {sec : Nat} (h : Whole s) : Whole (s.loseSector sec) := h.writeRaw

theorem execThermTrip_whole (h : Whole s) : NextWhole (execThermTrip facet core s) :=
  .ite (.next h) (.next ((h.foldl (fun _ _ ht => ht.loseSector)).foldl (fun _ _ ht => ht.recall)).keepLengths.setTherm)

end Sys2Proof.Machine
end

section
/-! PROOF. O59: every instruction, every turn and every step keep the package whole. -/

namespace Sys2Proof.Machine

open Sys2Proof

variable {s t : State} {c : Ctx} {f : Form} {g : Group} {w : Wave} {q : Queue} {l : Launch} {k : Cmd} {bytes : List Byte} {ans : Byte}
  {sp : Bool} {facet core ctx key n gid wid cls seq va page lid qid op r face idx : Nat}

/-! ### Dispatch -/

theorem exec_whole (i : Instr) (h : Whole s) : NextWhole (exec i s) := by
  unfold exec
  cases i with
  | nop => exact execNop_whole h
  | bra => exact execBra_whole h
  | brx => exact execBrx_whole h
  | call => exact execCall_whole h
  | callx => exact execCallx_whole h
  | ret => exact execRet_whole h
  | conv => exact execConv_whole h
  | prio => exact execPrio_whole h
  | vote => exact execVote_whole h
  | sloop => exact execSloop_whole h
  | bar => exact execBar_whole h
  | exit => exact execExit_whole h
  | yield => exact execYield_whole h
  | sleep => exact execSleep_whole h
  | acq => exact execAcq_whole h
  | rel => exact execRel_whole h
  | tspawn => exact execTspawn_whole h
  | tdom => exact execTdom_whole h
  | tsplit => exact execTsplit_whole h
  | tchk => exact execTchk_whole h
  | tchkTest => exact execTchkTest_whole h
  | tchkTrap => exact execTchkTrap_whole h
  | salloc => exact execSalloc_whole h
  | sfree => exact execSfree_whole h
  | iadd => exact execIadd_whole h
  | isub => exact execIsub_whole h
  | iaddc => exact execIaddc_whole h
  | imul => exact execImul_whole h
  | imulh => exact execImulh_whole h
  | imad => exact execImad_whole h
  | imadw => exact execImadw_whole h
  | idiv => exact execIdiv_whole h
  | irem => exact execIrem_whole h
  | imin => exact execImin_whole h
  | imax => exact execImax_whole h
  | iabs => exact execIabs_whole h
  | isad => exact execIsad_whole h
  | isetp => exact execIsetp_whole h
  | isel => exact execIsel_whole h
  | lea => exact execLea_whole h
  | and => exact execAnd_whole h
  | or => exact execOr_whole h
  | xor => exact execXor_whole h
  | not => exact execNot_whole h
  | lop3 => exact execLop3_whole h
  | shl => exact execShl_whole h
  | shr => exact execShr_whole h
  | shra => exact execShra_whole h
  | fshf => exact execFshf_whole h
  | bfx => exact execBfx_whole h
  | bfi => exact execBfi_whole h
  | popc => exact execPopc_whole h
  | clz => exact execClz_whole h
  | brev => exact execBrev_whole h
  | mov => exact execMov_whole h
  | movi => exact execMovi_whole h
  | shfl => exact execShfl_whole h
  | rdlane => exact execRdlane_whole h
  | wrlane => exact execWrlane_whole h
  | bcast => exact execBcast_whole h
  | prmt => exact execPrmt_whole h
  | fadd => exact execFadd_whole h
  | fsub => exact execFsub_whole h
  | fmul => exact execFmul_whole h
  | ffma => exact execFfma_whole h
  | fmin => exact execFmin_whole h
  | fmax => exact execFmax_whole h
  | fsetp => exact execFsetp_whole h
  | fclass => exact execFclass_whole h
  | frcp => exact execFrcp_whole h
  | frsq => exact execFrsq_whole h
  | fsqrt => exact execFsqrt_whole h
  | fdiv => exact execFdiv_whole h
  | fexp2 => exact execFexp2_whole h
  | flog2 => exact execFlog2_whole h
  | fsin => exact execFsin_whole h
  | fcos => exact execFcos_whole h
  | ftanh => exact execFtanh_whole h
  | frnd => exact execFrnd_whole h
  | fscale => exact execFscale_whole h
  | hfma2 => exact execHfma2_whole h
  | hadd2 => exact execHadd2_whole h
  | hmul2 => exact execHmul2_whole h
  | fdot2 => exact execFdot2_whole h
  | fdot4 => exact execFdot4_whole h
  | cvt => exact execCvt_whole h
  | cvti => exact execCvti_whole h
  | pack => exact execPack_whole h
  | unpk => exact execUnpk_whole h
  | qblk => exact execQblk_whole h
  | dqblk => exact execDqblk_whole h
  | mma => exact execMma_whole h
  | mmab => exact execMmab_whole h
  | mzero => exact execMzero_whole h
  | mlda => exact execMlda_whole h
  | msta => exact execMsta_whole h
  | memit => exact execMemit_whole h
  | mmap => exact execMmap_whole h
  | mrela => exact execMrela_whole h
  | maddt => exact execMaddt_whole h
  | mscl => exact execMscl_whole h
  | lds => exact execLds_whole h
  | sts => exact execSts_whole h
  | ldp => exact execLdp_whole h
  | stp => exact execStp_whole h
  | spill => exact execSpill_whole h
  | fill => exact execFill_whole h
  | ats => exact execAts_whole h
  | atp => exact execAtp_whole h
  | cass => exact execCass_whole h
  | casp => exact execCasp_whole h
  | lrs => exact execLrs_whole h
  | scs => exact execScs_whole h
  | lrp => exact execLrp_whole h
  | scp => exact execScp_whole h
  | bcin => exact execBcin_whole h
  | bcout => exact execBcout_whole h
  | bgath => exact execBgath_whole h
  | bscat => exact execBscat_whole h
  | bfill => exact execBfill_whole h
  | matom => exact execMatom_whole h
  | mred => exact execMred_whole h
  | mcas => exact execMcas_whole h
  | xsum => exact execXsum_whole h
  | xrd => exact execXrd_whole h
  | xclr => exact execXclr_whole h
  | pref => exact execPref_whole h
  | fence => exact execFence_whole h
  | waitc => exact execWaitc_whole h
  | hwait => exact execHwait_whole h
  | htest => exact execHtest_whole h
  | hcancel => exact execHcancel_whole h
  | hmov => exact execHmov_whole h
  | hmovObj => exact execHmovObj_whole h
  | wspawn => exact execWspawn_whole h
  | wkill => exact execWkill_whole h
  | pnew => exact execPnew_whole h
  | psend => exact execPsend_whole h
  | precv => exact execPrecv_whole h
  | snew => exact execSnew_whole h
  | sadd => exact execSadd_whole h
  | sdel => exact execSdel_whole h
  | wwait => exact execWwait_whole h
  | tnew => exact execTnew_whole h
  | tarm => exact execTarm_whole h
  | tdis => exact execTdis_whole h
  | olook => exact execOlook_whole h
  | obind => exact execObind_whole h
  | obindPub => exact execObindPub_whole h
  | obindUnb => exact execObindUnb_whole h
  | ofree => exact execOfree_whole h
  | oinfo => exact execOinfo_whole h
  | nwant => exact execNwant_whole h
  | nhave => exact execNhave_whole h
  | ndrop => exact execNdrop_whole h
  | npeek => exact execNpeek_whole h
  | nrouteAdd => exact execNrouteAdd_whole h
  | nrouteDel => exact execNrouteDel_whole h
  | nrouteClr => exact execNrouteClr_whole h
  | trap => exact execTrap_whole h
  | rtt => exact execRtt_whole h
  | rttRpl => exact execRttRpl_whole h
  | rttEsc => exact execRttEsc_whole h
  | mpoint => exact execMpoint_whole h
  | sysr => exact execSysr_whole h
  | sysw => exact execSysw_whole h
  | cntr => exact execCntr_whole h
  | monctlClaim => exact execMonctlClaim_whole h
  | monctlFree => exact execMonctlFree_whole h
  | monctlSet => exact execMonctlSet_whole h
  | monctlRead => exact execMonctlRead_whole h
  | tlbinvVa => exact execTlbinvVa_whole h
  | tlbinvCtx => exact execTlbinvCtx_whole h
  | tlbinvAll => exact execTlbinvAll_whole h
  | keyselGen => exact execKeyselGen_whole h
  | keyselDel => exact execKeyselDel_whole h
  | tailWrite => exact execTailWrite_whole h
  | packetHeaderReread => exact execPacketHeaderReread_whole h
  | launchPacket => exact execLaunchPacket_whole h
  | dependPacket => exact execDependPacket_whole h
  | dependRecheck => exact execDependRecheck_whole h
  | signalPacket => exact execSignalPacket_whole h
  | nopkt => exact execNopkt_whole h
  | queueStallResume => exact execQueueStallResume_whole h
  | queueMap => exact execQueueMap_whole h
  | forcedUnmap => exact execForcedUnmap_whole h
  | queueIdleUnmap => exact execQueueIdleUnmap_whole h
  | launchAccept => exact execLaunchAccept_whole h
  | groupPlace => exact execGroupPlace_whole h
  | acqGrant => exact execAcqGrant_whole h
  | relLower => exact execRelLower_whole h
  | allowExpiry => exact execAllowExpiry_whole h
  | taskRetire => exact execTaskRetire_whole h
  | launchComplete => exact execLaunchComplete_whole h
  | cancelWordWrite => exact execCancelWordWrite_whole h
  | commandComplete => exact execCommandComplete_whole h
  | launchEnd => exact execLaunchEnd_whole h
  | resumeRetry => exact execResumeRetry_whole h
  | resumeEnd => exact execResumeEnd_whole h
  | preemptWrite => exact execPreemptWrite_whole h
  | priorityPreempt => exact execPriorityPreempt_whole h
  | saveDeadline => exact execSaveDeadline_whole h
  | groupSave => exact execGroupSave_whole h
  | groupRestore => exact execGroupRestore_whole h
  | fairnessRun => exact execFairnessRun_whole h
  | sleepWake => exact execSleepWake_whole h
  | benchPlace => exact execBenchPlace_whole h
  | standDown => exact execStandDown_whole h
  | stoodDownWake => exact execStoodDownWake_whole h
  | timerExpire => exact execTimerExpire_whole h
  | pageMigrate => exact execPageMigrate_whole h
  | hostMemAccess => exact execHostMemAccess_whole h
  | hostRecall => exact execHostRecall_whole h
  | interestArrive => exact execInterestArrive_whole h
  | tileArrive => exact execTileArrive_whole h
  | interestExpire => exact execInterestExpire_whole h
  | shelfCopyExpire => exact execShelfCopyExpire_whole h
  | expiryNotice => exact execExpiryNotice_whole h
  | flitReceive => exact execFlitReceive_whole h
  | replayRequest => exact execReplayRequest_whole h
  | ackTimeout => exact execAckTimeout_whole h
  | linkTraining => exact execLinkTraining_whole h
  | trainingRetry => exact execTrainingRetry_whole h
  | bucketDrain => exact execBucketDrain_whole h
  | peerRetireFlit => exact execPeerRetireFlit_whole h
  | routeRegenerate => exact execRouteRegenerate_whole h
  | thermHot => exact execThermHot_whole h
  | thermThrottle => exact execThermThrottle_whole h
  | throttleStep => exact execThrottleStep_whole h
  | thermTrip => exact execThermTrip_whole h
  | coldReset => exact execColdReset_whole h
  | hostPortTrain => exact execHostPortTrain_whole h
  | healthWrite => exact execHealthWrite_whole h
  | drvstatWrite => exact execDrvstatWrite_whole h
  | registerWrite => exact execRegisterWrite_whole h
  | qclear => exact execQclear_whole h
  | bias => exact execBias_whole h
  | pageans => exact execPageans_whole h
  | fwupd => exact execFwupd_whole h
  | fwupdSwitch => exact execFwupdSwitch_whole h
  | drain => exact execDrain_whole h
  | drainComplete => exact execDrainComplete_whole h
  | attest => exact execAttest_whole h
  | logset => exact execLogset_whole h
  | prset => exact execPrset_whole h
  | drvcmdBadOp => exact execDrvcmdBadOp_whole h
  | contextEnd => exact execContextEnd_whole h
  | partitionChange => exact execPartitionChange_whole h
  | referenceClockEdge => exact execReferenceClockEdge_whole h
  | thermDrop => exact execThermDrop_whole h
  | contextCreate => exact execContextCreate_whole h
  | queueRegister => exact execQueueRegister_whole h

/-! ### Step -/

theorem onNext_whole {u : State → State} {o : Host.Outcome State Fault Refusal} (ho : NextWhole o)
    (hu : ∀ t, Whole t → Whole (u t)) : NextWhole (onNext u o) := by
  cases ho with
  | next ht => exact .next (hu _ ht)
  | fault => exact .fault
  | refused => exact .refused

theorem takeTurn_whole {x : Turn} (h : Whole s) : NextWhole (takeTurn s x) := by
  cases x with
  | event i => exact .ite (onNext_whole (exec_whole i h) fun _ ht => ht.settleAll.servePorts) .fault
  | issue gid wid =>
    unfold takeTurn
    dsimp only
    split
    next e => exact .next (h.fetchTurn.of_error e).settle.servePorts
    next e =>
      have ht := h.fetchTurn.of_ok e
      split
      · exact .next ht.illegalWord.noteIssue.settle.servePorts
      · exact onNext_whole (exec_whole _ ht) fun _ hu => hu.noteIssue.settle.servePorts

theorem step_whole (h : Whole s) : NextWhole (step s) := by
  unfold step
  split <;> exact takeTurn_whole h.keep

/-- A next state that is whole, as the statement reads it. -/
theorem NextWhole.of_next {o : Host.Outcome State Fault Refusal} (h : NextWhole o) (e : o = .next t) : Whole t := by
  cases e ▸ h with
  | next ht => exact ht

/-- Settles O59: every function that `step` is made of keeps the canonical form of the two memories and the numbers of facets, routers and
ports, so that a step does (`step_whole`). -/
theorem stepKeepsWhole : Obligations.StepKeepsWhole := fun _ _ h e => (step_whole h).of_next e

end Sys2Proof.Machine
end

section
/-! PROOF. O60 (`Obligations.ResetState`): what the reset state reads as. -/

namespace Sys2Proof.Machine

open Sys2Proof

@[simp] theorem State.facet_reset (f : Nat) : State.reset.facet f = Facet.reset :=
  List.getD_eq_getElem?_getD.trans (List.getElem?_getD_replicate_default_eq _ _ _)

@[simp] theorem State.router_reset (r : Nat) : State.reset.router r = Router.reset :=
  List.getD_eq_getElem?_getD.trans (List.getElem?_getD_replicate_default_eq _ _ _)

@[simp] theorem State.port_reset (p : Nat) : State.reset.port p = Port.reset :=
  List.getD_eq_getElem?_getD.trans (List.getElem?_getD_replicate_default_eq _ _ _)

/-- Every register of BAR0 reads 0 after cold reset: the named ones and, as every port is down, the link status of each port. -/
theorem State.bar0_reset (off : Nat) : State.reset.bar0 off = 0 := by
  unfold State.bar0
  split
  case h_1 => decide
  case h_10 => simp only [State.port_reset]; split <;> rfl
  all_goals rfl

/-- Settles O60: the facets, routers and ports of the reset state are all alike, and the rest of it is written out. -/
theorem resetState : Obligations.ResetState := by
  unfold Obligations.ResetState
  refine ⟨by decide, fun f _ => ?_, fun r _ => ?_, fun p _ => ?_, State.bar0_reset, rfl, rfl, fun off => rfl⟩
  · rw [State.facet_reset]; exact ⟨rfl, rfl, rfl, rfl⟩
  · rw [State.router_reset]; exact ⟨rfl, rfl, rfl⟩
  · rw [State.port_reset]; exact ⟨rfl, rfl, rfl⟩

end Sys2Proof.Machine
end

section
/-! PROOF. What an unrecoverable fault of an issuing path leaves (`Faults`): the requests of a free wave that ends are withdrawn, and a
delivery that has begun to land is completed, in which only the bytes of that delivery change. -/

namespace Sys2Proof.Machine

open Sys2Proof

/-! ### A group whose requests are withdrawn -/

/-- The keys of the bytes that have still to land for a group. -/
def Group.LateKey (g : Group) (k : Nat) : Prop := ∃ w ∈ g.waves, ∃ c ∈ w.cmds, c.stage = .landing ∧ ∃ x ∈ c.late, x.1 = k

/-- A group that stands as before, and has no more to land. -/
structure Group.Recalled (a b : Group) : Prop where
  stat : b.stat = a.stat
  free : b.free = a.free
  late : ∀ k, b.LateKey k → a.LateKey k

theorem Group.Recalled.refl (a : Group) : a.Recalled a := ⟨rfl, rfl, fun _ h => h⟩

theorem Group.Recalled.trans {a b c : Group} (h : a.Recalled b) (k : b.Recalled c) : a.Recalled c :=
  ⟨k.stat.trans h.stat, k.free.trans h.free, fun x hx => h.late x (k.late x hx)⟩

/-- A group whose waves keep their commands. -/
theorem Group.Recalled.of_cmds {a b : Group} (hs : b.stat = a.stat) (hf : b.free = a.free)
    (hw : ∀ w ∈ b.waves, ∃ w' ∈ a.waves, ∀ c ∈ w.cmds, c.stage = .landing → c ∈ w'.cmds) : a.Recalled b := by
  refine ⟨hs, hf, fun k hk => ?_⟩
  obtain ⟨w, hwb, c, hc, hl, hx⟩ := hk
  obtain ⟨w', hwa, hsub⟩ := hw w hwb
  exact ⟨w', hwa, c, hsub c hc hl, hl, hx⟩

/-- A group whose waves change in their registers and reservations. -/
theorem Group.Recalled.of_map {a b : Group} {F : Wave → Wave} (hs : b.stat = a.stat) (hf : b.free = a.free)
    (hw : b.waves = a.waves.map F) (hF : ∀ w, ∀ c ∈ (F w).cmds, c.stage = .landing → c ∈ w.cmds) : a.Recalled b := by
  refine .of_cmds hs hf fun w hm => ?_
  rw [hw] at hm
  obtain ⟨w', hw', rfl⟩ := List.mem_map.1 hm
  exact ⟨w', hw', hF w'⟩

/-- A release of an MPOINT leaves what its group has to land. -/
theorem Group.releasePoint_same (x : Group) (core : Nat) (mask : Word) (point : Nat) :
    (x.releasePoint core mask point).id = x.id ∧ x.Recalled (x.releasePoint core mask point) := by
  have h : (x.releaseMask core mask).id = x.id ∧ x.Recalled (x.releaseMask core mask) :=
    List.foldlRecOn _ _ (motive := fun y : Group => y.id = x.id ∧ x.Recalled y) ⟨rfl, .refl x⟩
      fun _ hy _ _ => ⟨hy.1, hy.2.stat, hy.2.free, hy.2.late⟩
  exact ⟨h.1, h.2.stat, h.2.free, h.2.late⟩

/-- What a state has become while the requests of a group are withdrawn: main memory is as it was, so is the scratchpad where nothing has
still to land, and the group stands. -/
structure Recalls (gid : Nat) (keys : Nat → Prop) (s t : State) : Prop where
  mem   : t.mem = s.mem
  spad  : ∀ a, (∀ k, keys k → k < 2 ^ 62 → k - 2 ^ 61 ≠ a) → t.spad.read a = s.spad.read a
  group : ∀ a, s.group? gid = some a → ∃ b, t.group? gid = some b ∧ a.Recalled b

namespace Recalls

variable {gid : Nat} {keys : Nat → Prop} {s t u : State}

theorem refl (s : State) : Recalls gid keys s s := ⟨rfl, fun _ _ => rfl, fun a h => ⟨a, h, .refl a⟩⟩

theorem trans (h : Recalls gid keys s t) (k : Recalls gid keys t u) : Recalls gid keys s u where
  mem := k.mem.trans h.mem
  spad := fun a ha => (k.spad a ha).trans (h.spad a ha)
  group := fun a ha => by
    obtain ⟨b, hb, hab⟩ := h.group a ha
    obtain ⟨c, hc, hbc⟩ := k.group b hb
    exact ⟨c, hc, hab.trans hbc⟩

/-- A change that leaves the memories and the groups. -/
theorem of_same (hm : t.mem = s.mem) (hs : t.spad = s.spad) (hg : t.groups = s.groups) : Recalls gid keys s t :=
  ⟨hm, fun a _ => by rw [hs], fun a ha => ⟨a, by rw [State.group?, hg]; exact ha, .refl a⟩⟩

/-- Every group changed, and the scratchpad where something lands. -/
theorem of_groups {F : Group → Group} (hm : t.mem = s.mem)
    (hs : ∀ a, (∀ k, keys k → k < 2 ^ 62 → k - 2 ^ 61 ≠ a) → t.spad.read a = s.spad.read a) (hg : t.groups = s.groups.map F)
    (hid : ∀ x, (F x).id = x.id) (hF : ∀ x : Group, x.Recalled (F x)) : Recalls gid keys s t where
  mem := hm
  spad := hs
  group := fun a ha => by
    refine ⟨F a, ?_, hF a⟩
    rw [State.group?, hg, find?_map_id s.groups Group.id F gid hid]
    exact congrArg (Option.map F) ha

/-- One group changed, whichever it is. -/
theorem updGroup (g : Nat) {F : Group → Group} (hid : ∀ x, (F x).id = x.id) (hF : ∀ x : Group, x.Recalled (F x)) :
    Recalls gid keys s (s.updGroup g F) := by
  refine of_groups rfl (fun _ _ => rfl) rfl (fun x => ?_) fun x => ?_
  · split
    · exact hid x
    · rfl
  · split
    · exact hF x
    · exact .refl x

theorem storeSpad {k : Nat} {x : Byte} (hk : keys k) (hlt : k < 2 ^ 62) : Recalls gid keys s (s.storeSpad (k - 2 ^ 61) [x]) := by
  refine of_groups rfl (fun a ha => ?_) rfl (fun _ => rfl) fun _ => .of_map rfl rfl rfl fun _ _ h _ => h
  have hne := ha k hk hlt
  exact Memory.read_writeBytes_outside [x] s.spad _ a (by simp only [List.length_singleton]; omega)

/-- A loop each of whose steps only withdraws. -/
theorem foldl {α : Type} {l : List α} {step : State → α → State} (h : ∀ u, Recalls gid keys s u → ∀ x ∈ l, Recalls gid keys u (step u x)) :
    Recalls gid keys s (l.foldl step s) :=
  List.foldlRecOn l step (motive := Recalls gid keys s) (refl s) fun u hu x hx => hu.trans (h u hu x hx)

theorem landBytes {late : List (Nat × Nat)} (g : Nat) (hl : ∀ x ∈ late, keys x.1) : Recalls gid keys s (s.landBytes g late) := by
  unfold State.landBytes
  dsimp only
  refine trans ?_ (updGroup g (fun _ => rfl) fun _ => ⟨rfl, rfl, fun _ h => h⟩)
  refine trans (foldl fun u _ x hx => ?_) (of_same rfl rfl rfl)
  split
  · exact refl u
  · split
    · exact updGroup g (fun _ => rfl) fun _ => .of_map rfl rfl rfl fun _ _ h _ => h
    next h => exact storeSpad (hl x hx) (by omega)

/-- A command that lands is found among those of its group. -/
theorem land {a : Group} (ha : s.group? gid = some a) (hl : ∀ k, a.LateKey k → keys k) (wid cls seq : Nat) :
    Recalls gid keys s (s.land gid wid cls seq) := by
  unfold State.land
  rw [ha]
  split
  · exact refl s
  next c hc =>
    obtain ⟨w, hw, hcw⟩ := Option.bind_eq_some_iff.1 hc
    split
    · exact refl s
    next hst =>
      have hst : c.stage = .landing := by simpa using hst
      have hlate : ∀ x ∈ c.late, keys x.1 := fun x hx =>
        hl _ ⟨w, List.mem_of_find?_eq_some hw, c, List.mem_of_find?_eq_some hcw, hst, x, hx, rfl⟩
      refine trans (landBytes gid hlate) (updGroup gid (fun _ => rfl) fun x => .of_map rfl rfl rfl fun w k hk hkl => ?_)
      split at hk
      · exact hk
      · obtain ⟨y, hy, rfl⟩ := List.mem_map.1 hk
        split at hkl
        · simp at hkl
        next h => rwa [if_neg h]

theorem landAll (hl : ∀ a, s.group? gid = some a → ∀ k, a.LateKey k → keys k) : Recalls gid keys s (s.landAll gid) := by
  unfold State.landAll
  split
  · exact refl s
  next g hg =>
    have step (u : State) (hu : Recalls gid keys s u) (wid cls seq : Nat) : Recalls gid keys u (u.land gid wid cls seq) := by
      obtain ⟨b, hb, hgb⟩ := hu.group g hg
      exact land hb (fun k hk => hl g hg k (hgb.late k hk)) wid cls seq
    refine foldl fun u hu w _ => foldl fun v hv c _ => step v (hu.trans hv) w.id c.cls c.seq

theorem drainPoints (n facet core : Nat) (s : State) : Recalls gid keys s (State.drainPoints n s facet core) := by
  induction n generalizing s with
  | zero => exact refl s
  | succ n ih =>
    unfold State.drainPoints
    split
    · refine trans ?_ (ih _)
      refine trans ?_ (updGroup _ (fun x => (Group.releasePoint_same x _ _ _).1) fun x => (Group.releasePoint_same x _ _ _).2)
      exact of_same rfl rfl rfl
    · exact refl s

theorem takeMatrix (g : Nat) : Recalls gid keys s (s.takeMatrix g) := by
  unfold State.takeMatrix
  dsimp only
  refine trans (t := { s with matq := s.matq.filter (fun e => !e.ofGroup g) }) (of_same rfl rfl rfl) ?_
  exact foldl fun u _ x _ => drainPoints u.matq.length x.1 x.2 u

theorem withdrawn (hl : ∀ a, s.group? gid = some a → ∀ k, a.LateKey k → keys k) : Recalls gid keys s (s.recall gid) := by
  have hw (v : State) (f : IntRec → Bool) : Recalls gid keys v (v.withdraw f) := of_same rfl rfl rfl
  have hd (v : State) (f : Waiter → Bool) : Recalls gid keys v (v.dropWaits f) := of_same rfl rfl rfl
  have hr (v : State) (fs : List (Nat × Bool)) : Recalls gid keys v (v.returnLent fs) := of_same rfl rfl rfl
  exact (landAll hl).trans ((((hw _ _).trans (hd _ _)).trans (hr _ _)).trans (takeMatrix gid))

end Recalls

/-! ### The fault of an issuing path -/

/-- The fault of a wave whose launch an earlier fault ends is discarded (R413). -/
theorem State.ending_launch {s : State} {g : Group} (h : s.ending g = true) : ∃ l, g.launch = some l := by
  cases hg : g.launch with
  | some l => exact ⟨l, rfl⟩
  | none => simp [State.ending, hg] at h

section
variable {c : Ctx} {s : State} {f : Form} {code : Code} {pc : DWord}

/-- A wave that issues is neither parked nor held. -/
theorem State.context_unparked (h : s.context f = some c) : c.wave.park = .no ∧ c.wave.held = none := by
  unfold State.context at h
  split at h
  · simp at h
  · obtain rfl := Option.some.inj h
    exact ⟨rfl, rfl⟩

/-- In a launch, the first fault stops the wave and sets out. -/
theorem raiseFault_launch (hf : c.Found s f) {l : Nat} (hl : c.grp.launch = some l) (he : c.st.ending c.grp = false) :
    c.st.raiseFault c.grp.id c.wave.id code pc = { c.updWave c.st (fun w => { w with dead := true, park := .no, held := none, fresh := [] }) with
      esc := (c.st.raiseFault c.grp.id c.wave.id code pc).esc
      faults := c.st.faults ++ [⟨l, code, pc, c.grp.ctx, c.st.edges, c.grp.facet, c.wave.core, c.wave.slot⟩] } := by
  simp only [State.raiseFault, hf.group, hf.wave, hl, he, Bool.or_false, Bool.false_and, Bool.false_eq_true, if_false]
  split <;> rfl

/-- A later one stops the wave only. -/
theorem raiseFault_late (hf : c.Found s f) {l : Nat} (hl : c.grp.launch = some l) (he : c.st.ending c.grp = true) :
    c.st.raiseFault c.grp.id c.wave.id code pc = if c.wave.alive then
      c.updWave c.st (fun w => { w with dead := true, park := .no, held := none, fresh := [] }) else c.st := by
  simp only [State.raiseFault, hf.group, hf.wave, hl, he, Bool.or_true, if_true, Bool.true_and]
  cases c.wave.alive <;> rfl

/-- The fault of a free wave ends it. -/
theorem raiseFault_free (hf : c.Found s f) (hl : c.grp.launch = none) :
    ∃ esc, c.st.raiseFault c.grp.id c.wave.id code pc = { c.st with esc := esc }.endFree c.grp.id 0xFF code pc := by
  simp only [State.raiseFault, hf.group, hl]
  split
  · exact ⟨_, rfl⟩
  · exact ⟨_, rfl⟩

/-- A free wave's group as its end leaves it (R343). -/
def Group.endedFree (x : Group) (status : Byte) (code : Code) (pc : DWord) : Group :=
  { x with
    stat := .exited,
    exitMax := if x.waves.any Wave.alive then max x.exitMax status.toNat else x.exitMax,
    exitOr := if x.waves.any Wave.alive then x.exitOr ||| status else x.exitOr,
    free := x.free.map (fun fw => if code = 0 then fw else { fw with code := code, faultPc := pc }),
    preempt := none,
    waves := x.waves.map (fun w => { w with
      exited := w.present, paths := [], frames := [], held := none, park := .no, resvS := [], resvP := [], dead := false,
      cmds := w.cmds.filter (fun c => c.stage = .performed || c.stage = .signalled || (c.begun && c.cls ≤ 3)) }) }

theorem endFree_memory {g : Nat} {status : Byte} {keys : Nat → Prop} (h : ∀ a, s.group? g = some a → ∀ k, a.LateKey k → keys k) :
    (s.endFree g status code pc).mem = s.mem
      ∧ ∀ a, (∀ k, keys k → k < 2 ^ 62 → k - 2 ^ 61 ≠ a) → (s.endFree g status code pc).spad.read a = s.spad.read a := by
  have hr := Recalls.withdrawn h
  cases hg : (s.group? g).any (fun x => x.stat = .exited) with
  | false =>
    simp only [State.endFree, hg, Bool.false_eq_true, if_false]
    exact ⟨hr.mem, hr.spad⟩
  | true =>
    simp only [State.endFree, hg, if_true]
    exact ⟨rfl, fun _ _ => rfl⟩

theorem group?_endFree {g : Nat} {a b : Group} (ha : s.group? g = some a) (hs : a.stat ≠ .exited) {status : Byte}
    (hb : (s.recall g).group? g = some b) (hbs : b.stat ≠ .exited) :
    (s.endFree g status code pc).group? g = some (b.endedFree status code pc) := by
  have hgone : (s.group? g).any (fun x => decide (x.stat = .exited)) = false := by simp [ha, hs]
  simp only [State.endFree, hgone, Bool.false_eq_true, if_false]
  refine (State.group?_updGroup _ _ _ fun x => ?_).trans ?_
  · split <;> rfl
  · rw [hb, Option.map_some, if_neg hbs]; rfl

theorem endFree_exited {g : Nat} {a : Group} (ha : s.group? g = some a) (hs : a.stat ≠ .exited) (hc : code ≠ 0) {status : Byte} :
    ∃ x, (s.endFree g status code pc).group? g = some x ∧ x.stat = .exited
      ∧ x.free = a.free.map (fun x => { x with code := code, faultPc := pc })
      ∧ ∀ w ∈ x.waves, w.paths = [] ∧ w.exited = w.present := by
  have hr : Recalls g (fun _ => True) s (s.recall g) := .withdrawn fun _ _ _ _ => trivial
  obtain ⟨b, hb, hab⟩ := hr.group a ha
  refine ⟨_, group?_endFree ha hs hb (by rw [hab.stat]; exact hs), rfl, ?_, fun w hw => ?_⟩
  · simp only [Group.endedFree, hc, if_false, hab.free]
  · obtain ⟨x, _, rfl⟩ := List.mem_map.1 hw
    exact ⟨rfl, rfl⟩

/-- The fault of an issuing path does what R407, R412, R413 and R343 say. -/
theorem faults_raiseFault (h : s.context f = some c) (hc : code ≠ 0) :
    Faults code s c (c.st.raiseFault c.grp.id c.wave.id code c.path.pc) := by
  have hf := State.context_found h
  obtain ⟨hpark, hheld⟩ := State.context_unparked h
  have stop := (Ctx.Left.start hf).updWave (fun w => { w with dead := true, park := .no, held := none, fresh := [] }) fun _ => rfl
  have hw : ({ c.wave with dead := true, park := .no, held := none, fresh := [] } : Wave) = { c.wave with dead := true, fresh := [] } := by
    rw [← hpark, ← hheld]
  have hst := hf.rest
  refine ⟨rfl, fun l hl he => ?_, fun he ha => ?_, fun hl hs => ?_, ?_⟩
  · have e := raiseFault_launch (code := code) (pc := c.path.pc) hf hl he
    refine ⟨_, _, stop.congr (by rw [e]), hw, rfl, ?_, ?_⟩
    · rw [e, Ctx.updWave, State.updWave, State.updGroup, hst]
    · rw [e, hst]
  · obtain ⟨l, hl⟩ := State.ending_launch he
    have e := raiseFault_late (code := code) (pc := c.path.pc) hf hl he
    rw [if_pos ha] at e
    refine ⟨_, _, stop.congr (by rw [e]), hw, rfl, ?_⟩
    rw [e, Ctx.updWave, State.updWave, State.updGroup, hst]
  · obtain ⟨esc, e⟩ := raiseFault_free (code := code) (pc := c.path.pc) hf hl
    rw [e]
    exact endFree_exited (s := { c.st with esc := esc }) hf.group hs hc
  · have hmem : c.st.mem = s.mem := by rw [hst]
    have hspad : c.st.spad = s.spad := by rw [hst]
    cases hl : c.grp.launch with
    | some l =>
      have hkeep : (c.st.raiseFault c.grp.id c.wave.id code c.path.pc).mem = c.st.mem
          ∧ (c.st.raiseFault c.grp.id c.wave.id code c.path.pc).spad = c.st.spad := by
        cases he : c.st.ending c.grp with
        | false => rw [raiseFault_launch hf hl he]; exact ⟨rfl, rfl⟩
        | true => rw [raiseFault_late hf hl he]; split <;> exact ⟨rfl, rfl⟩
      exact ⟨hkeep.1.trans hmem, fun _ => hkeep.2.trans hspad, fun a _ => by rw [hkeep.2, hspad]⟩
    | none =>
      obtain ⟨esc, e⟩ := raiseFault_free (code := code) (pc := c.path.pc) hf hl
      have hkeys : ∀ a, ({ c.st with esc := esc } : State).group? c.grp.id = some a → ∀ k, a.LateKey k → c.grp.LateKey k := by
        intro a ha k hk
        obtain rfl : c.grp = a := Option.some.inj (hf.group.symm.trans ha)
        exact hk
      obtain ⟨km, ks⟩ := endFree_memory (code := code) (pc := c.path.pc) (status := 0xFF) hkeys
      rw [e]
      refine ⟨km.trans hmem, fun hn => absurd hl hn, fun a ha => (ks a fun k hk hlt => ?_).trans (by rw [hspad])⟩
      obtain ⟨w, hw, k', hk', hst', x, hx, rfl⟩ := hk
      exact ha w hw k' hk' hst' x hx hlt

end

/-- An instruction whose check of step 3 fails has the illegal-operand fault (R61). -/
theorem issueInstr_refused {s : State} {op : Nat} {f : Form} {d a b : Allow} {x : Option Allow} {c : Ctx} {extra : Ctx → Bool}
    {body : Ctx → Res} (h : s.issued op f d a b x = some c) (he : extra c = false) :
    issueInstr op f s d a b x extra body = .next (c.st.raiseFault c.grp.id c.wave.id codeOperand c.path.pc) := by
  obtain ⟨h1, -, -⟩ := State.issued_iff.1 h
  simp [issueInstr, h1, he]

/-- An instruction whose check of step 3 fails. -/
theorem effects_refused {i : Instr} {op : Nat} {f : Form} {d a b : Allow} {x : Option Allow} {ok : Ctx → Prop} {extra : Ctx → Bool}
    {body : Ctx → Res} (hi : ∀ s, exec i s = issueInstr op f s d a b x extra body) (he : ∀ c, c.form = f → ok c → extra c = false) :
    Effects i op f d a b x ok (Faults codeOperand) := by
  intro s c h hok
  obtain ⟨hc, -, -⟩ := State.issued_iff.1 h
  exact ⟨_, (hi s).trans (issueInstr_refused h (he c (State.context_found hc).form hok)), faults_raiseFault hc (by decide)⟩

end Sys2Proof.Machine
end

section
/-! PROOF. O44 (`Obligations.SystemReads`): which system registers SYSR reads, and what each holds. -/

namespace Sys2Proof.Machine

open Sys2Proof

/-! ### Which registers a read may name -/

/-- The width of a system register in bits as R38 and R416 list it, 0 for an index in neither table. -/
def tableWidth (i : Nat) : Nat :=
  if i ≤ 0x008 ∨ 0x010 ≤ i ∧ i ≤ 0x013 ∨ 0x020 ≤ i ∧ i ≤ 0x023 ∨ i = 0x028 ∨ i = 0x029 ∨ i = 0x031
      ∨ i = 0x032 ∨ i = 0x037 ∨ i = 0x102 then 32
  else if i = 0x018 ∨ i = 0x030 ∨ 0x033 ≤ i ∧ i ≤ 0x036 ∨ i = 0x100 ∨ i = 0x101 then 64 else 0

theorem sysWidth_eq (i : Nat) : sysWidth i = if tableWidth i = 0 then none else some (tableWidth i) := by
  unfold sysWidth
  split
  case h_32 =>
    refine (if_pos ?_).symm
    simp only [imp_false] at *
    unfold tableWidth
    rw [if_neg (by omega), if_neg (by omega)]
  all_goals rfl

theorem tableWidth_cases (i : Nat) : tableWidth i = 0 ∨ (tableWidth i = 32 ∨ tableWidth i = 64) ∧ i < 512 := by
  unfold tableWidth
  split
  · exact .inr ⟨.inl rfl, by omega⟩
  · split
    · exact .inr ⟨.inr rfl, by omega⟩
    · exact .inl rfl

/-- The widths of the types are 8, 16, 32 and 64 bits. -/
theorem tyWidth_le (t : Ty) : tyWidth t ≤ 32 ∨ tyWidth t = 64 := by
  cases t <;> decide

/-- SYSR's check of step 3 is the rule of R39. -/
theorem sysReadable_iff (firmware : Bool) (i : Nat) (t : Ty) :
    (decide (i < 512) && sysReadable firmware i (tyWidth t)) = true
      ↔ tableWidth i ≠ 0 ∧ (tyWidth t = 64 → tableWidth i = 64) ∧ (0x100 ≤ i → firmware = true) := by
  unfold sysReadable
  rw [sysWidth_eq]
  have ht := tyWidth_le t
  rcases tableWidth_cases i with h | ⟨h, hi⟩
  · simp [h]
  · have h0 : tableWidth i ≠ 0 := by omega
    rw [if_neg h0]
    simp only [hi, h0, decide_true, Bool.true_and, Bool.and_eq_true, Bool.or_eq_true, decide_eq_true_eq, ne_eq, not_false_eq_true, true_and]
    refine and_congr (by omega) ?_
    cases firmware <;> simp

/-! ### SYSR -/

/-- The index that SYSR reads: the register that A names, or what A holds. -/
def Ctx.sysIndex (c : Ctx) (o : Operand) : Nat :=
  match o with
  | .sys i => i.toNat
  | o => c.uniform 1 .n32 o

theorem Ctx.sysIndex_of_ne (c : Ctx) {o : Operand} (h : ∀ i, o ≠ .sys i) : c.sysIndex o = c.read 1 .n32 o 0 := by
  unfold sysIndex
  split
  next i => exact absurd rfl (h i)
  · rfl

theorem exec_sysr (f : Form) (s : State) : exec (.sysr f) s = issueInstr 0xD3 f s (.reg (wideTy f.ty))
    { s := true, g := true, imm := true, long := true, sys := 2 } .unused none
    (fun c => c.sysIndex f.a < 512 && sysReadable c.firmware (c.sysIndex f.a) (tyWidth f.ty))
    (fun c => .done (c.write c.st f.d (wideTy f.ty) (fun l => c.sysValue (c.sysIndex f.a) l % 2 ^ tyWidth f.ty))) := rfl

/-- SYSR where the index is one that the code may read, and where it is not. -/
theorem sysr_effects (f : Form) {index : Ctx → Nat} (hidx : ∀ c : Ctx, index c = c.sysIndex f.a) {legal : Ctx → Prop}
    (hlegal : ∀ c : Ctx, legal c ↔ tableWidth (index c) ≠ 0 ∧ (tyWidth f.ty = 64 → tableWidth (index c) = 64)
      ∧ (0x100 ≤ index c → c.firmware = true)) :
    Effects (.sysr f) 0xD3 f (.reg (wideTy f.ty)) { s := true, g := true, imm := true, long := true, sys := 2 } .unused none legal
      (Computes fun c => [⟨f.d, wideTy f.ty, fun l => c.sysValue (index c) l % 2 ^ tyWidth f.ty⟩])
    ∧ Effects (.sysr f) 0xD3 f (.reg (wideTy f.ty)) { s := true, g := true, imm := true, long := true, sys := 2 } .unused none
      (fun c => ¬legal c) (Faults codeOperand) := by
  obtain rfl : index = fun c => c.sysIndex f.a := funext hidx
  have check (c : Ctx) := (hlegal c).trans (sysReadable_iff c.firmware (c.sysIndex f.a) f.ty).symm
  exact ⟨effects_one (fun s _ _ _ => exec_sysr f s) (fun c _ h => (check c).1 h) fun _ _ _ => rfl,
    effects_refused (exec_sysr f) fun c _ h => by
      rw [← Bool.not_eq_true]
      exact fun hc => h ((check c).2 hc)⟩

/-! ### What the registers hold -/

/-- The depth of a chain of frames whose last has no parent among the frames. -/
theorem Wave.depthFrom_chain (w : Wave) (f : Frame) (fs : List Frame) (n fr : Nat) (hn : fs.length < n) (hf : w.frame? fr = some f)
    (hc : (f :: fs).IsChain (fun a b => w.frame? a.parent = some b))
    (hl : ((f :: fs).getLast?.bind (fun x => w.frame? x.parent)) = none) : w.depthFrom n fr = fs.length + 1 := by
  induction fs generalizing f n fr with
  | nil =>
    obtain ⟨n, rfl⟩ : ∃ m, n = m + 1 := ⟨n - 1, by simp at hn; omega⟩
    have hp : w.frame? f.parent = none := by simpa using hl
    have : w.depthFrom n f.parent = 0 := by cases n <;> simp [Wave.depthFrom, hp]
    simp [Wave.depthFrom, hf, this]
  | cons g gs ih =>
    obtain ⟨n, rfl⟩ : ∃ m, n = m + 1 := ⟨n - 1, by simp at hn; omega⟩
    obtain ⟨hg, hc⟩ := List.isChain_cons_cons.1 hc
    have := ih g n f.parent (by simpa using hn) hg hc (by simpa using hl)
    simp only [Wave.depthFrom, hf, this, List.length_cons]
    omega

/-- In the main frontier there is no frame to count. -/
theorem Wave.depthFrom_none (w : Wave) {fr : Nat} (n : Nat) (h : w.frame? fr = none) : w.depthFrom n fr = 0 := by
  cases n <;> simp [Wave.depthFrom, h]

theorem Group.allotWord_eq (g : Group) :
    g.allotWord = g.cur.v + 2 ^ 9 * g.cur.s + 2 ^ 18 * g.cur.t + 2 ^ 24 * bitNat (g.cur = g.full) := by
  unfold Group.allotWord bitNat
  by_cases h : g.cur = g.full <;> simp [h] <;> omega

theorem Frame.cause_eq (f : Frame) : f.cause = f.code.toNat + 2 ^ 16 * f.status.toNat + match f.cmd with
    | none => 0
    | some k => 2 ^ 26 * k.1 + 2 ^ 29 := by
  unfold Frame.cause
  cases f.cmd <;> simp <;> omega

/-- The handle word of a die's escalation port fits in 32 bits. -/
theorem escWord_eq (facet : Nat) : (objWord facet 2 escIndex 0).toNat = facet % 64 * 2 ^ 26 + 2 * 2 ^ 23 + 0xFFF00 * 8 := by
  unfold objWord escIndex
  rw [BitVec.toNat_ofNat]
  omega

theorem Ctx.sysValue_escPort (c : Ctx) (l : Nat) :
    c.sysValue 0x102 l = c.grp.facet / 4 * 4 % 64 * 2 ^ 26 + 2 * 2 ^ 23 + 0xFFF00 * 8 := by
  generalize hi : (0x102 : Nat) = i
  unfold sysValue
  dsimp only
  split <;> cases hi
  · exact escWord_eq _
  · contradiction

/-- Settles O44: what SYSR checks is the rule of R39 (`sysReadable_iff`), and each register reads as the table says, most of them by definition. -/
theorem systemReads : Obligations.SystemReads := by
  unfold Obligations.SystemReads
  refine ⟨fun f => ⟨fun i hi => ?_, fun hi => ?_⟩, fun c l => ?_⟩
  · exact sysr_effects f (fun c => by rw [hi]; rfl) fun c => Iff.rfl
  · exact sysr_effects f (fun c => (c.sysIndex_of_ne hi).symm) fun c => Iff.rfl
  · refine ⟨rfl, rfl, rfl, rfl, rfl, rfl, rfl, rfl, rfl, rfl, rfl, rfl, rfl, rfl, ?_, rfl, rfl, rfl, c.grp.allotWord_eq, rfl, rfl,
      c.sysValue_escPort l, fun f fs hn hf hc hl => c.wave.depthFrom_chain f fs 4 _ hn hf hc hl, fun hf => ?_, fun f hf => ?_⟩
    · show _ * 64 + _ * 2 ^ 16 = _
      rw [Nat.mul_comm _ 64, Nat.mul_comm _ (2 ^ 16)]
      rfl
    · have hfr {α : Type} (x : α) (F : Frame → α) : (c.wave.frame? c.path.fr).elim x F = x := by rw [hf]; rfl
      exact ⟨c.wave.depthFrom_none 4 hf, hfr _ _, hfr _ _, hfr _ _, hfr _ _, hfr _ _, hfr _ _⟩
    · have hfr {α : Type} (x : α) (F : Frame → α) : (c.wave.frame? c.path.fr).elim x F = F f := by rw [hf]; rfl
      exact ⟨(hfr _ _).trans f.cause_eq, hfr _ _, hfr _ _, hfr _ _, hfr _ _, hfr _ _⟩

end Sys2Proof.Machine
end

section
/-! PROOF. What a write to main memory leaves to be read under the key of its context (R201, R202), and in the other parts of the state. -/

namespace Sys2Proof.Machine

open Sys2Proof

theorem look_keepKeys {α : Type} (d : α) (t : Nat → Bool) (m : SMap α) (k : Nat) :
    look d (keepKeys t m) k = if t k then look d m k else d := by
  induction m with
  | nil => simp [keepKeys]
  | cons c r ih =>
    obtain ⟨j, x⟩ := c
    unfold keepKeys at *
    by_cases hj : t j = true
    · simp only [List.filter_cons, hj, if_true, look, ih]
      by_cases hk : k = j
      · subst hk; simp [hj]
      · simp [hk]
    · simp only [List.filter_cons, hj, Bool.false_eq_true, if_false, look, ih]
      by_cases hk : k = j
      · subst hk; simp [hj]
      · simp [hk]

/-! ### One byte -/

/-- What one context reads, of two states with the same bytes and marks. -/
theorem State.readByte_congr {s t : State} (hm : t.mem = s.mem) (hk : t.keyed = s.keyed) (ctx k : Nat) :
    t.readByte ctx k = s.readByte ctx k := by
  unfold readByte markOf
  rw [hm, hk]

/-- Memory of this package is made of whole sectors. -/
theorem isLocal_sector {j k : Nat} (h : isLocal j = true) (hs : k / 64 = j / 64) : isLocal k = true := by
  simp only [isLocal, decide_eq_true_eq] at *
  omega

theorem State.markOf_eq {s : State} {k : Nat} (h : isLocal k = true) : s.markOf k = look 0 s.keyed (k / 64) := by
  simp [markOf, h]

/-- A sector brought under a context's key reads as it did under that key (R202). -/
theorem State.readByte_claimSector (s : State) (ctx key k : Nat) : (s.claimSector ctx key).readByte ctx k = s.readByte ctx k := by
  unfold claimSector
  dsimp only
  split
  · rfl
  next hc =>
    obtain ⟨hloc, -⟩ : isLocal key = true ∧ look 0 s.keyed (key / 64) ≠ ctx + 1 := by simpa using hc
    by_cases hk : k / 64 = key / 64
    · have hkl := isLocal_sector hloc hk
      unfold readByte
      rw [markOf_eq hkl, markOf_eq hkl, hk]
      simp only [look_put_same]
      by_cases h0 : look 0 s.keyed (key / 64) = 0
      · simp [h0, plain]
      · simp only [h0, if_false, plain, if_true]
        have hin : k - key / 64 * 64 < (s.readBytes ctx (key / 64 * 64) 64).length := by simp [readBytes]; omega
        have hat : key / 64 * 64 + (k - key / 64 * 64) = k := by omega
        have := Memory.read_writeBytes_inside _ s.mem (key / 64 * 64) _ hin
        rw [hat] at this
        rw [this]
        simp only [readBytes, List.getElem_map, List.getElem_range, hat]
        unfold readByte
        rw [markOf_eq hkl, hk]
        rfl
    · have hmark : ∀ m, ({ s with mem := m, keyed := put 0 s.keyed (key / 64) (ctx + 1) } : State).markOf k = s.markOf k := by
        intro m
        simp [markOf, look_put_ne _ _ _ hk]
      unfold readByte
      rw [hmark]
      split
      · rfl
      · congr 1
        apply Memory.read_writeBytes_outside
        simp only [readBytes, List.length_map, List.length_range]
        omega

/-- The sector that a byte is written to stands under the key of its context. -/
theorem State.markOf_claimSector (s : State) (ctx key : Nat) (h : isLocal key = true) :
    (s.claimSector ctx key).markOf key = ctx + 1 := by
  rw [markOf_eq h]
  unfold claimSector
  dsimp only
  split
  next hc => simpa [h] using hc
  · exact look_put_same 0 s.keyed (key / 64) (ctx + 1)

theorem State.readByte_writeByte (s : State) (ctx key : Nat) (b : Byte) (k : Nat) :
    (s.writeByte ctx key b).readByte ctx k = if k = key then b else s.readByte ctx k := by
  have hmark : (s.writeByte ctx key b).markOf k = (s.claimSector ctx key).markOf k := rfl
  have hread : (s.writeByte ctx key b).mem.read k = if k = key then b else (s.claimSector ctx key).mem.read k :=
    Memory.read_write _ _ _ _
  unfold readByte
  rw [hmark, hread]
  by_cases hk : k = key
  · subst hk
    simp only [if_true]
    cases hl : isLocal k with
    | true => rw [markOf_claimSector s ctx k hl]; simp [plain]
    | false => simp [markOf, hl, plain]
  · simp only [hk, if_false]
    exact readByte_claimSector s ctx key k

/-! ### A run of bytes -/

/-- The fields that a write of bytes with no rule but the key's can change. -/
theorem State.claimSector_eq (s : State) (ctx key : Nat) :
    s.claimSector ctx key = { s with mem := (s.claimSector ctx key).mem, keyed := (s.claimSector ctx key).keyed } := by
  unfold claimSector
  dsimp only
  split <;> rfl

theorem State.writeByte_eq (s : State) (ctx key : Nat) (b : Byte) :
    s.writeByte ctx key b = { s with mem := (s.writeByte ctx key b).mem, keyed := (s.writeByte ctx key b).keyed } := by
  unfold writeByte
  rw [claimSector_eq]

/-- Bytes written one by one from a key on. -/
def State.writeUp (s : State) (ctx key : Nat) (f : Nat → Byte) (n : Nat) : State :=
  (List.range n).foldl (fun s i => s.writeByte ctx (key + i) (f i)) s

theorem State.writeUp_succ (s : State) (ctx key : Nat) (f : Nat → Byte) (n : Nat) :
    s.writeUp ctx key f (n + 1) = (s.writeUp ctx key f n).writeByte ctx (key + n) (f n) := by
  simp [writeUp, List.range_succ]

theorem State.writeUp_eq (s : State) (ctx key : Nat) (f : Nat → Byte) (n : Nat) :
    s.writeUp ctx key f n = { s with mem := (s.writeUp ctx key f n).mem, keyed := (s.writeUp ctx key f n).keyed } := by
  induction n with
  | zero => rfl
  | succ n ih => rw [writeUp_succ, writeByte_eq, ih]

theorem State.readByte_writeUp (s : State) (ctx key : Nat) (f : Nat → Byte) (n k : Nat) :
    (s.writeUp ctx key f n).readByte ctx k = if key ≤ k ∧ k < key + n then f (k - key) else s.readByte ctx k := by
  induction n with
  | zero => rw [if_neg (by omega)]; rfl
  | succ n ih =>
    rw [writeUp_succ, readByte_writeByte, ih]
    by_cases hk : k = key + n
    · subst hk; simp
    · have h : (key ≤ k ∧ k < key + n) ↔ (key ≤ k ∧ k < key + (n + 1)) := by omega
      simp only [hk, if_false, h]

/-- A number read where its bytes stand. -/
theorem State.readNum_of_bytes {t : State} {ctx key n x : Nat}
    (h : ∀ i, i < n → t.readByte ctx (key + i) = (toBytes n x).getD i 0) : t.readNum ctx key n = x % 256 ^ n := by
  have hb : t.readBytes ctx key n = toBytes n x := by
    apply List.ext_getElem
    · simp [readBytes, length_toBytes]
    · intro i h1 h2
      have hi : i < n := by simpa [readBytes] using h1
      simp only [readBytes, List.getElem_map, List.getElem_range, h i hi]
      exact List.getD_eq_getElem _ _ h2
  rw [readNum, hb, ofBytes_toBytes]

/-! ### A write at its home agent -/

/-- What instruction caches still hold is all that is noted before a write. -/
theorem State.keepOld_eq (s : State) (key n : Nat) : s.keepOld key n = { s with icache := (s.keepOld key n).icache } := by
  unfold keepOld
  dsimp only
  split <;> rfl

/-- What a write to main memory that meets no TAIL word leaves: its bytes, the rest of memory, and the loans. -/
structure State.Stored (s t : State) (ctx key : Nat) (bytes : List Byte) : Prop where
  read     : ∀ k, t.readByte ctx k = if key ≤ k ∧ k < key + bytes.length then bytes.getD (k - key) 0 else s.readByte ctx k
  lends    : t.lends = s.lends
  launches : t.launches = s.launches.map (fun l =>
    if l.cancelKey.any (fun k => meets key bytes.length k 8 && t.readNum (t.under l.ctx k) k 8 ≠ 0) && !l.cancel
    then { l with cancel := true, cancelAt := s.edges } else l)
  ctxs     : t.ctxs = s.ctxs.filterMap (fun c => if meets key bytes.length c.area 64 then t.readDesc c else some c)

/-- Cancel words and context descriptors follow what has been written (R290, R391). -/
theorem State.launches_rules (x : State) (key n : Nat) :
    ((x.cancelRule key n).descRule key n).launches = x.launches.map (fun l =>
      if l.cancelKey.any (fun k => meets key n k 8
        && ((x.cancelRule key n).descRule key n).readNum (((x.cancelRule key n).descRule key n).under l.ctx k) k 8 ≠ 0) && !l.cancel
      then { l with cancel := true, cancelAt := x.edges } else l) := rfl

theorem State.ctxs_rules (x : State) (key n : Nat) :
    ((x.cancelRule key n).descRule key n).ctxs = x.ctxs.filterMap (fun c =>
      if meets key n c.area 64 then ((x.cancelRule key n).descRule key n).readDesc c else some c) := rfl

theorem State.applyMain_stored {s : State} {ctx key : Nat} {bytes : List Byte} {unit : Nat}
    (hq : ∀ q ∈ s.queues, meets key bytes.length (q.key + 16) 8 = false) :
    s.Stored (s.applyMain ctx key bytes unit) ctx key bytes := by
  have hq' : (s.keepOld key bytes.length).queues.filter (fun q => meets key bytes.length (q.key + 16) 8) = [] := by
    rw [keepOld_eq]
    exact List.filter_eq_nil_iff.2 fun q hm => by simp [hq q hm]
  have hfold : ∀ u : State, (List.range bytes.length).foldl (fun s i =>
      if ([] : List Queue).any (fun q => q.key + 16 ≤ key + i && key + i < q.key + 24) then s
      else s.writeByte ctx (key + i) (bytes.getD i 0)) u = u.writeUp ctx key (fun i => bytes.getD i 0) bytes.length := fun u => rfl
  obtain ⟨u, hu, hread⟩ : ∃ u, u = (s.keepOld key bytes.length).writeUp ctx key (fun i => bytes.getD i 0) bytes.length
      ∧ ∀ k, u.readByte ctx k = if key ≤ k ∧ k < key + bytes.length then bytes.getD (k - key) 0 else s.readByte ctx k :=
    ⟨_, rfl, fun k => by rw [readByte_writeUp, keepOld_eq]; rfl⟩
  have hrest : u = { s with icache := (s.keepOld key bytes.length).icache, mem := u.mem, keyed := u.keyed } := by
    rw [hu, writeUp_eq, keepOld_eq]
  have hlends : u.lends = s.lends := by rw [hrest]
  have hlaunches : u.launches = s.launches := by rw [hrest]
  have hedges : u.edges = s.edges := by rw [hrest]
  have hctxs : u.ctxs = s.ctxs := by rw [hrest]
  unfold applyMain
  dsimp only
  rw [hq', hfold, ← hu, List.foldl_nil]
  refine ⟨hread, hlends, ?_, ?_⟩
  · rw [launches_rules, ← hlaunches, ← hedges]; rfl
  · rw [ctxs_rules, ← hctxs]; rfl

/-- A write by a device that keeps no copy. -/
theorem State.storeMain_stored {s : State} {ctx key : Nat} {bytes : List Byte} {unit : Nat}
    (hq : ∀ q ∈ s.queues, meets key bytes.length (q.key + 16) 8 = false) :
    s.Stored (s.storeMain ctx key bytes unit) ctx key bytes := by
  obtain ⟨hr, hl, hn, hc⟩ := applyMain_stored (s := (s.backInvalidate key (max 1 bytes.length)).recallRange key (max 1 bytes.length))
    (ctx := ctx) (unit := unit) hq
  exact ⟨hr, hl, hn, hc⟩

/-- The number written is what stands there. -/
theorem State.Stored.readNum {s t : State} {ctx key n x : Nat} (h : s.Stored t ctx key (toBytes n x)) :
    t.readNum ctx key n = x % 256 ^ n := by
  refine readNum_of_bytes fun i hi => ?_
  rw [h.read, length_toBytes, if_pos (by omega), Nat.add_sub_cancel_left]

theorem State.Stored.under {s t : State} {ctx key : Nat} {bytes : List Byte} (h : s.Stored t ctx key bytes) (c k : Nat) :
    t.under c k = s.under c k := by
  unfold State.under frameOwner
  rw [h.lends]

end Sys2Proof.Machine
end

section
/-! PROOF. O49 (`Obligations.LaunchEvents`): one lemma for each event of a launch's life. -/

namespace Sys2Proof.Machine

open Sys2Proof

section
variable {s t : State} {gid lid : Nat} {g : Group} {l : Launch}

theorem State.launch?_id (h : s.launch? lid = some l) : l.id = lid := by
  simpa using List.find?_some h

/-- A change that spoils no promise of R274 is made. -/
theorem State.unless_of_keeps (h : s.spoils t = false) : s.unless t = t := by
  simp [State.unless, h]

/-! ### Acceptance and placement -/

section
variable {q : Queue} {h : Held} {places : List (Nat × List Nat)} (hl : s.launch? lid = some l) (hq : s.queue? l.queue = some q)
  (hp : l.stat = .presented) (hs : q.stage = .presented lid) (hslot : q.slot.isSome = true) (hst : s.qState q = 1)
  (hpk : s.packetAt q l.facet = .ok (t, h))
include hl hq hp hs hslot hst hpk

/-- A presented launch that its queue's slot serves is accepted at once where it does not place all of its tasks together. -/
theorem execLaunchAccept_atOnce (hc : l.recd.pclass ≠ 0 ∨ l.bits ≠ 0) :
    exec (.launchAccept lid places) s = .next (t.accepted l q h.key) := by
  show execLaunchAccept lid places s = _
  have hn : q.slot.isNone = false := by simpa [Option.isSome_iff_ne_none] using hslot
  have hc' : (decide (l.recd.pclass ≠ 0) || decide (l.bits ≠ 0)) = true := by simpa using hc
  simp only [execLaunchAccept, hl, hq, hp, hs, hn, hst, hpk, hc', ne_eq, not_true_eq_false, decide_false, Bool.or_self,
    Bool.false_eq_true, if_false, if_true]

/-- A concurrent launch is accepted where each of its tasks has its place. -/
theorem execLaunchAccept_together {v : State} (hc : l.recd.pclass = 0) (hb : l.bits = 0) (hturn : ∀ p ∈ places, t.turnOf l p.1 = true)
    (hv : State.placeEach lid (t.accepted l q h.key) l.tasks places = some v)
    (hk : t.spoils (v.updLaunch lid (fun x => { x with tasks := [] })) = false) :
    exec (.launchAccept lid places) s = .next (v.updLaunch lid (fun x => { x with tasks := [] })) := by
  show execLaunchAccept lid places s = _
  have hn : q.slot.isNone = false := by simpa [Option.isSome_iff_ne_none] using hslot
  have hall : places.all (fun p => t.turnOf l p.1) = true := List.all_eq_true.2 hturn
  simp only [execLaunchAccept, hl, hq, hp, hs, hn, hst, hpk, hc, hb, hall, hv, State.unless_of_keeps hk, ne_eq, not_true_eq_false,
    decide_false, Bool.or_self, Bool.not_true, Bool.false_eq_true, if_false]

end

/-- A launch that is accepted stands last in admission order. -/
theorem State.accepted_eq {q : Queue} {key : Nat} (h : l.id = lid) :
    t.accepted l q key = ({ t with
        launches := t.launches.filter (fun (x : Launch) => x.id ≠ lid) ++ [{ l with
          stat := .accepted
          headFrom := t.edges }] }.dropCode l.ctx).consume q key := by
  subst h; rfl

/-- The head of a task list goes under a set cancel bit. -/
theorem execGroupPlace_dropped {x : Task} {xs : List Task} {facet : Nat} (cores : List Nat) (hl : s.launch? lid = some l)
    (ht : l.tasks = x :: xs) (hs : l.stat = .accepted) (h : l.bits.getLsbD facet = true ∨ l.recd.pclass = 0) :
    exec (.groupPlace lid facet cores) s = .next (s.updLaunch lid (fun y => { y with
      tasks := xs
      dropped := y.dropped + 1 })) := by
  show execGroupPlace lid facet cores s = _
  have h' : (l.bits.getLsbD facet || decide (l.recd.pclass = 0)) = true := by simpa using h
  simp only [execGroupPlace, hl, ht, hs, h', ne_eq, not_true_eq_false, if_false, if_true]

/-- The head of a task list is placed where its turn has come. -/
theorem execGroupPlace_placed {x : Task} {xs : List Task} {facet : Nat} {cores : List Nat} (hl : s.launch? lid = some l)
    (ht : l.tasks = x :: xs) (hs : l.stat = .accepted) (hb : l.bits.getLsbD facet = false) (hc : l.recd.pclass ≠ 0)
    (hsaved : s.savedBefore l (if x.order.isEmpty then [l.started] else x.order) = false) (hturn : s.turnOf l facet = true)
    (hp : s.placeTask l x facet cores = some t)
    (hk : s.spoils (t.updLaunch lid (fun y => { y with tasks := xs, headFrom := t.edges })) = false) :
    exec (.groupPlace lid facet cores) s = .next (t.updLaunch lid (fun y => { y with tasks := xs, headFrom := t.edges })) := by
  show execGroupPlace lid facet cores s = _
  simp only [execGroupPlace, hl, ht, hs, hb, hc, hsaved, hturn, hp, ne_eq, not_true_eq_false, decide_false, Bool.or_false,
    Bool.false_eq_true, Bool.not_true, if_false, State.unless_of_keeps hk]

/-- A task that is placed starts as R31 says. -/
theorem State.placeTask_starts {x : Task} {facet : Nat} {cores : List Nat} (hp : s.placeTask l x facet cores = some t) :
    ∃ g ∈ t.groups, g.id = s.nextId ∧ g.ctx = l.ctx ∧ g.launch = some l.id ∧ g.facet = facet ∧ g.stat = .resident
      ∧ g.shape = l.recd.shape ∧ g.g = [] ∧ g.tiles = [] ∧ g.shared = [] ∧ g.bars = [] ∧ g.cur = l.recd.pro ∧ g.full = l.recd.full
      ∧ { g.task with order := x.order, born := x.born } = x ∧ g.waves.map (fun (w : Wave) => w.id) = List.range l.recd.waves
      ∧ ∀ w ∈ g.waves, w.v = [] ∧ w.s = [] ∧ w.p = [] ∧ w.h = [] ∧ w.m = [] ∧ w.trapVec = 0 ∧ w.frames = [] ∧ w.exited = 0
        ∧ w.cmds = [] ∧ w.present = presentLanes (l.recd.shape.1 * l.recd.shape.2.1 * l.recd.shape.2.2) w.id
        ∧ ∀ p ∈ w.paths, p.pc = l.recd.code + BitVec.ofNat 64 l.recd.entry ∧ p.mask = w.present ∧ p.prio = l.recd.entryPrio
            ∧ p.fr = 0 ∧ p.wait = .ready := by
  unfold State.placeTask at hp
  dsimp only at hp
  split at hp
  · cases hp
  · split at hp
    · cases hp
    · obtain rfl := Option.some.inj hp
      refine ⟨_, List.mem_append_right _ (List.mem_singleton_self _), rfl, rfl, rfl, rfl, rfl, rfl, rfl, rfl, rfl, rfl, rfl, rfl, rfl, ?_,
        fun w hw => ?_⟩
      · exact (List.map_map ..).trans (List.map_id'' (fun _ => rfl) _)
      · obtain ⟨i, _, rfl⟩ := List.mem_map.1 hw
        refine ⟨rfl, rfl, rfl, rfl, rfl, rfl, rfl, rfl, rfl, rfl, fun p hm => ?_⟩
        simp only [newWave] at hm ⊢
        split at hm
        · cases hm
        · obtain rfl := List.mem_singleton.1 hm
          exact ⟨rfl, rfl, rfl, rfl, rfl⟩

/-! ### Allotments and allowances -/

theorem execAcqGrant_fits {n : Nat} {m : BitVec 4} (hg : s.group? gid = some g) (hs : g.stat = .resident)
    (hf : g.acq.find? (fun x => s.acqFits g x.1 x.2) = some (n, m)) (hk : s.spoils (s.grant gid m) = false) :
    ∃ t x, exec (.acqGrant gid) s = .next t ∧ t.group? gid = some x ∧ x.cur = g.cur.take g.full m
      ∧ x.acq = g.acq.filter (fun y => y.2 ≠ m) := by
  have hx : ∃ x, (s.grant gid m).group? gid = some x ∧ x.cur = g.cur.take g.full m ∧ x.acq = g.acq.filter (fun y => y.2 ≠ m) := by
    unfold State.grant
    rw [State.group?_updGroup, hg]
    · exact ⟨_, rfl, rfl, rfl⟩
    · exact fun _ => rfl
  obtain ⟨x, hx⟩ := hx
  refine ⟨s.grant gid m, x, ?_, hx⟩
  show execAcqGrant gid s = _
  simp only [execAcqGrant, hg, hf, hs, if_true, State.unless_of_keeps hk]

theorem Group.tile_key {core k i j : Nat} (hi : i < 64) (hj : j < 64) (hk : k < 32) : tileKey core k i j / 4096 % 32 = k := by
  unfold tileKey
  omega

/-- What a group that gives up the named components keeps (R31, R321). -/
theorem State.group?_lower {m : BitVec 4} {but : Option Nat} (hg : s.group? gid = some g) :
    ∃ x, (s.lower gid but m).group? gid = some x ∧ x.cur = g.cur.take g.pro m
      ∧ (bit m 2 = true → ∀ k, x.shared.read k = if k < g.pro.sh then g.shared.read k else 0)
      ∧ (bit m 3 = true → ∀ core k i j, k < 32 → i < 64 → j < 64 →
          x.tile core k i j = if k < g.pro.t then g.tile core k i j else 0) := by
  unfold State.lower
  rw [State.group?_updGroup _ _ _ (by exact fun _ => rfl), hg]
  refine ⟨_, rfl, rfl, fun h k => ?_, fun h core k i j hk hi hj => ?_⟩
  · simp only [h, if_true, Memory.read, look_keepKeys, decide_eq_true_eq]
    rfl
  · simp only [h, if_true, Group.tile, look_keepKeys, Group.tile_key hi hj hk, decide_eq_true_eq]
    split <;> rfl

theorem execRelLower_lowers (hs : g.stat = .resident) (hn : g.lowerable ≠ 0) (hg : s.group? gid = some g) :
    exec (.relLower gid) s = .next (s.lower gid none g.lowerable) := by
  show execRelLower gid s = _
  have h : (decide (g.stat = .resident) && decide (g.lowerable ≠ 0)) = true := by simp only [hs, hn, ne_eq, not_false_eq_true, decide_true, Bool.and_self]
  simp only [execRelLower, hg, h, if_true]

theorem execAllowExpiry_due {w : Wave} {ws : List Wave} (hg : s.group? gid = some g) (hgl : g.launch = some lid)
    (hl : s.launch? lid = some l) (hw : g.liveWaves = w :: ws) (hd : g.div = true) (hs : g.stat = .resident) (h0 : 0 < l.recd.allow)
    (hr : l.recd.allow ≤ g.resident) :
    exec (.allowExpiry gid) s = .next (s.exhaust gid w.id ((bestPath w.paths).elim 0 Path.pc)) := by
  show execAllowExpiry gid s = _
  have hid := State.group?_id s hg
  have hdue : s.allowDue g = true := by
    simp [State.allowDue, hd, hs, hw, hgl, hl, hr, Nat.pos_iff_ne_zero.1 h0]
  simp [execAllowExpiry, hg, State.expireAllow, hw, hdue, hid]

/-! ### Retirement -/

theorem execTaskRetire_retires {w : Wave} {ws : List Wave} {left : List (DWord × Deferred)} {ok : Option Bool}
    (hg : s.group? gid = some g) (hgl : g.launch = some lid) (hw : g.waves = w :: ws) (hr : g.retires = true)
    (h : (s.updLaunch lid (fun l => { l with
        exitMax := max l.exitMax g.exitMax
        exitOr := l.exitOr ||| g.exitOr })).retireAll g w g.deferred = (t, left, ok)) :
    let kids := if ok = some true && !(t.launch? lid).any (fun l => l.fault.isSome || (t.descOf l.ctx).any CtxDesc.ending)
      then g.deferred.filterMap (fun x => x.2.child) else []
    (ok = none → exec (.taskRetire gid) s = .next (t.updGroup gid (fun x => { x with
      deferred := (g.deferred.filter (fun y => y.2.child.isSome)).filter (fun y => !left.contains y) ++ left })))
    ∧ (ok ≠ none → exec (.taskRetire gid) s = .next (((t.updLaunch lid (fun l => { l with
      headFrom := if l.tasks.isEmpty then t.edges else l.headFrom
      tasks := l.tasks ++ kids
      total := l.total + kids.length
      retired := l.retired + 1 })).dropGroup gid).count g.facet g.ctx 6 1)) := by
  have hid := State.group?_id s hg
  have hkids : (g.deferred.filter (fun x => x.2.child.isSome)).filterMap (fun x => x.2.child) = g.deferred.filterMap (fun x => x.2.child) := by
    rw [List.filterMap_filter]
    refine List.filterMap_congr fun x _ => ?_
    cases x.2.child <;> rfl
  refine ⟨fun hok => ?_, fun hok => ?_⟩
  all_goals
    show execTaskRetire gid s = _
    simp only [execTaskRetire, hg, hr, if_true, State.retireTask, hgl, hw, List.head?_cons, h, hid, hkids]
  · simp [hok]
  · simp [hok]

/-! ### The end of a launch -/

theorem Launch.status_eq (l : Launch) :
    l.status = if l.fault.isSome then 2 else if l.dropped + l.aborted = 0 then 0 else 1 := by
  unfold Launch.status
  by_cases h : l.dropped + l.aborted = 0 <;>
    simp only [h, ne_eq, not_true_eq_false, not_false_eq_true, if_true, if_false]

theorem execLaunchComplete_done {p : Pin} (hl : s.launch? lid = some l) (hs : l.stat = .accepted) (ht : l.tasks = [])
    (hg : ∀ g ∈ s.groups, g.launch ≠ some lid) (hf : ∀ x ∈ s.faults, x.launch ≠ lid)
    (hx : s.translate l.facet 9 l.ctx .write l.recd.compl.toNat = (.ok p, t)) :
    let st := if l.fault.isSome then 2 else if l.dropped + l.aborted = 0 then 0 else 1
    let u := t.storeMain p.owner (p.base + l.recd.compl.toNat % 4096) (l.complBytes (some st) (t.facet l.facet).ref)
    exec (.launchComplete lid) s = .next { u with launches := u.launches.filter (fun x => x.id ≠ lid) } := by
  have hid := State.launch?_id hl
  have hg' : s.groups.any (fun g => decide (g.launch = some lid)) = false := by simpa using hg
  have hf' : s.faults.any (fun f => decide (f.launch = lid)) = false := by simpa using hf
  show execLaunchComplete lid s = _
  simp only [execLaunchComplete, hl, hs, ht, hg', hf', decide_true, List.isEmpty_nil, Bool.not_false, Bool.and_self, if_true,
    State.finishLaunch, State.writeCompl, hx, hid, Launch.status_eq]

/-- The pages that a host access to a word must flip, none of them busy. -/
theorem State.forHost_some {a n : Nat} (h : ∀ p ∈ s.toFlip a n, s.pageBusy p = false) :
    s.forHost a n = some (((s.toFlip a n).foldl (fun s p => s.flipHost p) s).recallRange a n) := by
  have : (s.toFlip a n).any s.pageBusy = false := by simpa using h
  simp [forHost, this]

/-- Pages flipped to host bias: nothing changes but their bias and the copies of them. -/
theorem State.flipHosts_eq (ps : List Nat) (s : State) :
    ∃ d l2 b, ps.foldl (fun s p => s.flipHost p) s = { s with devBias := d, l2 := l2, bad := b } := by
  induction ps generalizing s with
  | nil => exact ⟨_, _, _, rfl⟩
  | cons p ps ih =>
    obtain ⟨d, l2, b, h⟩ := ih (s.flipHost p)
    exact ⟨d, l2, b, h⟩

/-- A word that the host writes while no page it needs is busy, and that is no TAIL word. -/
theorem State.hostWord_stored {ctx k : Nat} {v : DWord} (hq : ∀ q ∈ s.queues, meets k 8 (q.key + 16) 8 = false)
    (hp : ∀ p ∈ s.toFlip k 8, s.pageBusy p = false) (hb : s.host.boot = 2 ∨ 2 ^ 40 ≤ k) :
    s.Stored (s.hostWord ctx k v) (s.under ctx k) k (toBytes 8 v.toNat) := by
  have hq' : ∀ q ∈ s.queues, meets k (toBytes 8 v.toNat).length (q.key + 16) 8 = false := by rwa [length_toBytes]
  unfold hostWord
  dsimp only
  cases hl : isLocal k with
  | false =>
    simp only [Bool.false_and, Bool.false_eq_true, if_false]
    exact storeMain_stored hq'
  | true =>
    have hboot : s.host.boot = 2 := hb.resolve_right fun h => by simp [isLocal] at hl; omega
    obtain ⟨d, l2, b, he⟩ := flipHosts_eq (s.toFlip k 8) s
    simp only [hboot, forHost_some hp, he, ne_eq, not_true_eq_false, decide_false, Bool.and_false, Bool.false_eq_true, if_false, if_true,
      Option.map_some, Option.getD_some]
    obtain ⟨hr, hle, hn, hc⟩ := storeMain_stored (s := ({ s with devBias := d, l2 := l2, bad := b } : State).recallRange k 8)
      (ctx := s.under ctx k) (unit := 64) hq'
    exact ⟨hr, hle, hn, hc⟩

/-- A launch whose cancel word becomes nonzero is cancelled (R290). -/
theorem State.Stored.launch? {ctx key : Nat} {bytes : List Byte} (h : s.Stored t ctx key bytes) (hl : s.launch? lid = some l) :
    ∃ x, t.launch? lid = some x ∧ x.cancel = (l.cancel
      || l.cancelKey.any (fun k => meets key bytes.length k 8 && t.readNum (t.under l.ctx k) k 8 ≠ 0)) := by
  unfold State.launch? at hl ⊢
  rw [h.launches, find?_map_id s.launches Launch.id _ lid (by intro x; split <;> rfl), hl]
  refine ⟨_, rfl, ?_⟩
  dsimp only
  generalize Option.any _ l.cancelKey = b
  cases b <;> cases hc : l.cancel <;> simp [hc]

theorem execCancelWordWrite_stored {k : Nat} {v : DWord} (hl : s.launch? lid = some l) (hk : l.cancelKey = some k)
    (hq : ∀ q ∈ s.queues, meets k 8 (q.key + 16) 8 = false) (hp : ∀ p ∈ s.toFlip k 8, s.pageBusy p = false)
    (hb : s.host.boot = 2 ∨ 2 ^ 40 ≤ k) :
    ∃ t x, exec (.cancelWordWrite lid v) s = .next t ∧ t.launch? lid = some x ∧ x.cancel = (l.cancel || v != 0)
      ∧ t.readNum (t.under l.ctx k) k 8 = v.toNat := by
  have h := State.hostWord_stored (ctx := l.ctx) (v := v) hq hp hb
  have hv : (s.hostWord l.ctx k v).readNum ((s.hostWord l.ctx k v).under l.ctx k) k 8 = v.toNat := by
    rw [h.under, h.readNum]
    exact Nat.mod_eq_of_lt v.isLt
  obtain ⟨x, hx, hc⟩ := h.launch? hl
  refine ⟨_, x, ?_, hx, ?_, hv⟩
  · show execCancelWordWrite lid v s = _
    simp only [execCancelWordWrite, hl, hk]
    rfl
  · have hm : meets k (toBytes 8 v.toNat).length k 8 = true := by simp [meets, length_toBytes]
    have h0 : decide (v.toNat ≠ 0) = (v != 0) := by
      rw [Bool.eq_iff_iff]
      simp [BitVec.toNat_eq]
    rw [hc, hk, Option.any_some, hm, hv, Bool.true_and, h0]

theorem execLaunchEnd_waits (h : s.host.fwNext ≠ none ∨ s.launchOut lid = true) : exec (.launchEnd lid) s = .next s := by
  have h' : (s.host.fwNext.isSome || s.launchOut lid) = true := by
    simpa [Option.isSome_iff_ne_none] using h
  show execLaunchEnd lid s = _
  unfold execLaunchEnd
  split
  · rfl
  · rw [if_pos h']

/-- A group that is not leaving has a wave that runs or has stopped with a fault. -/
theorem Group.not_leaving (g : Group) : (!g.leaving) = g.waves.any (fun w => w.alive || w.dead) := by
  simp [Group.leaving, List.any_eq_not_all_not]

theorem execLaunchEnd_first {f : PendingFault} (hf : firstFault (s.faults.filter (fun x => x.launch = lid)) = some f)
    (hn : s.host.fwNext = none) (ho : s.launchOut lid = false) :
    let t := (s.groups.filter (fun g => g.launch = some lid && g.waves.any (fun w => w.alive || w.dead))).foldl
      (fun (a : State) g => (a.finishUnits g.id).abortTask g.id) s
    let u := { t with faults := t.faults.filter (fun x => x.launch ≠ lid) }.updLaunch lid (fun y => { y with
      dropped := y.dropped + y.tasks.length
      tasks := []
      fault := some (f.code, f.pc) })
    let v := u.logEntry 0 f.code.toNat f.ctx f.facet 0xFF 0 f.pc.toNat (u.facet f.facet).ref.toNat
    v.launch? lid = some l →
      exec (.launchEnd lid) s = .next (if v.groups.any (fun g => g.launch = some lid) then v else v.finishLaunch l) := by
  intro t u v hv
  have ht : s.abortRunning lid = t := by simp only [State.abortRunning, Group.not_leaving]; rfl
  show execLaunchEnd lid s = _
  simp only [execLaunchEnd, hf, hn, ho, Option.isSome_none, Bool.or_self, Bool.false_eq_true, if_false, ht]
  split
  next h => cases h.symm.trans hv; rfl
  next h => cases h.symm.trans hv

/-! ### The first fault to arrive -/

theorem PendingFault.first_iff (a b : PendingFault) : a.first b = true ↔ a.edge < b.edge ∨ (a.edge = b.edge ∧ (a.facet < b.facet ∨
    (a.facet = b.facet ∧ (a.core < b.core ∨ (a.core = b.core ∧ a.slot < b.slot))))) := by
  simp [PendingFault.first]

theorem PendingFault.first_asymm {a b : PendingFault} (h : a.first b = true) : b.first a = false := by
  rw [← Bool.not_eq_true, first_iff]
  rw [first_iff] at h
  omega

/-- What is not before one that is not before a third is not before the third. -/
theorem PendingFault.not_first_trans {a b c : PendingFault} (hab : a.first b = false) (hbc : b.first c = false) : a.first c = false := by
  rw [← Bool.not_eq_true, first_iff] at *
  omega

theorem firstFault_least (fs : List PendingFault) (f : PendingFault) (h : firstFault fs = some f) :
    f ∈ fs ∧ ∀ x ∈ fs, x.first f = false := by
  induction fs generalizing f with
  | nil => cases h
  | cons y ys ih =>
    unfold firstFault at h
    have hrefl (a : PendingFault) : a.first a = false := by
      rw [← Bool.not_eq_true, PendingFault.first_iff]
      omega
    split at h
    next hn =>
      obtain rfl := Option.some.inj h
      have hys : ys = [] := by
        cases ys with
        | nil => rfl
        | cons z zs =>
          unfold firstFault at hn
          split at hn <;> cases hn
      subst hys
      exact ⟨List.mem_cons_self, fun x hx => by obtain rfl := List.mem_singleton.1 hx; exact hrefl x⟩
    next x hx =>
      obtain ⟨hm, hle⟩ := ih x hx
      obtain rfl := Option.some.inj h
      cases hxy : x.first y with
      | true =>
        refine ⟨by simpa using .inr hm, fun z hz => ?_⟩
        rcases List.mem_cons.1 hz with rfl | hz
        · simpa using PendingFault.first_asymm hxy
        · simpa using hle z hz
      | false =>
        refine ⟨by simp, fun z hz => ?_⟩
        rcases List.mem_cons.1 hz with rfl | hz
        · simpa using hrefl z
        · simpa using PendingFault.not_first_trans (hle z hz) hxy

end

/-- Settles O49: each event does what its lemma above says. -/
theorem launchEvents : Obligations.LaunchEvents := by
  unfold Obligations.LaunchEvents
  intro s
  refine ⟨fun lid l q t h hl hq hp hs hslot hst hpk => ⟨fun places hc => ?_, fun places v hc hb hall hv hk => ?_⟩,
    fun lid l x xs hl ht hs => ⟨fun facet cores h => execGroupPlace_dropped cores hl ht hs h,
      fun facet cores t hb hc hsaved hturn hp hk => ⟨execGroupPlace_placed hl ht hs hb hc hsaved hturn hp hk, ?_⟩⟩,
    fun gid g n m hg hs hf hk => execAcqGrant_fits hg hs hf hk,
    fun gid g hg hs hn => ⟨_, (State.group?_lower hg).imp fun _ h => ⟨execRelLower_lowers hs hn hg, h⟩⟩,
    fun gid g l lid w ws hg hgl hl hw hd hs h0 hr => execAllowExpiry_due hg hgl hl hw hd hs h0 hr,
    fun gid g lid w ws t left ok hg hgl hw hr h => execTaskRetire_retires hg hgl hw hr h,
    fun lid l p t hl hs ht hg hf hx => execLaunchComplete_done hl hs ht hg hf hx,
    fun lid l k v hl hk hq hp hb => execCancelWordWrite_stored hl hk hq hp hb,
    fun lid h => execLaunchEnd_waits (.inl h),
    fun lid h => execLaunchEnd_waits (.inr h),
    fun lid f l hf hn ho => execLaunchEnd_first hf hn ho,
    firstFault_least⟩
  · rw [← State.accepted_eq (State.launch?_id hl)]
    exact execLaunchAccept_atOnce hl hq hp hs hslot hst hpk hc
  · rw [← State.accepted_eq (State.launch?_id hl)] at hv
    exact execLaunchAccept_together hl hq hp hs hslot hst hpk hc hb hall hv hk
  · have h := State.placeTask_starts hp
    rwa [State.launch?_id hl] at h

end Sys2Proof.Machine
end

section
/-! PROOF. O54 (`Obligations.HostAndContextEvents`): the end of a context whose queue presents the launch of a task that runs. -/

namespace Sys2Proof.Machine

open Sys2Proof

/-- The queue of context 1 that presents launch 1. -/
def presentingQueue : Queue := ⟨3, 1, 0x8000, 0x8000, 0x9000, 4, 2, none, .presented 1, 0, [], none, none⟩

/-- Context 1 is live with one queue, one launch and one task of it that runs, and the queue still presents the launch, as no step leaves it:
a launch that is accepted has its packet consumed. -/
def presentedTask : State :=
  { State.reset with
    ctxs := [bootCtx]
    queues := [presentingQueue]
    launches := [bootLaunch 1]
    groups := [newGroup 2 1 0 (some 1) ⟨0, 0, 0, 1, 1, 1, 0, [0], none⟩ (64, 1, 1) [newWave 0 0 0 (BitVec.allOnes 64) 0 0 0]
      bootRec.pro bootRec.full bootRec.slots 4096 4095 false 0] }

/-- The contexts of the groups that an event leaves. -/
def groupCtxsAfter (i : Instr) (s : State) : List Nat :=
  match exec i s with
  | .next t => t.groups.map Group.ctx
  | _ => []

theorem mem_groupCtxsAfter {i : Instr} {s t : State} {n : Nat} (hi : exec i s = .next t) (hn : n ∈ groupCtxsAfter i s) :
    ∃ g ∈ t.groups, g.ctx = n := by
  unfold groupCtxsAfter at hn
  rw [hi] at hn
  exact List.mem_map.1 hn

/-- Unmapping the queue abandons the launch that it presents, so that nothing aborts the launch's task. -/
theorem groupCtxsAfter_presentedTask : groupCtxsAfter (.contextEnd 1) presentedTask = [1] := by decide +kernel

/-- The task of the launch runs, and no request of it is out. -/
theorem presentedTask_runs : (∀ l ∈ presentedTask.launches, l.id = 1 ∧ l.ctx = 1) ∧ presentedTask.launchOut 1 = false
    ∧ ∀ g ∈ presentedTask.groups, g.launch = some 1 ∧ g.leaving = false := by decide +kernel

/-- Refutes O54: the end of a context can leave a task of it. Where a queue of the context still presents the launch of a task that runs,
the queue is unmapped first, and the launch is abandoned with it before its tasks are aborted (`presentedTask`). -/
theorem not_hostAndContextEvents : ¬ Obligations.HostAndContextEvents := by
  unfold Obligations.HostAndContextEvents
  intro h
  obtain ⟨hlaunch, hout, hgroups⟩ := presentedTask_runs
  obtain ⟨-, -, -, -, -, -, -, -, -, -, -, -, -, -, -, -, -, -, -, hend, -⟩ := h presentedTask
  obtain ⟨-, hbegin, -⟩ := hend 1 bootCtx rfl (by decide) (by decide)
  obtain ⟨t, ht, -, -, hempty, -⟩ := hbegin rfl fun l hl _ => by rw [(hlaunch l hl).1]; exact hout
  obtain ⟨-, hnone, -⟩ := hempty
    (fun g hg _ _ => ⟨(hgroups g hg).2, bootLaunch 1, List.mem_singleton_self _, rfl, (hgroups g hg).1⟩)
    (fun g hg _ hfree => by rw [(hgroups g hg).1] at hfree; cases hfree)
  obtain ⟨g, hg, hctx⟩ := mem_groupCtxsAfter ht (n := 1) (by rw [groupCtxsAfter_presentedTask]; exact List.mem_singleton_self _)
  exact hnone g hg hctx

end Sys2Proof.Machine
end

section
/-! PROOF. O57: fields of a word and of words put together (R8, R13). -/

namespace Sys2Proof.Machine

theorem bits_self {n : Nat} (x : BitVec n) : bits x 0 n = x.toNat := Nat.mod_eq_of_lt x.isLt

theorem bits_lt {w : Nat} (x : BitVec w) (lo n : Nat) : bits x lo n < 2 ^ n := Nat.mod_lt _ (Nat.two_pow_pos n)

theorem bits_append_left {v w lo : Nat} (x : BitVec v) (y : BitVec w) (n : Nat) (h : w ≤ lo) :
    bits (x ++ y) lo n = bits x (lo - w) n := by
  rw [bits, ← BitVec.extractLsb'_toNat, BitVec.extractLsb'_append_eq_of_le h, BitVec.extractLsb'_toNat, bits]

theorem bits_append_right {v w lo n : Nat} (x : BitVec v) (y : BitVec w) (h : lo + n ≤ w) :
    bits (x ++ y) lo n = bits y lo n := by
  rw [bits, ← BitVec.extractLsb'_toNat, BitVec.extractLsb'_append_eq_of_add_le h, BitVec.extractLsb'_toNat, bits]

theorem bit_append_left {v w i : Nat} (x : BitVec v) (y : BitVec w) (h : w ≤ i) : bit (x ++ y) i = bit x (i - w) := by
  rw [bit, BitVec.getLsbD_append, if_neg (by omega), bit]

theorem bit_append_right {v w i : Nat} (x : BitVec v) (y : BitVec w) (h : i < w) : bit (x ++ y) i = bit y i := by
  rw [bit, BitVec.getLsbD_append, if_pos h, bit]

theorem bit_ofBool (b : Bool) : bit (BitVec.ofBool b) 0 = b := by
  cases b <;> rfl

theorem toNat_append_add {v w : Nat} (x : BitVec v) (y : BitVec w) : (x ++ y).toNat = x.toNat * 2 ^ w + y.toNat := by
  rw [BitVec.toNat_append, Nat.shiftLeft_eq, Nat.mul_comm, Nat.two_pow_add_eq_or_of_lt y.isLt]

theorem toNat_ofNat_bits {w : Nat} (x : BitVec w) (lo n : Nat) : (BitVec.ofNat n (bits x lo n)).toNat = bits x lo n := by
  rw [BitVec.toNat_ofNat, Nat.mod_eq_of_lt (bits_lt x lo n)]

theorem toNat_ofBool_bit {w : Nat} (x : BitVec w) (i : Nat) : (BitVec.ofBool (bit x i)).toNat = bits x i 1 := by
  rw [bit, bits, BitVec.toNat_ofBool, BitVec.getLsbD, Nat.toNat_testBit, Nat.shiftRight_eq_div_pow, Nat.pow_one]

/-- Two fields side by side are one field. -/
theorem bits_join {w hi lo m n : Nat} (x : BitVec w) (h : hi = lo + m) :
    bits x hi n * 2 ^ m + bits x lo m = bits x lo (n + m) := by
  rw [bits, bits, bits, h, Nat.shiftRight_add, Nat.shiftRight_eq_div_pow _ m, Nat.add_comm n m, Nat.pow_add, Nat.mod_mul,
    Nat.mul_comm, Nat.add_comm]

end Sys2Proof.Machine
end

section
/-! PROOF. O57: the operand fields (R49), the types (R58) and the form of a word (R46): reading them and writing them are inverse. -/

namespace Sys2Proof

open Sys2Proof.Machine

/-! ### Operands -/

theorem operandField_toNat (x : BitVec 12) : operandField (x.toNat / 512) (x.toNat % 512) = x := by
  apply BitVec.eq_of_toNat_eq
  rw [operandField, BitVec.toNat_ofNat]
  omega

theorem operandField_sel {sel idx : Nat} (hs : sel < 8) (hi : idx < 512) : (operandField sel idx).toNat / 512 = sel := by
  rw [operandField, BitVec.toNat_ofNat]
  omega

theorem operandField_idx (sel : Nat) {idx : Nat} (hi : idx < 512) : (operandField sel idx).toNat % 512 = idx := by
  rw [operandField, BitVec.toNat_ofNat]
  omega

/-- A field names no operand, or one in range whose field it is. -/
theorem Operand.decode_cases (x : BitVec 12) :
    Operand.decode x = .bad x ∨ (Operand.decode x).wf = true ∧ (Operand.decode x).encode = x := by
  have hx := operandField_toNat x
  have hi : x.toNat % 512 < 512 := Nat.mod_lt _ (by decide)
  have shifted : ∀ k, k ≤ x.toNat % 512 → operandField 2 (x.toNat % 512) = x → operandField 2 (k + (x.toNat % 512 - k)) = x :=
    fun k hk h => by rw [Nat.add_sub_cancel' hk, h]
  unfold Operand.decode
  dsimp only
  split
  next hsel =>
    rw [hsel] at hx
    split
    next hv => exact .inr ⟨decide_eq_true hv, hx⟩
    next => exact .inl rfl
  next hsel =>
    rw [hsel] at hx
    split
    next hs => exact .inr ⟨decide_eq_true hs, hx⟩
    next => exact .inl rfl
  next hsel =>
    rw [hsel] at hx
    split
    next hp => exact .inr ⟨decide_eq_true hp, hx⟩
    split
    next => exact .inl rfl
    split
    next => exact .inr ⟨decide_eq_true (by omega), shifted 16 (by omega) hx⟩
    split
    next => exact .inr ⟨decide_eq_true (by omega), shifted 32 (by omega) hx⟩
    split
    next => exact .inr ⟨decide_eq_true (by omega), shifted 48 (by omega) hx⟩
    next => exact .inl rfl
  next hsel =>
    rw [hsel] at hx
    split
    next ha => exact .inr ⟨decide_eq_true ha, hx⟩
    next => exact .inl rfl
  next hsel => exact .inr ⟨rfl, by rw [hsel] at hx; rwa [Operand.encode, BitVec.toNat_ofNat, Nat.mod_eq_of_lt hi]⟩
  next hsel => exact .inr ⟨rfl, by rw [hsel] at hx; rwa [Operand.encode, BitVec.toNat_ofNat, Nat.mod_eq_of_lt hi]⟩
  next hsel =>
    rw [hsel] at hx
    split
    next hn => exact .inr ⟨rfl, by rwa [hn] at hx⟩
    split
    next hl => exact .inr ⟨rfl, by rwa [hl] at hx⟩
    next => exact .inl rfl
  next => exact .inl rfl

theorem Operand.encode_decode (x : BitVec 12) : (Operand.decode x).encode = x := by
  rcases Operand.decode_cases x with h | ⟨-, h⟩
  · rw [h, Operand.encode]
  · exact h

theorem Operand.wf_decode (x : BitVec 12) : (Operand.decode x).wf = true := by
  rcases Operand.decode_cases x with h | ⟨h, -⟩
  · rw [h, Operand.wf, h, beq_self_eq_true]
  · exact h

theorem Operand.decode_encode {o : Operand} (h : o.wf = true) : Operand.decode o.encode = o := by
  cases o with
  | bad raw => exact eq_of_beq h
  | none | long => rfl
  | imm k | sys k => simp (disch := omega) [Operand.encode, Operand.decode, operandField_sel, operandField_idx]
  | _ n =>
    simp only [Operand.wf, decide_eq_true_eq] at h
    simp (disch := omega) [Operand.encode, Operand.decode, operandField_sel, operandField_idx, if_pos, if_neg]

/-! ### Types -/

theorem Ty.ofCode_code (t : Ty) : Ty.ofCode t.code = t := by
  cases t <;> rfl

theorem Ty.code_ofCode : ∀ c : BitVec 4, (Ty.ofCode c).code = c := by decide

/-! ### The form of a word -/

theorem Form.wf_iff {f : Form} : f.wf = true ↔ f.d.wf = true ∧ f.a.wf = true ∧ f.b.wf = true := by
  simp [Form.wf, and_assoc]

theorem formOf_wf (x : BitVec 96) : (formOf x).wf = true :=
  Form.wf_iff.2 ⟨Operand.wf_decode _, Operand.wf_decode _, Operand.wf_decode _⟩

theorem bits_packWord_op {op : Nat} (h : op < 256) (f : Form) : bits (packWord op f) 88 8 = op := by
  simp (disch := decide) only [packWord, bits_append_left, Nat.reduceSub, bits_self, BitVec.toNat_ofNat, Nat.reducePow,
    Nat.mod_eq_of_lt h]

theorem bits_packWord_reserved (op : Nat) (f : Form) : bits (packWord op f) 32 3 = 0 := by
  simp (disch := decide) only [packWord, bits_append_left, bits_append_right, Nat.sub_self]
  rfl

theorem formOf_packWord (op : Nat) {f : Form} (h : f.wf = true) : formOf (packWord op f) = f := by
  obtain ⟨hd, ha, hb⟩ := Form.wf_iff.1 h
  simp (disch := decide) only [formOf, packWord, bits_append_left, bits_append_right, bit_append_left, bit_append_right,
    Nat.reduceSub, bits_self, bit_ofBool, BitVec.ofNat_toNat, BitVec.setWidth_eq, Ty.ofCode_code, Operand.decode_encode hd,
    Operand.decode_encode ha, Operand.decode_encode hb]

/-- A word is its fields put together, where the reserved hint bits are zero. -/
theorem packWord_formOf {x : BitVec 96} (h : bits x 32 3 = 0) : packWord (bits x 88 8) (formOf x) = x := by
  have hres : (0#3).toNat = bits x 32 3 := h.symm
  apply BitVec.eq_of_toNat_eq
  simp only [packWord, formOf, Ty.code_ofCode, Operand.encode_decode, toNat_append_add, toNat_ofNat_bits, toNat_ofBool_bit, hres]
  simp only [bits_join, Nat.reduceAdd, bits_self]

end Sys2Proof
end

section
/-! PROOF. O57 (`Obligations.DecodeEncodeRoundTrip`) and O58 (`Obligations.DecodedWords`): words and instructions. -/

namespace Sys2Proof

open Sys2Proof.Machine

/-! ### OP and constructor -/

/-- Each arm of `assemble` builds a constructor that `wordOf` gives the OP of the arm. -/
theorem wordOf_of_assemble {op : Nat} {f : Form} {i : Instr} : assemble op f = some i → wordOf i = some (op, f) := by
  fun_cases assemble op f
  all_goals
    intro h
    cases h
  all_goals rfl

theorem lt_of_wordOf {op : Nat} {f : Form} {i : Instr} (h : wordOf i = some (op, f)) : op < 256 := by
  cases i <;> cases h <;> decide

/-! ### What decodes and what encodes -/

theorem checkForm_of_not_assigned {op : Nat} (h : (encRow op).isNone = true) (f : Form) : checkForm op f = some .unassignedOp := by
  rw [checkForm, Option.isNone_iff_eq_none.1 h]

theorem decodeWord_eq_ok {x : BitVec 96} {i : Instr} : decodeWord x = .ok i ↔
    bits x 32 3 = 0 ∧ checkForm (bits x 88 8) (formOf x) = none ∧ assemble (bits x 88 8) (formOf x) = some i := by
  unfold decodeWord
  dsimp only
  split
  next hop => simp [checkForm_of_not_assigned hop]
  split
  next hres => simp [bne_iff_ne.1 hres]
  next hres =>
    have hzero : bits x 32 3 = 0 := by simpa using hres
    split
    next e he => simp [he]
    next hc =>
      split
      next j hj => simp [hzero, hc, hj]
      next hj => simp [hzero, hc, hj]

theorem encodeWord_eq_some {i : Instr} {x : BitVec 96} :
    encodeWord i = some x ↔ ∃ op f, wordOf i = some (op, f) ∧ packWord op f = x := by
  simp [encodeWord]

theorem wellFormed_iff {i : Instr} {op : Nat} {f : Form} (h : wordOf i = some (op, f)) :
    wellFormed i = true ↔ f.wf = true ∧ checkForm op f = none ∧ assemble op f = some i := by
  simp [wellFormed, h, and_assoc]

/-! ### There and back -/

theorem decodeWord_packWord {i : Instr} {op : Nat} {f : Form} (hi : wordOf i = some (op, f)) (hw : wellFormed i = true) :
    decodeWord (packWord op f) = .ok i := by
  obtain ⟨hf, hc, ha⟩ := (wellFormed_iff hi).1 hw
  rw [decodeWord_eq_ok, bits_packWord_op (lt_of_wordOf hi), formOf_packWord op hf]
  exact ⟨bits_packWord_reserved op f, hc, ha⟩

theorem wellFormed_of_decodeWord {x : BitVec 96} {i : Instr} (h : decodeWord x = .ok i) : wellFormed i = true := by
  obtain ⟨-, hc, ha⟩ := decodeWord_eq_ok.1 h
  exact (wellFormed_iff (wordOf_of_assemble ha)).2 ⟨formOf_wf x, hc, ha⟩

theorem encodeWord_of_decodeWord {x : BitVec 96} {i : Instr} (h : decodeWord x = .ok i) : encodeWord i = some x := by
  obtain ⟨hres, -, ha⟩ := decodeWord_eq_ok.1 h
  exact encodeWord_eq_some.2 ⟨_, _, wordOf_of_assemble ha, packWord_formOf hres⟩

theorem decode_toBytes_append {x : BitVec 96} {i : Instr} (h : decodeWord x = .ok i) (bs : List Byte) :
    decode (toBytes 12 x.toNat ++ bs) = .ok (i, bs) := by
  have hlen := length_toBytes 12 x.toNat
  have hx : BitVec.ofNat 96 (ofBytes (toBytes 12 x.toNat)) = x := by
    rw [ofBytes_toBytes, Nat.mod_eq_of_lt (show x.toNat < 256 ^ 12 from x.isLt), BitVec.ofNat_toNat, BitVec.setWidth_eq]
  rw [decode, if_neg (by simp [hlen]), List.take_left' hlen, List.drop_left' hlen, hx, h]

/-- Settles O57: the fields of a packed word are those of its form (`formOf_packWord`), a word is its fields packed (`packWord_formOf`),
and the OP and VAR of a form stand for the one instruction whose OP and form they are (`wordOf_of_assemble`). -/
theorem decodeEncodeRoundTrip : Obligations.DecodeEncodeRoundTrip := by
  unfold Obligations.DecodeEncodeRoundTrip
  refine ⟨fun i x bs hw hx => ?_, fun x i h => ⟨wellFormed_of_decodeWord h, encodeWord_of_decodeWord h⟩, fun i => ?_⟩
  · obtain ⟨op, f, hi, rfl⟩ := encodeWord_eq_some.1 hx
    have h := decodeWord_packWord hi hw
    exact ⟨h, decode_toBytes_append h bs⟩
  · rw [isEvent, encodeWord, Option.map_eq_none_iff, Option.isNone_iff_eq_none]

/-- Settles O58: the decoder is run on each of the fixed words. -/
theorem decodedWords : Obligations.DecodedWords := by
  unfold Obligations.DecodedWords
  decide

end Sys2Proof
end

section
/-! PROOF. O56 (`Obligations.StepRunsDecoded`): the fetch of a word that lies in one page, and the turn that a step takes. -/

namespace Sys2Proof.Machine

open Sys2Proof

variable {s t u : State} {facet core ctx pc gid wid : Nat} {pins : List Pin}

/-! ### Translation changes the TLBs only (R198) -/

/-- The second state is the first one with other TLBs. -/
def State.TlbOnly (s t : State) : Prop := ∃ x, t = { s with tlb := x }

theorem State.TlbOnly.refl (s : State) : s.TlbOnly s := ⟨s.tlb, rfl⟩

theorem State.TlbOnly.trans (h : s.TlbOnly t) (h' : t.TlbOnly u) : s.TlbOnly u := by
  obtain ⟨x, rfl⟩ := h
  obtain ⟨y, rfl⟩ := h'
  exact ⟨y, rfl⟩

theorem State.TlbOnly.ite {p : Prop} [Decidable p] (ht : s.TlbOnly t) (hu : s.TlbOnly u) : s.TlbOnly (if p then t else u) := by
  split
  · exact ht
  · exact hu

theorem State.TlbOnly.cacheLeaf {page : Nat} {x : Nat × Nat × Nat} (h : s.TlbOnly t) :
    s.TlbOnly (t.cacheLeaf facet core ctx page x) := by
  refine h.trans ?_
  unfold State.cacheLeaf
  dsimp only
  split
  · exact .ite (.refl t) ⟨_, rfl⟩
  · exact ⟨_, rfl⟩

theorem State.TlbOnly.translate (s : State) (facet core ctx : Nat) (acc : Access) (va : Nat) :
    s.TlbOnly (s.translate facet core ctx acc va).2 := by
  unfold State.translate
  split
  · exact .refl s
  split
  · exact .refl s
  split
  · exact .refl s
  dsimp only
  split
  · exact .refl s
  · have second {p : Prop} [Decidable p] {page : Nat} {x : Nat × Nat × Nat} :
        s.TlbOnly (if p then s else s.cacheLeaf facet 9 ctx page x) := .ite (.refl s) (.cacheLeaf (.refl s))
    exact .ite second second.cacheLeaf

theorem State.TlbOnly.translateAll (s : State) (facet core ctx : Nat) (acc : Access) (vas : List Nat) (pins : List Pin) :
    s.TlbOnly (s.translateAll facet core ctx acc vas pins).2 := by
  induction vas generalizing s pins with
  | nil => exact .refl s
  | cons va vas ih =>
    have h := State.TlbOnly.translate s facet core ctx acc va
    unfold State.translateAll
    split
    · exact ih s pins
    · split
      next e => rwa [e] at h
      next e =>
        rw [e] at h
        exact h.trans (ih _ _)

/-! ### The word at a PC (R46 to R48) -/

theorem State.badPinned_eq_none (hbad : s.bad = []) (hl2 : ∀ l ∈ s.l2, l.bad = []) (va n : Nat) :
    s.badPinned facet pins va n = none := by
  rw [State.badPinned, if_pos]
  simpa [hbad] using hl2

/-- A word of which no instruction cache holds older bytes for the context is fetched as it stands. -/
theorem State.wordOf_eq_now (h : ∀ r ∈ s.icache, ctx ∉ r.ctxs) (now : List (Nat × Byte)) : s.wordOf ctx now = now := by
  have hmine : s.icache.filter (fun r => r.ctxs.contains ctx && now.any (fun x => r.covers x.1)) = [] := by
    rw [List.filter_eq_nil_iff]
    intro r hr
    simp [h r hr]
  simp only [State.wordOf, hmine, State.oldByte, Prod.mk.eta, List.map_id']

theorem State.foldl_fetchSector_cur_mem (va : Nat → Nat) (asked : Nat → Bool) (secs : List Nat) (s : State) :
    (secs.foldl (fun (t : State) sec => t.fetchSector facet ctx pins (va sec) (asked sec)) s).cur = s.cur
      ∧ (secs.foldl (fun (t : State) sec => t.fetchSector facet ctx pins (va sec) (asked sec)) s).mem = s.mem := by
  induction secs generalizing s with
  | nil => exact ⟨rfl, rfl⟩
  | cons sec secs ih => exact ih (s.fetchSector facet ctx pins (va sec) (asked sec))

theorem State.fetch_of_one_page (hpage : (pc + 11) / 4096 = pc / 4096)
    (ht : s.translateAll facet core ctx .fetch [pc] [] = (.ok pins, u)) (hbad : s.bad = []) (hl2 : ∀ l ∈ s.l2, l.bad = [])
    (hcode : ∀ r ∈ s.icache, ctx ∉ r.ctxs) :
    ∃ v, s.fetch facet core ctx pc = (.ok (BitVec.ofNat 96 (ofBytes ((List.range 12).map (fun j => u.loadPinned pins (pc + j))))), v)
      ∧ v.cur = s.cur ∧ v.mem = s.mem := by
  have htlb := State.TlbOnly.translateAll s facet core ctx .fetch [pc] []
  rw [ht] at htlb
  obtain ⟨x, rfl⟩ := htlb
  have hone : (pc + 11) / 4096 * 4096 ≤ pc := hpage ▸ Nat.div_mul_le_self pc 4096
  have hnone := State.badPinned_eq_none (s := { s with tlb := x }) (facet := facet) (pins := pins) hbad hl2 pc 12
  have hnow := State.wordOf_eq_now (s := { s with tlb := x }) hcode
  refine ⟨_, ?_, State.foldl_fetchSector_cur_mem (facet := facet) (ctx := ctx) (pins := pins) (fun sec => max pc (sec * 64))
    (Config.freeBit s.tick 6) (distinct [pc / 64, (pc + 11) / 64]) { s with tlb := x }⟩
  simp only [State.fetch, if_pos hone, ht, hnone, hnow, List.map_map, Function.comp_def]

/-! ### The turn of a wave -/

theorem Wave.startRun_core (w : Wave) : w.startRun.core = w.core := by
  unfold Wave.startRun
  split
  · rfl
  · dsimp only
    split <;> rfl

theorem State.startClock_frame (s : State) (g : Group) (w : Wave) : ∃ x, s.startClock g w = { s with groups := x } := by
  unfold State.startClock
  dsimp only
  split <;> exact ⟨_, rfl⟩

/-- A wave's turn with nothing in its way is the fetch of the word at the PC of the path that issues. -/
theorem State.fetchTurn_of_fetch {grp : Group} {wv : Wave} {p : Path} {x : BitVec 96} (hg : s.group? gid = some grp)
    (hw : grp.wave? wid = some wv) (hi : grp.issuable wv = true) (hstop : s.mustStop grp = false) (hdue : s.pastDeadline grp = false)
    (hp : wv.startRun.choose = some p)
    (hx : ({ (s.updWave gid wid (fun _ => wv.startRun)).startClock grp wv.startRun with cur := some (gid, wid) } : State).fetch
      grp.facet wv.core grp.ctx p.pc.toNat = (.ok x, u)) : s.fetchTurn gid wid = .ok (u, x) := by
  simp [State.fetchTurn, hg, hw, hi, hstop, hdue, hp, hx, Wave.startRun_core]

theorem State.pastDeadline_eq_false {g : Group}
    (h : ∀ x, g.preempt = some x → (s.facet g.facet).ref.toNat ≤ x.deadline.toNat) : s.pastDeadline g = false := by
  rw [State.pastDeadline, Option.any_eq_false]
  intro x hx
  simpa using h x hx

/-! ### A step -/

theorem step_of_agenda {x : Turn} {rest : List Turn} (h : s.agenda = x :: rest) :
    step s = takeTurn { s with tick := s.tick + 1, agenda := rest } x := by
  simp only [step, h]

theorem takeTurn_event {i : Instr} (h : isEvent i = true) :
    takeTurn s (.event i) = onNext (fun u => u.settleAll.servePorts) (exec i s) := if_pos h

theorem takeTurn_issue {x : BitVec 96} {i : Instr} (hf : s.fetchTurn gid wid = .ok (t, x)) (hd : decodeWord x = .ok i) :
    takeTurn s (.issue gid wid) = onNext (fun u => ((t.noteIssue gid wid u).settle gid).servePorts) (exec i t) := by
  simp only [takeTurn, hf, hd]

theorem takeTurn_issue_illegal {x : BitVec 96} {e : DecodeError} (hf : s.fetchTurn gid wid = .ok (t, x))
    (hd : decodeWord x = .error e) :
    takeTurn s (.issue gid wid) = .next ((t.noteIssue gid wid t.illegalWord).settle gid).servePorts := by
  simp only [takeTurn, hf, hd]

theorem takeTurn_issue_no_word (hf : s.fetchTurn gid wid = .error t) :
    takeTurn s (.issue gid wid) = .next (t.settle gid).servePorts := by
  simp only [takeTurn, hf]

/-- Settles O56: a step is the turn that the agenda names, and a wave's turn with nothing in its way is a fetch, which reads the twelve
bytes under the pinned translation of the page (`State.fetch_of_one_page`). -/
theorem stepRunsDecoded : Obligations.StepRunsDecoded := by
  unfold Obligations.StepRunsDecoded
  intro s rest s'
  refine ⟨fun g w ha => ⟨?_, ?_, ?_⟩, fun i ha hi => (step_of_agenda ha).trans (takeTurn_event hi), ?_⟩
  · exact fun t x i hf hd => (step_of_agenda ha).trans (takeTurn_issue hf hd)
  · exact fun t x e hf hd => (step_of_agenda ha).trans (takeTurn_issue_illegal hf hd)
  · exact fun t hf => (step_of_agenda ha).trans (takeTurn_issue_no_word hf)
  · intro g w grp wv p pins u k o m hg hw hi hstop hdue hp hpage t ht _ hbad hl2 hcode
    obtain ⟨x, hclock⟩ := State.startClock_frame (s'.updWave g w (fun _ => wv.startRun)) grp wv.startRun
    have heq : t = { s' with groups := x, cur := some (g, w) } := by
      simp only [t, hclock]
      rfl
    obtain ⟨v, hv, hcur, hmem⟩ := State.fetch_of_one_page hpage ht (heq ▸ hbad) (heq ▸ hl2) (heq ▸ hcode)
    refine ⟨v, State.fetchTurn_of_fetch (s := s') hg hw hi hstop (State.pastDeadline_eq_false hdue) hp hv, hcur, ?_⟩
    rw [hmem, heq]

end Sys2Proof.Machine
end

section
/-! PROOF. O11 (`Obligations.SumsHaveNoOrder`): exact sums do not depend on order. -/

namespace Sys2Proof.Machine

/-! ### Sums of terms (R94) -/

theorem minExp_perm {ts us : List FVal} (h : ts.Perm us) : minExp ts = minExp us := by
  refine h.foldl_eq' (fun x _ y _ z => ?_) 0
  rcases x with _ | _ | ⟨_, m, e⟩ <;> rcases y with _ | _ | ⟨_, m', e'⟩ <;> try rfl
  by_cases hm : m = 0 <;> by_cases hm' : m' = 0 <;> simp [hm, hm', min_right_comm]

theorem sumAt_perm (lo : Int) {ts us : List FVal} (h : ts.Perm us) : sumAt lo ts = sumAt lo us := by
  refine h.foldl_eq' (fun x _ y _ z => ?_) 0
  rcases x with _ | _ | ⟨n, m, e⟩ <;> rcases y with _ | _ | ⟨n', m', e'⟩ <;> try rfl
  cases n <;> cases n' <;> simp <;> ring

theorem zeroSign_perm {ts us : List FVal} (h : ts.Perm us) (m : Rnd) : zeroSign ts m = zeroSign us m := by
  rw [zeroSign, zeroSign, h.all_eq]

theorem sumFin_perm {ts us : List FVal} (h : ts.Perm us) (m : Rnd) : sumFin ts m = sumFin us m := by
  simp only [sumFin, minExp_perm h, sumAt_perm _ (h.filter _), zeroSign_perm h]

/-- Infinite terms of one sign are one infinity, whichever comes first. -/
theorem infTerms_perm {t u : FVal} {ts us : List FVal} (h : (t :: ts).Perm (u :: us)) (hinf : ∀ x ∈ t :: ts, x.isInf = true)
    (hall : (t :: ts).all (fun x => x.sign == t.sign) = true) : u = t := by
  have hu : u ∈ t :: ts := h.mem_iff.2 List.mem_cons_self
  have hsign : u.sign = t.sign := by simpa using List.all_eq_true.1 hall u hu
  have ht := hinf t List.mem_cons_self
  have hui := hinf u hu
  cases t <;> cases u <;> simp_all [FVal.isInf, FVal.sign]

/-- The infinite terms of a sum decide its result in whatever order they stand. -/
theorem infs_perm {t u : FVal} {ts us : List FVal} {α : Type} (g : FVal → α) (other : α) (h : (t :: ts).Perm (u :: us))
    (hinf : ∀ x ∈ t :: ts, x.isInf = true) :
    (if (t :: ts).all (fun x => x.sign == t.sign) then g t else other)
      = if (u :: us).all (fun x => x.sign == u.sign) then g u else other := by
  by_cases ht : (t :: ts).all (fun x => x.sign == t.sign) = true
  · obtain rfl := infTerms_perm h hinf ht
    rw [h.all_eq]
  · have hu : ¬ (u :: us).all (fun x => x.sign == u.sign) = true := fun hu => by
      obtain rfl := infTerms_perm h.symm (fun x hx => hinf x (h.mem_iff.2 hx)) hu
      exact ht (h.all_eq.trans hu)
    rw [if_neg ht, if_neg hu]

theorem dotRoundTo_perm (f : Fmt) {ps qs : List (FVal × FVal)} (h : ps.Perm qs) (z : FVal) (m : Rnd) :
    dotRoundTo f ps z m = dotRoundTo f qs z m := by
  have hts : (z :: ps.map (fun x => product x.1 x.2)).Perm (z :: qs.map (fun x => product x.1 x.2)) := (h.map _).cons z
  have hinfs := hts.filter FVal.isInf
  have hmem : ∀ x ∈ (z :: ps.map (fun x => product x.1 x.2)).filter FVal.isInf, x.isInf = true := fun x hx => (List.mem_filter.1 hx).2
  simp only [dotRoundTo, hts.any_eq, sumFin_perm hts]
  split
  · rfl
  · generalize (z :: ps.map (fun x => product x.1 x.2)).filter FVal.isInf = xs at hinfs hmem
    generalize (z :: qs.map (fun x => product x.1 x.2)).filter FVal.isInf = ys at hinfs
    cases xs with
    | nil => rw [hinfs.nil_eq]
    | cons t ts =>
      cases ys with
      | nil => exact absurd hinfs.eq_nil (by simp)
      | cons u us => exact infs_perm (fun x => roundF x f m false) f.nan hinfs hmem

/-! ### Exact-sum cells (R96) -/

/-- What a value adds to the accumulator of a cell. -/
def cellSum : FVal → Int
  | .fin neg m e => if neg then -((m <<< (e + 149).toNat : Nat) : Int) else (m <<< (e + 149).toNat : Nat)
  | _ => 0

/-- The flags that a value sets, in units of bit 480. -/
def cellFlags : FVal → Nat
  | .nan => 2 ^ 2
  | .inf neg => if neg then 2 else 1
  | .fin .. => 0

theorem natCast_wrapInt (x : Int) (w : Nat) : (wrapInt x w : Int) = x % 2 ^ w :=
  Int.toNat_of_nonneg (Int.emod_nonneg _ (by positivity))

theorem wrapInt_lt (x : Int) (w : Nat) : wrapInt x w < 2 ^ w := by
  have h : (wrapInt x w : Int) < 2 ^ w := natCast_wrapInt x w ▸ Int.emod_lt_of_pos x (by positivity)
  exact_mod_cast h

/-- A number wrapped before an addition or after it. -/
theorem wrapInt_wrapInt_add (x y : Int) (w : Nat) : wrapInt (wrapInt x w + y) w = wrapInt (x + y) w := by
  rw [wrapInt, natCast_wrapInt, Int.emod_add_emod, ← wrapInt]

theorem wrapInt_natCast {x w : Nat} (h : x < 2 ^ w) : wrapInt x w = x := by
  rw [wrapInt, ← Nat.cast_ofNat, ← Nat.cast_pow, ← Int.natCast_emod, Int.toNat_natCast, Nat.mod_eq_of_lt h]

/-- A flag leaves the accumulator and stands above it. -/
theorem or_flag (cell k w : Nat) :
    (cell ||| k * 2 ^ w) % 2 ^ w = cell % 2 ^ w ∧ (cell ||| k * 2 ^ w) / 2 ^ w = cell / 2 ^ w ||| k := by
  rw [Nat.or_mod_two_pow, Nat.mul_mod_left, Nat.or_zero, Nat.or_div_two_pow, Nat.mul_div_cancel _ (Nat.two_pow_pos w)]
  exact ⟨rfl, rfl⟩

theorem cellAdd_nan (cell : Nat) : cellAdd cell .nan = cell ||| 2 ^ 2 * 2 ^ 480 := by
  rw [cellAdd, ← pow_add]

theorem cellAdd_inf (cell : Nat) (neg : Bool) : cellAdd cell (.inf neg) = cell ||| (if neg then 2 else 1) * 2 ^ 480 := by
  cases neg
  · rw [cellAdd, if_neg Bool.false_ne_true, if_neg Bool.false_ne_true, one_mul]
  · rw [cellAdd, if_pos rfl, if_pos rfl, ← pow_succ']

theorem cellAdd_acc (cell : Nat) (x : FVal) :
    cellAdd cell x % 2 ^ 480 = wrapInt (((cell % 2 ^ 480 : Nat) : Int) + cellSum x) 480 := by
  have hacc : cell % 2 ^ 480 = wrapInt (((cell % 2 ^ 480 : Nat) : Int) + 0) 480 := by
    rw [Int.add_zero, wrapInt_natCast (Nat.mod_lt _ (pow_pos two_pos _))]
  rcases x with _ | neg | ⟨neg, m, e⟩
  · rw [cellAdd_nan, (or_flag ..).1]
    exact hacc
  · rw [cellAdd_inf, (or_flag ..).1]
    exact hacc
  · rw [cellAdd, Nat.add_mul_mod_self_right, Nat.mod_eq_of_lt (wrapInt_lt _ _), cellSum]

theorem cellAdd_flags (cell : Nat) (x : FVal) : cellAdd cell x / 2 ^ 480 = cell / 2 ^ 480 ||| cellFlags x := by
  rcases x with _ | neg | ⟨neg, m, e⟩
  · rw [cellAdd_nan, (or_flag ..).2, cellFlags]
  · rw [cellAdd_inf, (or_flag ..).2, cellFlags]
  · rw [cellAdd, Nat.add_mul_div_right _ _ (pow_pos two_pos _), Nat.div_eq_of_lt (wrapInt_lt _ _), Nat.zero_add, cellFlags, Nat.or_zero]

theorem cellAdd_comm (cell : Nat) (x y : FVal) : cellAdd (cellAdd cell x) y = cellAdd (cellAdd cell y) x := by
  have hacc : cellAdd (cellAdd cell x) y % 2 ^ 480 = cellAdd (cellAdd cell y) x % 2 ^ 480 := by
    simp only [cellAdd_acc, wrapInt_wrapInt_add, Int.add_right_comm _ (cellSum x)]
  have hflags : cellAdd (cellAdd cell x) y / 2 ^ 480 = cellAdd (cellAdd cell y) x / 2 ^ 480 := by
    simp only [cellAdd_flags, Nat.lor_assoc, Nat.lor_comm (cellFlags x)]
  rw [← Nat.div_add_mod (cellAdd (cellAdd cell x) y) (2 ^ 480), hacc, hflags, Nat.div_add_mod]

/-- Settles O11: a sum, and each thing its result turns on, is the same for a permuted list (`dotRoundTo_perm`); a cell is an accumulator
modulo 2^480 below flags that only ever rise (`cellAdd_acc`, `cellAdd_flags`). -/
theorem sumsHaveNoOrder : Obligations.SumsHaveNoOrder := by
  unfold Obligations.SumsHaveNoOrder
  exact ⟨fun _ _ z m h => dotRoundTo_perm .f32 h z m, cellAdd_comm⟩

end Sys2Proof.Machine
end

section
/-! PROOF. O14 (`Obligations.BlockConversions`): blocks of v registers, and the bytes of an F4X block in them (R86, R138). -/

namespace Sys2Proof.Machine

open Sys2Proof

/-! ### A block of v registers as results -/

/-- The results that write a block of v registers. -/
def blockWrites (base n : Nat) (val : Nat → Nat → Nat) : List Write :=
  (List.range n).map (fun i => ⟨.v (base + i), false, val i⟩)

theorem writeBlock_eq_writes (c : Ctx) (s : State) (base n : Nat) (val : Nat → Nat → Nat) :
    c.writeBlock s base n val = c.writes (blockWrites base n val) s :=
  (List.foldl_map (f := fun i => (⟨.v (base + i), false, val i⟩ : Write)) (g := fun t x => c.write t x.dest x.wide x.val)).symm

theorem Write.apart_v {i j : Nat} (h : i ≠ j) (x y : Nat → Nat) : Write.Apart ⟨.v i, false, x⟩ ⟨.v j, false, y⟩ where
  v := fun r l hr => by
    have hri : r = i := by
      by_contra hri
      simp [Write.atV, hri] at hr
    simp [Write.atV, hri, h]
  s := fun _ _ hr => absurd rfl hr
  p := fun _ _ hr => absurd rfl hr
  g := fun _ _ hr => absurd rfl hr

theorem blockWrites_apart (base n : Nat) (val : Nat → Nat → Nat) :
    (blockWrites base n val).Pairwise (fun x y => y.Apart x) :=
  List.pairwise_map.2 (List.nodup_range.imp fun h => Write.apart_v (by omega) _ _)

/-- An instruction that writes a block of v registers. -/
theorem effects_block {i : Instr} {op : Nat} {f : Form} {d a b : Allow} {ok : Ctx → Prop} {extra : Ctx → Bool} {base n : Nat}
    {val : Ctx → Nat → Nat → Nat}
    (hi : ∀ s, exec i s = issueInstr op f s d a b none extra (fun c => .done (c.writeBlock c.st base n (val c))))
    (he : ∀ c, c.form = f → ok c → extra c = true) :
    Effects i op f d a b none ok (Computes fun c => blockWrites base n (val c)) :=
  effects_writes (fun s _ _ _ => hi s) he (fun c _ _ => congrArg Res.done (writeBlock_eq_writes c c.st base n (val c)))
    (fun c _ _ => blockWrites_apart base n (val c))

theorem Ctx.slotOk_same {c : Ctx} {e : Nat} (h : slotElem c.slot = e) : c.slotOk e e = true := by
  simp [Ctx.slotOk, h]

/-! ### The bytes of an F4X block (R86) -/

theorem qblk_length (xs : List FVal) (ext : Bool) : (qblk xs ext).length = 18 := by
  unfold qblk
  split
  · rfl
  · dsimp only
    split
    · rfl
    · rw [List.length_append, List.length_map, List.length_range]; rfl

theorem sum_four_bytes (b : Nat → Nat) :
    ((List.range 4).map (fun i => b i * 2 ^ (8 * i))).sum = b 0 + b 1 * 2 ^ 8 + b 2 * 2 ^ 16 + b 3 * 2 ^ 24 := by
  simp [List.sum_range_succ]

/-- A register of a block is four of its bytes, the first the lowest; no bytes follow the extra one. -/
theorem blockReg_eq_sum {blk : List Nat} (h : blk.length = 18) {j : Nat} (hj : j < 5) :
    blockReg blk j = ((List.range 4).map (fun i => blk.getD (4 * j + i) 0 * 2 ^ (8 * i))).sum := by
  rw [sum_four_bytes, blockReg]
  split
  · subst j
    have h18 : blk.getD 18 0 = 0 := List.getD_eq_default _ _ (by omega)
    have h19 : blk.getD 19 0 = 0 := List.getD_eq_default _ _ (by omega)
    simp only [Nat.reduceMul, Nat.reduceAdd, h18, h19, Nat.zero_mul, Nat.add_zero, Nat.reducePow]
  · rfl

theorem blockBytes_eq_map (reg : Nat → Nat) :
    blockBytes reg = (List.range 18).map (fun j => reg (j / 4) / 2 ^ (8 * (j % 4)) % 256) := by
  rw [show (18 : Nat) = 16 + 2 from rfl, List.range_add, List.map_append]
  simp [blockBytes, List.range_succ]

/-- Settles O14: both instructions write a block of v registers (`effects_block`), whose bytes are those of the block (`blockReg_eq_sum`,
`blockBytes_eq_map`). -/
theorem blockConversions : Obligations.BlockConversions := by
  unfold Obligations.BlockConversions
  intro f _ a d ok block byte
  constructor
  · have h := effects_block (i := .qblk f) (ok := ok) (fun _ => rfl) (fun c _ hok => Ctx.slotOk_same hok)
    refine (congrArg (fun ws => Effects (.qblk f) 0x64 f _ _ _ none ok (Computes ws)) (funext fun c => ?_)).mp h
    refine List.map_congr_left fun j hj => congrArg _ (funext fun l => ?_)
    exact blockReg_eq_sum (qblk_length _ _) (List.mem_range.1 hj)
  · have h := effects_block (i := .dqblk f) (ok := ok) (fun _ => rfl) (fun c _ hok => Ctx.slotOk_same hok)
    refine (congrArg (fun ws => Effects (.dqblk f) 0x65 f _ _ _ none ok (Computes ws)) (funext fun c => ?_)).mp h
    refine List.map_congr_left fun i _ => congrArg _ (funext fun l => ?_)
    exact congrArg (fun blk => roundF (f4xDecode blk i (slotExtra c.slot)) .f32 .rn false) (blockBytes_eq_map _)

end Sys2Proof.Machine
end

section
/-! SUPPORT. The patterns of a number format: the sign, the significand and the exponent of a finite pattern, and the pattern that its
value rounds to (R79, R80, R82). -/

namespace Sys2Proof.Machine

/-- What the formats of R79 have in common: where the largest finite pattern stands, and the NaN of a format without infinities. -/
structure Fmt.Regular (f : Fmt) : Prop where
  fbits_pos : 0 < f.fbits
  max_inf : f.inf = true → f.max + 1 = (2 ^ f.ebits - 1) * 2 ^ f.fbits
  max_noInf : f.inf = false → f.max + (if f.nan = 0 then 1 else 2) = 2 ^ f.ebits * 2 ^ f.fbits
  nan_noInf : f.inf = false → f.nan ≠ 0 → f.nan = f.max + 1

theorem Fmt.regular_of_mem {f : Fmt} (h : f ∈ [Fmt.f32, .f16, .bf16, .f8e5, .f8e4, .e2m1]) : f.Regular := by
  simp only [List.mem_cons, List.not_mem_nil, or_false] at h
  rcases h with rfl | rfl | rfl | rfl | rfl | rfl <;> constructor <;> decide

theorem Fmt.inf_of_mem {f : Fmt} (h : f ∈ [Fmt.f32, .f16, .bf16, .f8e5]) : f.Regular ∧ f.inf = true := by
  simp only [List.mem_cons, List.not_mem_nil, or_false] at h
  rcases h with rfl | rfl | rfl | rfl <;> exact ⟨Fmt.regular_of_mem (by decide), rfl⟩

variable {f : Fmt} {neg : Bool} {p : Nat}

theorem Fmt.Regular.max_lt (hf : f.Regular) : f.max < 2 ^ f.ebits * 2 ^ f.fbits := by
  cases h : f.inf with
  | true =>
    have hmax := hf.max_inf h
    have hle : (2 ^ f.ebits - 1) * 2 ^ f.fbits ≤ 2 ^ f.ebits * 2 ^ f.fbits := Nat.mul_le_mul_right _ (Nat.sub_le ..)
    omega
  | false =>
    have hmax := hf.max_noInf h
    split at hmax <;> omega

theorem Fmt.Regular.max_odd (hf : f.Regular) (h : f.inf = true) : (f.max + 1) % 2 = 0 := by
  rw [hf.max_inf h, Nat.mul_mod, Nat.two_pow_mod_two_eq_zero.2 hf.fbits_pos, Nat.mul_zero]

/-! ### Sign, exponent field and fraction -/

@[simp] theorem withSign_false (f : Fmt) (p : Nat) : withSign f false p = p := Nat.zero_add p

theorem exists_withSign {x : Nat} (h : x < 2 ^ f.width) : ∃ neg p, p < 2 ^ f.ebits * 2 ^ f.fbits ∧ x = withSign f neg p := by
  have hw : 2 ^ f.width = 2 * 2 ^ (f.ebits + f.fbits) := by rw [Fmt.width, Nat.add_assoc, Nat.add_comm, Nat.pow_succ']
  rw [← Nat.pow_add]
  by_cases hx : x < 2 ^ (f.ebits + f.fbits)
  · exact ⟨false, x, hx, (Nat.zero_add x).symm⟩
  · refine ⟨true, x - 2 ^ (f.ebits + f.fbits), by omega, ?_⟩
    simp only [withSign, if_true]
    omega

/-- A pattern is a NaN, an infinity or a number according to its fields, whatever its sign. -/
theorem dec_withSign (hp : p < 2 ^ f.ebits * 2 ^ f.fbits) :
    dec f (withSign f neg p) =
      if f.inf && p / 2 ^ f.fbits = 2 ^ f.ebits - 1 then (if p % 2 ^ f.fbits = 0 then .inf neg else .nan)
      else if f.nan ≠ 0 && !f.inf && p = f.nan then .nan
      else if p / 2 ^ f.fbits = 0 then .fin neg (p % 2 ^ f.fbits) (f.emin - f.fbits)
      else .fin neg (2 ^ f.fbits + p % 2 ^ f.fbits) ((p / 2 ^ f.fbits : Nat) - f.bias - f.fbits) := by
  rw [← Nat.pow_add] at hp
  have hbit : (withSign f neg p).testBit (f.ebits + f.fbits) = neg := by
    cases neg
    · simpa [withSign] using Nat.testBit_lt_two_pow hp
    · simpa [withSign, Nat.testBit_two_pow_add_eq] using Nat.testBit_lt_two_pow hp
  have hlow : withSign f neg p % 2 ^ (f.ebits + f.fbits) = p := by
    cases neg <;> simp [withSign, Nat.mod_eq_of_lt hp]
  have hfrac : withSign f neg p % 2 ^ f.fbits = p % 2 ^ f.fbits := by
    rw [← hlow, Nat.mod_mod_of_dvd _ (Nat.pow_dvd_pow 2 (Nat.le_add_left ..)), hlow]
  have hexp : withSign f neg p / 2 ^ f.fbits % 2 ^ f.ebits = p / 2 ^ f.fbits := by
    rw [← Nat.mod_mul_right_div_self, ← Nat.pow_add, Nat.add_comm, hlow]
  simp only [dec, hbit, hlow, hfrac, hexp]

/-! ### Significand and exponent of a finite pattern -/

/-- The significand of a finite magnitude pattern, with its hidden bit. -/
def significand (f : Fmt) (p : Nat) : Nat := if p / 2 ^ f.fbits = 0 then p % 2 ^ f.fbits else 2 ^ f.fbits + p % 2 ^ f.fbits

/-- The binade of a magnitude pattern, counted from the one that the subnormals share. -/
def binade (f : Fmt) (p : Nat) : Nat := p / 2 ^ f.fbits - 1

theorem magnitude_eq_significand (f : Fmt) (p : Nat) : magnitude f p = significand f p * 2 ^ binade f p := by
  rw [magnitude, significand, binade]
  split
  · rename_i h; rw [h, Nat.pow_zero, Nat.mul_one]
  · rfl

/-- A pattern is its binade and its significand. -/
theorem binade_significand (f : Fmt) (p : Nat) : binade f p * 2 ^ f.fbits + significand f p = p := by
  have hp := Nat.div_add_mod' p (2 ^ f.fbits)
  rw [binade, significand]
  split
  · rename_i h; rw [h] at hp ⊢; omega
  · rename_i h
    obtain ⟨j, hj⟩ := Nat.exists_eq_succ_of_ne_zero h
    rw [hj, Nat.succ_mul] at hp
    rw [hj, Nat.succ_sub_one]
    omega

theorem significand_lt (f : Fmt) (p : Nat) : significand f p < 2 ^ (f.fbits + 1) := by
  have := Nat.mod_lt p (Nat.two_pow_pos f.fbits)
  rw [significand, Nat.pow_succ]
  split <;> omega

/-- Above the first binade the hidden bit stands. -/
theorem binade_eq_zero_or (f : Fmt) (p : Nat) : binade f p = 0 ∨ 2 ^ f.fbits ≤ significand f p := by
  rw [binade, significand]
  split
  · left; omega
  · right; omega

theorem significand_pos (h : 0 < p) : significand f p ≠ 0 := by
  intro h0
  have hp := binade_significand f p
  rcases binade_eq_zero_or f p with hb | hb
  · rw [hb, h0] at hp; omega
  · have := Nat.two_pow_pos f.fbits
    omega

theorem dec_of_le_max (hf : f.Regular) (hp : p ≤ f.max) :
    dec f (withSign f neg p) = .fin neg (significand f p) (f.emin - f.fbits + binade f p) := by
  rw [dec_withSign (hp.trans_lt hf.max_lt)]
  have h1 : ¬ (f.inf && p / 2 ^ f.fbits = 2 ^ f.ebits - 1) = true := by
    simp only [Bool.and_eq_true, decide_eq_true_eq, not_and]
    intro hi
    have := hf.max_inf hi
    have : p / 2 ^ f.fbits < 2 ^ f.ebits - 1 := (Nat.div_lt_iff_lt_mul (Nat.two_pow_pos _)).2 (by omega)
    omega
  have h2 : ¬ (f.nan ≠ 0 && !f.inf && p = f.nan) = true := by
    simp only [Bool.and_eq_true, decide_eq_true_eq, Bool.not_eq_true', not_and]
    intro hn h
    have := hf.nan_noInf hn.2 hn.1
    omega
  rw [if_neg h1, if_neg h2, significand, binade]
  split
  · rename_i h; rw [h]; simp
  · rw [Fmt.emin]
    generalize p / 2 ^ f.fbits = j at *
    congr 1
    omega

/-- A pattern above the largest finite one is no number. -/
theorem dec_of_max_lt (hf : f.Regular) (hp : p < 2 ^ f.ebits * 2 ^ f.fbits) (hmax : f.max < p) :
    dec f (withSign f neg p) = .nan ∨ dec f (withSign f neg p) = .inf neg ∧ f.inf = true ∧ p = f.max + 1 := by
  rw [dec_withSign hp]
  cases hi : f.inf with
  | true =>
    have hmax' := hf.max_inf hi
    have hfield : p / 2 ^ f.fbits = 2 ^ f.ebits - 1 := by
      have h1 : 2 ^ f.ebits - 1 ≤ p / 2 ^ f.fbits := (Nat.le_div_iff_mul_le (Nat.two_pow_pos _)).2 (by omega)
      have h2 : p / 2 ^ f.fbits < 2 ^ f.ebits := (Nat.div_lt_iff_lt_mul (Nat.two_pow_pos _)).2 hp
      omega
    by_cases h0 : p % 2 ^ f.fbits = 0
    · have := Nat.div_add_mod' p (2 ^ f.fbits)
      rw [hfield, h0] at this
      right
      simp [hfield, h0]
      omega
    · left; simp [hfield, h0]
  | false =>
    left
    have h1 := hf.max_noInf hi
    by_cases hn : f.nan = 0
    · rw [if_pos hn] at h1; omega
    · rw [if_neg hn] at h1
      have : p = f.nan := by rw [hf.nan_noInf hi hn]; omega
      simp [← this, this ▸ hn]

/-! ### A pattern rounded to its own format -/

/-- The exponent at which a value is rounded (R82). -/
def roundExp (f : Fmt) (m : Nat) (e : Int) : Int := max (Nat.log2 m + e) f.emin

/-- The rounded magnitude, in units of the spacing at that exponent (R82). -/
def roundMag (f : Fmt) (m : Nat) (e : Int) (mode : Rnd) (neg : Bool) : Nat :=
  let q := roundExp f m e - f.fbits
  if q ≤ e then m <<< (e - q).toNat else choose m (q - e).toNat mode neg

/-- The binade of the rounded value. -/
def roundBinade (f : Fmt) (m : Nat) (e : Int) : Nat := (roundExp f m e - f.emin).toNat

/-- The magnitude pattern that a value rounds to, where patterns have no end. -/
def roundPat (f : Fmt) (m : Nat) (e : Int) (mode : Rnd) (neg : Bool) : Nat :=
  roundBinade f m e * 2 ^ f.fbits + roundMag f m e mode neg

theorem roundExp_eq (f : Fmt) (m : Nat) (e : Int) : roundExp f m e = f.emin + roundBinade f m e := by
  rw [roundBinade, roundExp]
  omega

/-- Rounding is the pattern below, or an overflow where it lies above the largest finite one. -/
theorem roundF_fin (hf : f.Regular) {m : Nat} (hm : m ≠ 0) (e : Int) (mode : Rnd) :
    roundF (.fin neg m e) f mode false =
      if f.max < roundPat f m e mode neg then overflowPat f mode neg false else withSign f neg (roundPat f m e mode neg) := by
  have hpat : (roundExp f m e + f.bias).toNat * 2 ^ f.fbits + roundMag f m e mode neg - 2 ^ f.fbits = roundPat f m e mode neg := by
    have hb : (roundExp f m e + f.bias).toNat = roundBinade f m e + 1 := by
      rw [roundExp_eq, Fmt.emin]
      omega
    rw [hb, roundPat, Nat.succ_mul]
    omega
  have hdef : roundF (.fin neg m e) f mode false =
      if (Nat.log2 m : Int) + e > (2 ^ f.ebits : Int) - f.bias then overflowPat f mode neg false
      else if f.max < roundPat f m e mode neg then overflowPat f mode neg false
      else withSign f neg (roundPat f m e mode neg) := by
    rw [← hpat]
    exact if_neg hm
  rw [hdef]
  split
  · rename_i htop
    have hbin : 2 ^ f.ebits ≤ roundBinade f m e := by
      have : (2 ^ f.ebits : Int) = ((2 ^ f.ebits : Nat) : Int) := by norm_cast
      rw [roundBinade, roundExp, Fmt.emin]
      omega
    have hlt : f.max < roundPat f m e mode neg :=
      hf.max_lt.trans_le ((Nat.mul_le_mul_right _ hbin).trans (Nat.le_add_right ..))
    rw [if_pos hlt]
  · rfl

/-- A value that stands on the grid at its exponent is rounded to itself. -/
theorem roundMag_of_exact {m : Nat} {e : Int} (h : e = roundExp f m e - f.fbits) (mode : Rnd) : roundMag f m e mode neg = m := by
  simp only [roundMag]
  rw [if_pos h.ge, show (e - (roundExp f m e - f.fbits)).toNat = 0 by omega, Nat.shiftLeft_zero]

theorem roundExp_significand (hp : 0 < p) : roundExp f (significand f p) (f.emin - f.fbits + binade f p) = f.emin + binade f p := by
  have hlog : (significand f p).log2 < f.fbits + 1 := (Nat.log2_lt (significand_pos hp)).2 (significand_lt f p)
  rw [roundExp]
  rcases binade_eq_zero_or f p with hb | hb
  · rw [hb]; omega
  · have : f.fbits ≤ (significand f p).log2 := (Nat.le_log2 (significand_pos hp)).2 hb
    omega

theorem roundF_self (hf : f.Regular) (mode : Rnd) (hp : p ≤ f.max) :
    roundF (.fin neg (significand f p) (f.emin - f.fbits + binade f p)) f mode false = withSign f neg p := by
  rcases Nat.eq_zero_or_pos p with rfl | h0
  · simp [significand, roundF]
  · have hexp := roundExp_significand (f := f) h0
    have hpat : roundPat f (significand f p) (f.emin - f.fbits + binade f p) mode neg = p := by
      rw [roundPat, roundMag_of_exact (by omega), roundBinade, hexp, show (f.emin + binade f p - f.emin).toNat = binade f p by omega]
      exact binade_significand f p
    rw [roundF_fin hf (significand_pos h0), hpat, if_neg hp.not_gt]

/-- A pattern that is no NaN, decoded and rounded to its own format, is itself. -/
theorem roundF_dec (hf : f.Regular) (mode : Rnd) {x : Nat} (hx : x < 2 ^ f.width) (hn : dec f x ≠ .nan) :
    roundF (dec f x) f mode false = x := by
  obtain ⟨neg, p, hp, rfl⟩ := exists_withSign hx
  by_cases hmax : p ≤ f.max
  · rw [dec_of_le_max hf hmax, roundF_self hf mode hmax]
  · rcases dec_of_max_lt (neg := neg) hf hp (Nat.lt_of_not_le hmax) with h | ⟨h, hi, rfl⟩
    · exact absurd h hn
    · rw [h]
      simp [roundF, infPat, hi]

end Sys2Proof.Machine
end

section
/-! SUPPORT. Rounding of an exact value at the exponent of its leading bit: the integer that `choose` gives there, and the magnitudes of
neighbouring patterns (R82). The values are real numbers, as a square root is no dyadic one. -/

namespace Sys2Proof.Machine

/-! ### The three ways to round a magnitude -/

/-- Which of three demands a mode makes: to the nearest, away from zero, or toward zero (R82). -/
def byMode (mode : Rnd) (neg : Bool) (nearest away toward : Prop) : Prop :=
  if mode = .rn then nearest else if mode = (if neg then .rd else .ru) then away else toward

variable {mode : Rnd} {neg : Bool}

theorem byMode.imp_of_mode {n n' a a' t t' : Prop} (h : byMode mode neg n a t) (hn : mode = .rn → n → n')
    (ha : mode = (if neg then .rd else .ru) → a → a') (ht : ¬ (mode = .rn ∨ mode = if neg then .rd else .ru) → t → t') :
    byMode mode neg n' a' t' := by
  unfold byMode at *
  by_cases h1 : mode = .rn
  · rw [if_pos h1] at *
    exact hn h1 h
  · rw [if_neg h1] at *
    by_cases h2 : mode = if neg then .rd else .ru
    · rw [if_pos h2] at *
      exact ha h2 h
    · rw [if_neg h2] at *
      exact ht (not_or.2 ⟨h1, h2⟩) h

theorem byMode.imp {n n' a a' t t' : Prop} (h : byMode mode neg n a t) (hn : n → n') (ha : a → a') (ht : t → t') :
    byMode mode neg n' a' t' :=
  h.imp_of_mode (fun _ => hn) (fun _ => ha) (fun _ => ht)

theorem byMode.elim {n a t G : Prop} (h : byMode mode neg n a t) (hn : n → G) (ha : a → G) (ht : t → G) : G := by
  have hG : byMode mode neg G G G := h.imp hn ha ht
  simpa only [byMode, ite_self] using hG

/-- The model rounds a magnitude up to the next integer by the remainder alone in the nearest mode, and otherwise by its sign. -/
theorem byMode_of_awayFrom {n a t : Prop} (hn : mode = .rn → n) (ha : mode ≠ .rn → awayFrom mode neg = true → a)
    (ht : mode ≠ .rn → awayFrom mode neg = false → t) : byMode mode neg n a t := by
  cases mode <;> cases neg <;> simp_all [byMode, awayFrom]

/-! ### The integer of `choose` -/

/-- An integer is what a value rounds to: `atLeast a` says that twice the value is at least a, and `atMost a` that it is at most that. -/
def Chosen (mode : Rnd) (neg : Bool) (k : Nat) (atLeast atMost : Int → Prop) : Prop :=
  byMode mode neg
    (atLeast (2 * k - 1) ∧ (atMost (2 * k - 1) → k % 2 = 0) ∧ atMost (2 * k + 1) ∧ (atLeast (2 * k + 1) → k % 2 = 0))
    (atMost (2 * k) ∧ ¬ atMost (2 * k - 2))
    (atLeast (2 * k) ∧ ¬ atLeast (2 * k + 2))

theorem Chosen.congr {k : Nat} {l l' u u' : Int → Prop} (h : Chosen mode neg k l u) (hl : ∀ a, l a ↔ l' a) (hu : ∀ a, u a ↔ u' a) :
    Chosen mode neg k l' u' := by
  obtain rfl : l = l' := funext fun a => propext (hl a)
  obtain rfl : u = u' := funext fun a => propext (hu a)
  exact h

/-- An integer is what its own value rounds to. -/
theorem chosen_self (k : Nat) : Chosen mode neg k (fun a => a ≤ 2 * (k : Int)) (fun a => 2 * (k : Int) ≤ a) := by
  refine byMode_of_awayFrom (fun _ => ?_) (fun _ _ => ?_) (fun _ _ => ?_) <;> omega

/-- `choose` takes the quotient, or the next integer by the remainder; the short cut for a small value is no exception. -/
theorem choose_eq (m sh : Nat) (mode : Rnd) (neg : Bool) :
    choose m sh mode neg = m / 2 ^ sh +
      if mode = .rn then (if 2 * (m % 2 ^ sh) > 2 ^ sh || (2 * (m % 2 ^ sh) = 2 ^ sh && m / 2 ^ sh % 2 = 1) then 1 else 0)
      else if m % 2 ^ sh ≠ 0 && awayFrom mode neg then 1 else 0 := by
  unfold choose
  split
  · rename_i h
    have hm : 2 * m < 2 ^ sh := by
      have h1 : m < 2 ^ (m.log2 + 1) := Nat.lt_log2_self
      have h2 : 2 ^ (m.log2 + 2) ≤ 2 ^ sh := Nat.pow_le_pow_right (by decide) h
      rw [Nat.pow_succ] at h2
      omega
    rw [Nat.div_eq_of_lt (by omega), Nat.mod_eq_of_lt (by omega)]
    cases mode <;> simp [awayFrom, hm.le, hm.ne]
  · rw [Nat.shiftRight_eq_div_pow]
    cases mode <;> simp only [reduceCtorEq, if_true, if_false] <;> split <;> rfl

theorem choose_chosen (m sh : Nat) :
    Chosen mode neg (choose m sh mode neg) (fun a => a * 2 ^ sh ≤ 2 * (m : Int)) (fun a => 2 * (m : Int) ≤ a * 2 ^ sh) := by
  obtain ⟨d, hd⟩ : ∃ d : Int, d = 2 ^ sh := ⟨_, rfl⟩
  obtain ⟨k, hk⟩ : ∃ k, k = m / 2 ^ sh := ⟨_, rfl⟩
  obtain ⟨r, hr⟩ : ∃ r, r = m % 2 ^ sh := ⟨_, rfl⟩
  have hm : (m : Int) = k * d + r := by
    rw [hd, hk, hr]
    exact_mod_cast (Nat.div_add_mod' m (2 ^ sh)).symm
  have hrd : (r : Int) < d := by
    rw [hd, hr]
    exact_mod_cast Nat.mod_lt m (Nat.two_pow_pos sh)
  have hcast : ((2 ^ sh : Nat) : Int) = d := by rw [hd]; norm_cast
  have hmul (j i : Int) : (2 * (k + i) + j) * d = 2 * (k * d) + (2 * i + j) * d := by ring
  have hmul0 (i : Int) : 2 * (k + i) * d = 2 * (k * d) + 2 * i * d := by ring
  rw [choose_eq, ← hk, ← hr, ← hd, hm]
  generalize (k : Int) * d = z at *
  refine byMode_of_awayFrom (fun h => ?_) (fun h haway => ?_) (fun h haway => ?_)
  · rw [if_pos h]
    split <;>
    · rename_i hc
      simp only [Bool.or_eq_true, decide_eq_true_eq, Bool.and_eq_true] at hc
      simp only [Nat.cast_add, Nat.cast_one, Nat.cast_zero, sub_eq_add_neg, hmul]
      omega
  · rw [if_neg h, haway]
    split <;>
    · rename_i hc
      simp only [Bool.and_true, decide_eq_true_eq] at hc
      simp only [Nat.cast_add, Nat.cast_one, Nat.cast_zero, sub_eq_add_neg, hmul, hmul0]
      omega
  · rw [if_neg h, haway, Bool.and_false, if_neg Bool.false_ne_true]
    simp only [Nat.cast_add, Nat.cast_zero, hmul, hmul0]
    omega

/-! ### Values at a scale -/

/-- Two values stand on the same side of every multiple of 2^t, or both on it. -/
def SameSide (x y : ℝ) (t : Int) : Prop :=
  ∀ a : Int, (a * 2 ^ t ≤ x ↔ a * 2 ^ t ≤ y) ∧ (x ≤ a * 2 ^ t ↔ y ≤ a * 2 ^ t)

/-- The multiples of a power of two are those of a smaller one. -/
theorem exists_mul_zpow {s t : Int} (h : s ≤ t) (a : Int) : ∃ b : Int, (a : ℝ) * 2 ^ t = b * 2 ^ s := by
  obtain ⟨n, rfl⟩ := Int.le.dest h
  refine ⟨a * 2 ^ n, ?_⟩
  rw [zpow_add₀ two_ne_zero, zpow_natCast]
  push_cast
  ring

theorem SameSide.mono {x y : ℝ} {s t : Int} (h : SameSide x y s) (hst : s ≤ t) : SameSide x y t := by
  intro a
  obtain ⟨b, hb⟩ := exists_mul_zpow hst a
  rw [hb]
  exact h b

/-- Two values between the same neighbours stand on the same side, where neither or both are the lower one. -/
theorem sameSide_of_cell {x y : ℝ} {q s : Int} (hx : q * 2 ^ s ≤ x ∧ x < (q + 1) * 2 ^ s) (hy : q * 2 ^ s ≤ y ∧ y < (q + 1) * 2 ^ s)
    (h : x = q * 2 ^ s ↔ y = q * 2 ^ s) : SameSide x y s := by
  have hpos : (0 : ℝ) < 2 ^ s := by positivity
  have hle {z : ℝ} (hz : q * 2 ^ s ≤ z ∧ z < (q + 1) * 2 ^ s) (a : Int) : a * 2 ^ s ≤ z ↔ a ≤ q := by
    refine ⟨fun ha => ?_, fun ha => le_trans ?_ hz.1⟩
    · have : (a : ℝ) < q + 1 := lt_of_mul_lt_mul_right (ha.trans_lt hz.2) hpos.le
      exact Int.lt_add_one_iff.1 (by exact_mod_cast this)
    · exact mul_le_mul_of_nonneg_right (by exact_mod_cast ha) hpos.le
  have hge {z : ℝ} (hz : q * 2 ^ s ≤ z ∧ z < (q + 1) * 2 ^ s) (a : Int) : z ≤ a * 2 ^ s ↔ q < a ∨ a = q ∧ z = q * 2 ^ s := by
    rw [le_iff_lt_or_eq, ← not_le, hle hz, not_le]
    constructor
    · rintro (ha | ha)
      · exact .inl ha
      · have : a ≤ q := (hle hz a).1 ha.ge
        have : q ≤ a := by
          have := ha ▸ hz.1
          exact_mod_cast le_of_mul_le_mul_right this hpos
        obtain rfl : a = q := by omega
        exact .inr ⟨rfl, ha⟩
    · rintro (ha | ⟨rfl, ha⟩)
      · exact .inl ha
      · exact .inr ha
  intro a
  rw [hle hx, hle hy, hge hx, hge hy, h]
  exact ⟨Iff.rfl, Iff.rfl⟩

/-! ### Rounding at a binade -/

/-- Twice a value, in units of the smallest subnormal, at a binade: `k` is what it rounds to in units of the spacing there, and it lies
within the binade. -/
structure RoundedAt (f : Fmt) (mode : Rnd) (neg : Bool) (j k : Nat) (x : ℝ) : Prop where
  chosen : Chosen mode neg k (fun a => (a : ℝ) * 2 ^ j ≤ x) (fun a => x ≤ a * 2 ^ j)
  lt : x < (2 ^ (f.fbits + 2) : Int) * 2 ^ j
  ge : j = 0 ∨ (2 ^ (f.fbits + 1) : Int) * 2 ^ j ≤ x

variable {f : Fmt} {j k p : Nat} {x : ℝ}

/-- An integer that a value rounds to differs from it by less than one. -/
theorem Chosen.near (h : Chosen mode neg k (fun a => (a : ℝ) * 2 ^ j ≤ x) (fun a => x ≤ a * 2 ^ j)) :
    ((2 * k - 2 : Int) : ℝ) * 2 ^ j < x ∧ x < (2 * k + 2 : Int) * 2 ^ j := by
  have hpos : (0 : ℝ) < 2 ^ j := by positivity
  have hstep {a b : Int} (hab : a < b) : (a : ℝ) * 2 ^ j < b * 2 ^ j := mul_lt_mul_of_pos_right (by exact_mod_cast hab) hpos
  refine h.elim (fun ⟨h1, _, h2, _⟩ => ?_) (fun ⟨h1, h2⟩ => ?_) (fun ⟨h1, h2⟩ => ?_)
  · exact ⟨(hstep (by omega)).trans_le h1, h2.trans_lt (hstep (by omega))⟩
  · exact ⟨not_le.1 h2, h1.trans_lt (hstep (by omega))⟩
  · exact ⟨(hstep (by omega)).trans_le h1, not_le.1 h2⟩

/-- The rounded magnitude is at most the next binade's first one, and below the first binade's hidden bit only in the first binade. -/
theorem RoundedAt.bounds (h : RoundedAt f mode neg j k x) : k ≤ 2 ^ (f.fbits + 1) ∧ (j = 0 ∨ 2 ^ f.fbits ≤ k) := by
  have hpos : (0 : ℝ) ≤ 2 ^ j := by positivity
  obtain ⟨hlo, hhi⟩ := h.chosen.near
  have hup : (2 * k - 2 : Int) < 2 ^ (f.fbits + 2) := by exact_mod_cast lt_of_mul_lt_mul_right (hlo.trans h.lt) hpos
  have h1 : (2 : Int) ^ (f.fbits + 1) = ((2 ^ (f.fbits + 1) : Nat) : Int) := by norm_cast
  refine ⟨?_, h.ge.imp_right fun hge => ?_⟩
  · rw [pow_succ (2 : Int) (f.fbits + 1), h1] at hup
    omega
  · have hdown : (2 : Int) ^ (f.fbits + 1) < 2 * k + 2 := by exact_mod_cast lt_of_mul_lt_mul_right (hge.trans_lt hhi) hpos
    rw [h1, Nat.pow_succ] at hdown
    omega

/-! ### Magnitudes of neighbouring patterns -/

theorem magnitude_add (hk : k ≤ 2 ^ (f.fbits + 1)) (hj : j = 0 ∨ 2 ^ f.fbits ≤ k) : magnitude f (j * 2 ^ f.fbits + k) = k * 2 ^ j := by
  have hd := Nat.two_pow_pos f.fbits
  have hdiv : (j * 2 ^ f.fbits + k) / 2 ^ f.fbits = j + k / 2 ^ f.fbits := by
    rw [Nat.add_comm, Nat.add_mul_div_right _ _ hd, Nat.add_comm]
  have hmod : (j * 2 ^ f.fbits + k) % 2 ^ f.fbits = k % 2 ^ f.fbits := Nat.mul_add_mod_self_right ..
  rw [magnitude, hdiv, hmod]
  rw [Nat.pow_succ] at hk
  rcases Nat.lt_trichotomy k (2 ^ f.fbits) with hlt | rfl | hgt
  · obtain rfl : j = 0 := hj.resolve_right hlt.not_ge
    rw [Nat.div_eq_of_lt hlt, Nat.mod_eq_of_lt hlt, if_pos rfl, Nat.pow_zero, Nat.mul_one]
  · rw [Nat.div_self hd, Nat.mod_self, if_neg (Nat.succ_ne_zero j)]
    rfl
  · by_cases htop : k = 2 ^ f.fbits * 2
    · rw [htop, Nat.mul_div_cancel_left _ hd, Nat.mul_mod_right, if_neg (by omega), Nat.add_zero, Nat.mul_assoc, ← Nat.pow_succ']
      rfl
    · have h1 : k / 2 ^ f.fbits = 1 := Nat.div_eq_of_lt_le (by omega) (by omega)
      have h2 : k % 2 ^ f.fbits = k - 2 ^ f.fbits := by
        rw [Nat.mod_eq_sub_mod hgt.le, Nat.mod_eq_of_lt (by omega)]
      rw [h1, h2, if_neg (Nat.succ_ne_zero j), Nat.add_sub_cancel' hgt.le, Nat.add_sub_cancel]

theorem magnitude_lt_succ (f : Fmt) (p : Nat) : magnitude f p < magnitude f (p + 1) := by
  have hsig : significand f p + 1 ≤ 2 ^ (f.fbits + 1) := significand_lt f p
  have hp : p + 1 = binade f p * 2 ^ f.fbits + (significand f p + 1) := by
    rw [← Nat.add_assoc, binade_significand]
  rw [hp, magnitude_add hsig ((binade_eq_zero_or f p).imp_right Nat.le_succ_of_le), magnitude_eq_significand]
  exact Nat.mul_lt_mul_of_pos_right (Nat.lt_succ_self _) (Nat.two_pow_pos _)

theorem magnitude_strictMono (f : Fmt) : StrictMono (magnitude f) := strictMono_nat_of_lt_succ (magnitude_lt_succ f)

theorem magnitude_pos (h : 1 ≤ p) : 0 < magnitude f p :=
  (Nat.zero_le _).trans_lt (magnitude_strictMono f h)

/-- The pattern after that of a rounded magnitude is at least one spacing further. -/
theorem le_magnitude_succ (hk : k ≤ 2 ^ (f.fbits + 1)) (hj : j = 0 ∨ 2 ^ f.fbits ≤ k) :
    (k + 1) * 2 ^ j ≤ magnitude f (j * 2 ^ f.fbits + k + 1) := by
  rcases hk.lt_or_eq with hlt | rfl
  · rw [Nat.add_assoc, magnitude_add hlt (hj.imp_right Nat.le_succ_of_le)]
  · have hp : j * 2 ^ f.fbits + 2 ^ (f.fbits + 1) + 1 = (j + 1) * 2 ^ f.fbits + (2 ^ f.fbits + 1) := by ring
    have hpos := Nat.two_pow_pos f.fbits
    rw [hp, magnitude_add (by rw [Nat.pow_succ]; omega) (.inr (Nat.le_succ _)), Nat.pow_succ _ j, Nat.mul_comm (2 ^ j), ← Nat.mul_assoc]
    exact Nat.mul_le_mul_right _ (by rw [Nat.pow_succ]; omega)

/-- The pattern before that of a rounded magnitude is one spacing nearer to zero, except below a binade's first magnitude. -/
theorem magnitude_pred (hk : k ≤ 2 ^ (f.fbits + 1)) (hj : j = 0 ∨ 2 ^ f.fbits ≤ k) (hp : 1 ≤ j * 2 ^ f.fbits + k) :
    magnitude f (j * 2 ^ f.fbits + k - 1) + 2 ^ j = k * 2 ^ j ∨ (j ≠ 0 ∧ k = 2 ^ f.fbits) := by
  by_cases hfirst : j ≠ 0 ∧ k = 2 ^ f.fbits
  · exact .inr hfirst
  · left
    have hk0 : k ≠ 0 := by
      rintro rfl
      rcases hj with rfl | hj
      · omega
      · have := Nat.two_pow_pos f.fbits
        omega
    obtain ⟨k', rfl⟩ := Nat.exists_eq_succ_of_ne_zero hk0
    rw [Nat.succ_eq_add_one, ← Nat.add_assoc, Nat.add_sub_cancel, magnitude_add (by omega) (by omega), Nat.succ_mul]

end Sys2Proof.Machine
end

section
/-! SUPPORT. The pattern that a real value rounds to: its neighbours, the bound of the format, and values that `round_f` is given in
place of the exact one (R82). -/

namespace Sys2Proof.Machine

variable {f : Fmt} {mode : Rnd} {neg : Bool} {j k p : Nat} {x : ℝ}

/-! ### The pattern of a rounded value -/

/-- A pattern is what a value rounds to where patterns have no end: `RoundedOnce` without the bound of the format. -/
def Unbounded (f : Fmt) (mode : Rnd) (neg : Bool) (p : Nat) (x : ℝ) : Prop :=
  byMode mode neg
    ((1 ≤ p → (magnitude f (p - 1) + magnitude f p : Nat) ≤ x ∧ (x ≤ (magnitude f (p - 1) + magnitude f p : Nat) → p % 2 = 0))
      ∧ x ≤ (magnitude f p + magnitude f (p + 1) : Nat) ∧ ((magnitude f p + magnitude f (p + 1) : Nat) ≤ x → p % 2 = 0))
    (x ≤ (2 * magnitude f p : Nat) ∧ (1 ≤ p → (2 * magnitude f (p - 1) : Nat) < x))
    ((2 * magnitude f p : Nat) ≤ x ∧ x < (2 * magnitude f (p + 1) : Nat))

theorem RoundedAt.unbounded (hf : f.Regular) (h : RoundedAt f mode neg j k x) : Unbounded f mode neg (j * 2 ^ f.fbits + k) x := by
  obtain ⟨hk, hj⟩ := h.bounds
  have hmag : magnitude f (j * 2 ^ f.fbits + k) = k * 2 ^ j := magnitude_add hk hj
  have hnext : (((k + 1) * 2 ^ j : Nat) : ℝ) ≤ magnitude f (j * 2 ^ f.fbits + k + 1) := by exact_mod_cast le_magnitude_succ hk hj
  have hpar : (j * 2 ^ f.fbits + k) % 2 = k % 2 := by
    rw [Nat.add_mod, Nat.mul_mod, Nat.two_pow_mod_two_eq_zero.2 hf.fbits_pos, Nat.mul_zero, Nat.zero_mod, Nat.zero_add, Nat.mod_mod]
  have hprev (hp : 1 ≤ j * 2 ^ f.fbits + k) : (magnitude f (j * 2 ^ f.fbits + k - 1) : ℝ) + 2 ^ j = k * 2 ^ j
      ∨ (magnitude f (j * 2 ^ f.fbits + k - 1) : ℝ) < k * 2 ^ j ∧ 2 * (k * 2 ^ j : ℝ) ≤ x := by
    rcases magnitude_pred hk hj hp with heq | ⟨hj0, hkf⟩
    · left; exact_mod_cast heq
    · right
      constructor
      · have := magnitude_strictMono f (Nat.sub_lt hp Nat.one_pos)
        rw [hmag] at this
        exact_mod_cast this
      · have := h.ge.resolve_left hj0
        rw [pow_succ] at this
        push_cast at this
        rw [hkf]
        push_cast
        linarith
  have hc := h.chosen
  push_cast at hnext
  refine hc.imp (fun ⟨h1, h2, h3, h4⟩ => ?_) (fun ⟨h1, h2⟩ => ?_) (fun ⟨h1, h2⟩ => ?_) <;> rw [hmag] <;> push_cast at *
  · refine ⟨fun hp => ?_, ?_, fun htie => ?_⟩
    · rcases hprev hp with he | ⟨hlt, hge⟩
      · refine ⟨by linarith, fun htie => hpar.trans (h2 (by linarith))⟩
      · exact ⟨by linarith, fun htie => by linarith⟩
    · linarith
    · exact hpar.trans (h4 (by linarith))
  · refine ⟨by linarith, fun hp => ?_⟩
    rcases hprev hp with he | ⟨hlt, hge⟩
    · linarith
    · linarith
  · exact ⟨by linarith, by linarith⟩

/-! ### The bound of the format -/

/-- A value rounded once, on the real line. -/
def RoundedReal (f : Fmt) (mode : Rnd) (neg : Bool) (p : Nat) (x : ℝ) : Prop :=
  RoundedOnce f mode neg p (fun c => (c : ℝ) ≤ x) (fun c => x ≤ c)

theorem roundedReal_iff : RoundedReal f mode neg p x ↔ byMode mode neg
    (p ≤ f.max + 1
      ∧ (1 ≤ p → (magnitude f (p - 1) + magnitude f p : Nat) ≤ x ∧ (x ≤ (magnitude f (p - 1) + magnitude f p : Nat) → p % 2 = 0))
      ∧ (p ≤ f.max →
        x ≤ (magnitude f p + magnitude f (p + 1) : Nat) ∧ ((magnitude f p + magnitude f (p + 1) : Nat) ≤ x → p % 2 = 0)))
    (p ≤ f.max + 1 ∧ (p ≤ f.max → x ≤ (2 * magnitude f p : Nat)) ∧ (1 ≤ p → ¬ x ≤ (2 * magnitude f (p - 1) : Nat)))
    (p ≤ f.max ∧ (2 * magnitude f p : Nat) ≤ x ∧ (p < f.max → ¬ (2 * magnitude f (p + 1) : Nat) ≤ x)) := Iff.rfl

theorem RoundedReal.roundedOnce {atLeast atMost : Nat → Prop}
    (h : RoundedReal f mode neg p x) (hl : ∀ c : Nat, (c : ℝ) ≤ x ↔ atLeast c) (hu : ∀ c : Nat, x ≤ c ↔ atMost c) :
    RoundedOnce f mode neg p atLeast atMost := by
  obtain rfl : (fun c : Nat => (c : ℝ) ≤ x) = atLeast := funext fun c => propext (hl c)
  obtain rfl : (fun c : Nat => x ≤ (c : ℝ)) = atMost := funext fun c => propext (hu c)
  exact h

theorem Unbounded.roundedReal (h : Unbounded f mode neg p x) (hp : p ≤ f.max) : RoundedReal f mode neg p x :=
  roundedReal_iff.2 <| h.imp
    (fun ⟨h1, h2⟩ => ⟨Nat.le_succ_of_le hp, h1, fun _ => h2⟩)
    (fun ⟨h1, h2⟩ => ⟨Nat.le_succ_of_le hp, fun _ => h1, fun hp => not_le.2 (h2 hp)⟩)
    (fun ⟨h1, h2⟩ => ⟨hp, h1, fun _ => not_le.2 h2⟩)

/-- The magnitude pattern of an overflow (R82). -/
def overflowMag (f : Fmt) (mode : Rnd) (neg : Bool) : Nat :=
  if mode = .rn ∨ mode = (if neg then .rd else .ru) then f.max + 1 else f.max

theorem overflowPat_eq (hinf : f.inf = true) : overflowPat f mode neg false = withSign f neg (overflowMag f mode neg) := by
  cases mode <;> cases neg <;> simp [overflowPat, overflowMag, infPat, hinf]

theorem Unbounded.overflow (hf : f.Regular) (hinf : f.inf = true) (h : Unbounded f mode neg p x) (hp : f.max < p) :
    RoundedReal f mode neg (overflowMag f mode neg) x := by
  have hmag : (magnitude f (f.max + 1) : ℝ) ≤ magnitude f p := by exact_mod_cast (magnitude_strictMono f).monotone hp
  have hprev : (magnitude f f.max : ℝ) ≤ magnitude f (p - 1) := by
    exact_mod_cast (magnitude_strictMono f).monotone (Nat.le_sub_one_of_lt hp)
  have hmax : (magnitude f f.max : ℝ) < magnitude f (f.max + 1) := by exact_mod_cast magnitude_lt_succ f f.max
  refine roundedReal_iff.2 <| h.imp_of_mode (fun hm ⟨h1, _⟩ => ?_) (fun hm ⟨_, h2⟩ => ?_) (fun hm ⟨h1, _⟩ => ?_)
  · rw [overflowMag, if_pos (.inl hm), Nat.add_sub_cancel]
    obtain ⟨hlo, -⟩ := h1 (by omega)
    refine ⟨le_rfl, fun _ => ⟨?_, fun _ => hf.max_odd hinf⟩, fun hle => absurd hle (by omega)⟩
    push_cast at *
    linarith
  · rw [overflowMag, if_pos (.inr hm), Nat.add_sub_cancel]
    have hlo := h2 (by omega)
    refine ⟨le_rfl, fun hle => absurd hle (by omega), fun _ => not_le.2 ?_⟩
    push_cast at *
    linarith
  · rw [overflowMag, if_neg hm]
    refine ⟨le_rfl, ?_, fun hlt => absurd hlt (lt_irrefl _)⟩
    push_cast at *
    linarith

/-! ### `round_f` of a real value -/

/-- The value of a significand and an exponent. -/
noncomputable def finValue (m : Nat) (e : Int) : ℝ := m * 2 ^ e

/-- Comparing a value with a multiple of half the spacing at its binade is comparing it in units of the smallest subnormal. -/
theorem mul_zpow_le_iff (f : Fmt) (j : Nat) (a v : ℝ) :
    (a * 2 ^ (f.emin + j - f.fbits - 1) ≤ v ↔ a * 2 ^ j ≤ 2 * v / 2 ^ (f.emin - f.fbits))
      ∧ (v ≤ a * 2 ^ (f.emin + j - f.fbits - 1) ↔ 2 * v / 2 ^ (f.emin - f.fbits) ≤ a * 2 ^ j) := by
  have hpos : (0 : ℝ) < 2 ^ (f.emin - f.fbits) := by positivity
  have hz : (2 : ℝ) ^ (f.emin + j - f.fbits - 1) = 2 ^ j * 2 ^ (f.emin - f.fbits) / 2 := by
    rw [zpow_sub_one₀ two_ne_zero, show f.emin + (j : Int) - f.fbits = j + (f.emin - f.fbits) by ring, zpow_add₀ two_ne_zero, zpow_natCast]
    rfl
  rw [hz, le_div_iff₀ hpos, div_le_iff₀ hpos]
  constructor <;> constructor <;> intro h <;> linarith

/-- The rounded magnitude of a value is the integer that the mode chooses, in units of the spacing. -/
theorem roundMag_chosen (f : Fmt) (m : Nat) (e : Int) :
    let t := roundExp f m e - f.fbits - 1
    Chosen mode neg (roundMag f m e mode neg) (fun a => (a : ℝ) * 2 ^ t ≤ finValue m e) (fun a => finValue m e ≤ (a : ℝ) * 2 ^ t) := by
  intro t
  rw [roundMag]
  split
  · rename_i hq
    obtain ⟨n, hn⟩ := Int.le.dest hq
    have hv : finValue m e = (2 * (m <<< n : Nat) : Int) * 2 ^ t := by
      rw [finValue, ← hn, Nat.shiftLeft_eq, show roundExp f m e - f.fbits + (n : Int) = t + 1 + n by omega, zpow_add₀ two_ne_zero,
        zpow_add_one₀ two_ne_zero, zpow_natCast]
      push_cast
      ring
    have hle (a b : Int) : a ≤ b ↔ (a : ℝ) * 2 ^ t ≤ b * 2 ^ t := by rw [mul_le_mul_iff_left₀ (by positivity), Int.cast_le]
    rw [hv, show (e - (roundExp f m e - f.fbits)).toNat = n by omega]
    exact (chosen_self _).congr (fun a => hle a _) (fun a => hle _ a)
  · rename_i hq
    obtain ⟨n, hn⟩ := Int.le.dest (le_of_not_ge hq)
    have hpos : (0 : ℝ) < 2 ^ e := by positivity
    have ht (a : Int) : (a : ℝ) * 2 ^ t = (a * 2 ^ n / 2) * 2 ^ e := by
      rw [show t = e + n - 1 by omega, zpow_sub_one₀ two_ne_zero, zpow_add₀ two_ne_zero, zpow_natCast]
      ring
    rw [show (roundExp f m e - f.fbits - e).toNat = n by omega, finValue]
    refine (choose_chosen m n).congr (fun a => ?_) (fun a => ?_)
    · rw [ht, mul_le_mul_iff_left₀ hpos, div_le_iff₀ two_pos, mul_comm (m : ℝ)]
      exact_mod_cast Iff.rfl
    · rw [ht, mul_le_mul_iff_left₀ hpos, le_div_iff₀ two_pos, mul_comm (m : ℝ)]
      exact_mod_cast Iff.rfl

theorem pow_mul_zpow (n : Nat) (t : Int) : ((2 ^ n : Int) : ℝ) * 2 ^ t = 2 ^ (n + t) := by
  rw [zpow_add₀ two_ne_zero, zpow_natCast]
  push_cast
  rfl

theorem finValue_lt (m : Nat) (e : Int) : finValue m e < 2 ^ (m.log2 + e + 1) := by
  have h : m < 2 ^ (m.log2 + 1) := Nat.lt_log2_self
  rw [show (m.log2 : Int) + e + 1 = (m.log2 + 1 : Nat) + e by push_cast; ring, ← pow_mul_zpow]
  exact mul_lt_mul_of_pos_right (by exact_mod_cast h) (by positivity)

theorem le_finValue {m : Nat} (hm : m ≠ 0) (e : Int) : 2 ^ (m.log2 + e) ≤ finValue m e := by
  have h : 2 ^ m.log2 ≤ m := Nat.log2_self_le hm
  rw [← pow_mul_zpow]
  exact mul_le_mul_of_nonneg_right (by exact_mod_cast h) (by positivity)

/-- A real value is rounded as a significand and an exponent that stand on its side of every multiple that counts: those of half the
spacing at the exponent of its leading bit, or at a higher one. -/
theorem roundedAt_of_sameSide (f : Fmt) {m : Nat} {e : Int} (hm : m ≠ 0) {v : ℝ}
    (hv : ∀ t : Int, m.log2 + e ≤ t + f.fbits + 1 → SameSide v (finValue m e) t) :
    RoundedAt f mode neg (roundBinade f m e) (roundMag f m e mode neg) (2 * v / 2 ^ (f.emin - f.fbits)) := by
  have hexp := roundExp_eq f m e
  have htop : m.log2 + e ≤ roundExp f m e := le_max_left _ _
  obtain ⟨t, ht⟩ : ∃ t, t = f.emin + roundBinade f m e - f.fbits - 1 := ⟨_, rfl⟩
  have hside := hv t (by omega)
  have hscale := mul_zpow_le_iff f (roundBinade f m e)
  rw [← ht] at hscale
  constructor
  · have hc := roundMag_chosen (mode := mode) (neg := neg) f m e
    rw [hexp, ← ht] at hc
    exact hc.congr (fun a => (hside a).1.symm.trans (hscale a v).1) (fun a => (hside a).2.symm.trans (hscale a v).2)
  · rw [← not_le, ← (hscale _ v).1, (hside _).1, pow_mul_zpow, not_le]
    refine (finValue_lt m e).trans_le (zpow_le_zpow_right₀ one_le_two ?_)
    push_cast
    omega
  · by_cases hj : roundBinade f m e = 0
    · exact .inl hj
    · right
      have hlead : roundExp f m e = m.log2 + e := by
        rw [roundBinade] at hj
        rw [roundExp] at *
        omega
      rw [← (hscale _ v).1, (hside _).1, pow_mul_zpow]
      refine le_trans (zpow_le_zpow_right₀ one_le_two ?_) (le_finValue hm e)
      push_cast
      omega

/-- `round_f` rounds a real value once, given any value that stands on its side of every multiple that counts. -/
theorem roundF_of_sameSide (hf : f.Regular) (hinf : f.inf = true) {m : Nat} {e : Int} (hm : m ≠ 0) {v : ℝ}
    (hv : ∀ t : Int, m.log2 + e ≤ t + f.fbits + 1 → SameSide v (finValue m e) t) :
    ∃ p, roundF (.fin neg m e) f mode false = withSign f neg p ∧ RoundedReal f mode neg p (2 * v / 2 ^ (f.emin - f.fbits)) := by
  have h := (roundedAt_of_sameSide (mode := mode) (neg := neg) f hm hv).unbounded hf
  rw [roundF_fin hf hm]
  split
  · rename_i hmax
    exact ⟨overflowMag f mode neg, overflowPat_eq hinf, h.overflow hf hinf hmax⟩
  · rename_i hmax
    exact ⟨_, rfl, h.roundedReal (Nat.le_of_not_lt hmax)⟩

/-- An exact value is rounded once. -/
theorem roundF_exact (hf : f.Regular) (hinf : f.inf = true) {m : Nat} (hm : m ≠ 0) (e : Int) :
    ∃ p, roundF (.fin neg m e) f mode false = withSign f neg p
      ∧ RoundedReal f mode neg p (2 * finValue m e / 2 ^ (f.emin - f.fbits)) :=
  roundF_of_sameSide hf hinf hm fun _ _ _ => ⟨Iff.rfl, Iff.rfl⟩

/-- A truncated magnitude with its sticky bit stands on the side of the exact value, at every scale above the bit. -/
theorem sameSide_sticky {q : Nat} {s : Int} {exact : Bool} {v : ℝ} (hlo : q * 2 ^ s ≤ v) (hhi : v < (q + 1) * 2 ^ s)
    (hex : exact = true ↔ v = q * 2 ^ s) : SameSide v (finValue (2 * q + if exact then 0 else 1) (s - 1)) s := by
  have hpos : (0 : ℝ) < 2 ^ s := by positivity
  have hval : finValue (2 * q + if exact then 0 else 1) (s - 1) = q * 2 ^ s + (if exact then 0 else 2 ^ s / 2) := by
    rw [finValue, zpow_sub_one₀ two_ne_zero]
    split <;> (push_cast; ring)
  refine sameSide_of_cell (q := q) ⟨by exact_mod_cast hlo, by exact_mod_cast hhi⟩ ?_ ?_ <;> rw [hval] <;> push_cast
  · split <;> constructor <;> linarith
  · rw [← hex]
    split
    · rename_i h; simp [h]
    · rename_i h; simp [h, hpos.ne']

/-- A value truncated to more bits than the format holds, with a sticky bit below them, rounds as the exact value does. -/
theorem roundF_sticky (hf : f.Regular) (hinf : f.inf = true) {q : Nat} {s : Int} {exact : Bool} {v : ℝ} (hq : 2 ^ (f.fbits + 1) ≤ q)
    (hlo : q * 2 ^ s ≤ v) (hhi : v < (q + 1) * 2 ^ s) (hex : exact = true ↔ v = q * 2 ^ s) :
    ∃ p, roundF (sticky neg q exact s) f mode false = withSign f neg p ∧ RoundedReal f mode neg p (2 * v / 2 ^ (f.emin - f.fbits)) := by
  obtain ⟨m, hm⟩ : ∃ m, m = 2 * q + if exact then 0 else 1 := ⟨_, rfl⟩
  have hbig : 2 ^ (f.fbits + 2) ≤ m := by
    rw [Nat.pow_succ]
    omega
  have hm0 : m ≠ 0 := (Nat.two_pow_pos _).trans_le hbig |>.ne'
  have hlog : f.fbits + 2 ≤ m.log2 := (Nat.le_log2 hm0).2 hbig
  rw [sticky, ← hm]
  exact roundF_of_sameSide hf hinf hm0 fun t ht => hm ▸ (sameSide_sticky hlo hhi hex).mono (by omega)

end Sys2Proof.Machine
end

section
/-! PROOF. O10 (`Obligations.RoundingKeepsPatterns`): patterns that round to themselves, exact values, quotients and square roots (R80, R82,
R128). -/

namespace Sys2Proof.Machine

/-! ### Exact values (R82) -/

/-- Two powers of two share the lower of their exponents. -/
theorem zpow_sub_split (u e : Int) : ∃ d : ℝ, 0 < d ∧ (2 : ℝ) ^ u = 2 ^ (u - e).toNat * d ∧ (2 : ℝ) ^ e = 2 ^ (e - u).toNat * d := by
  refine ⟨2 ^ min u e, by positivity, ?_, ?_⟩ <;> rw [← zpow_natCast, ← zpow_add₀ two_ne_zero] <;> congr 1 <;> omega

theorem roundF_roundedOnce {f : Fmt} (hf : f.Regular) (hinf : f.inf = true) {m : Nat} (hm : m ≠ 0) (neg : Bool) (e : Int) (mode : Rnd) :
    let unit := f.emin - f.fbits
    ∃ p, roundF (.fin neg m e) f mode false = withSign f neg p ∧ RoundedOnce f mode neg p
      (fun c => c * 2 ^ (unit - e).toNat ≤ 2 * m * 2 ^ (e - unit).toNat)
      (fun c => 2 * m * 2 ^ (e - unit).toNat ≤ c * 2 ^ (unit - e).toNat) := by
  intro unit
  obtain ⟨p, hp, hr⟩ := roundF_exact (neg := neg) (mode := mode) hf hinf hm e
  obtain ⟨d, hd, hu, he⟩ := zpow_sub_split unit e
  have hpos : (0 : ℝ) < 2 ^ unit := by positivity
  have hv : 2 * finValue m e = 2 * m * 2 ^ (e - unit).toNat * d := by rw [finValue, he]; ring
  have hc (c : Nat) : (c : ℝ) * 2 ^ unit = c * 2 ^ (unit - e).toNat * d := by rw [hu]; ring
  refine ⟨p, hp, hr.roundedOnce (fun c => ?_) (fun c => ?_)⟩
  · rw [le_div_iff₀ hpos, hv, hc, mul_le_mul_iff_left₀ hd]
    exact_mod_cast Iff.rfl
  · rw [div_le_iff₀ hpos, hv, hc, mul_le_mul_iff_left₀ hd]
    exact_mod_cast Iff.rfl

/-! ### Finite F32 operands -/

theorem regular_f32 : Fmt.f32.Regular := Fmt.regular_of_mem (by decide)

/-- The exponent of the significand of an F32 pattern. -/
def f32Exp (x : Nat) : Int := binade .f32 x - 149

theorem dec_f32 {x : Nat} (hx : x ≤ Fmt.f32.max) (neg : Bool) : dec .f32 (withSign .f32 neg x) = .fin neg (significand .f32 x) (f32Exp x) := by
  rw [dec_of_le_max regular_f32 hx, f32Exp, show Fmt.f32.emin - Fmt.f32.fbits = -149 by decide, neg_add_eq_sub]

theorem finValue_f32 (x : Nat) : finValue (significand .f32 x) (f32Exp x) = magnitude .f32 x / 2 ^ 149 := by
  rw [finValue, f32Exp, magnitude_eq_significand, zpow_sub₀ two_ne_zero, zpow_natCast, Nat.cast_mul, ← mul_div_assoc]
  norm_cast

/-- A truncated F32 result with a sticky bit rounds as the exact value does. -/
theorem roundF32_sticky {neg : Bool} {mode : Rnd} {q : Nat} {s : Int} {exact : Bool} {v : ℝ} (hq : 2 ^ 24 ≤ q)
    (hlo : q * 2 ^ s ≤ v) (hhi : v < (q + 1) * 2 ^ s) (hex : exact = true ↔ v = q * 2 ^ s) :
    ∃ p, roundF (sticky neg q exact s) .f32 mode false = withSign .f32 neg p ∧ RoundedReal .f32 mode neg p (2 * v * 2 ^ 149) := by
  have h := roundF_sticky (neg := neg) (mode := mode) regular_f32 rfl hq hlo hhi hex
  rwa [show Fmt.f32.emin - Fmt.f32.fbits = -((149 : Nat) : Int) by decide, zpow_neg, zpow_natCast, div_inv_eq_mul] at h

/-! ### Quotients (R128) -/

/-- The quotient has more bits than F32 holds, and its sticky bit is the remainder's. -/
theorem roundF_divFin {m m' : Nat} (hm : m ≠ 0) (hm' : m' ≠ 0) (neg : Bool) (e e' : Int) (mode : Rnd) :
    ∃ p, roundF (divFin neg m e m' e') .f32 mode false = withSign .f32 neg p
      ∧ RoundedReal .f32 mode neg p (2 * (finValue m e / finValue m' e') * 2 ^ 149) := by
  obtain ⟨k, hk⟩ : ∃ k, k = 64 + m'.log2 := ⟨_, rfl⟩
  obtain ⟨q, hq⟩ : ∃ q, q = m * 2 ^ k / m' := ⟨_, rfl⟩
  have hpos : 0 < m' := Nat.pos_of_ne_zero hm'
  have hpos' : (0 : ℝ) < m' := by exact_mod_cast hpos
  have hs : (0 : ℝ) < 2 ^ (e - e' - k) := by positivity
  have hv : finValue m e / finValue m' e' = (m * 2 ^ k / m' : ℝ) * 2 ^ (e - e' - k) := by
    rw [finValue, finValue, zpow_sub₀ two_ne_zero, zpow_sub₀ two_ne_zero, zpow_natCast]
    field_simp
  have hbig : 2 ^ 24 ≤ q := by
    have hlog : m' < 2 ^ (m'.log2 + 1) := Nat.lt_log2_self
    rw [hq, Nat.le_div_iff_mul_le hpos]
    calc 2 ^ 24 * m' ≤ 2 ^ 63 * 2 ^ (m'.log2 + 1) := Nat.mul_le_mul (Nat.pow_le_pow_right two_pos (by decide)) hlog.le
      _ = 2 ^ k := by rw [← Nat.pow_add, hk]; congr 1; omega
      _ ≤ m * 2 ^ k := Nat.le_mul_of_pos_left _ (Nat.pos_of_ne_zero hm)
  have hlo : q * m' ≤ m * 2 ^ k := hq ▸ Nat.div_mul_le_self ..
  have hhi : m * 2 ^ k < (q + 1) * m' := (Nat.div_lt_iff_lt_mul hpos).1 (hq ▸ Nat.lt_succ_self q)
  rw [divFin, ← hk, Nat.shiftLeft_eq, ← hq]
  refine roundF32_sticky hbig ?_ ?_ ?_
  · rw [hv, mul_le_mul_iff_left₀ hs, le_div_iff₀ hpos']
    exact_mod_cast hlo
  · rw [hv, mul_lt_mul_iff_left₀ hs, div_lt_iff₀ hpos']
    exact_mod_cast hhi
  · rw [hv, mul_left_inj' hs.ne', div_eq_iff hpos'.ne', decide_eq_true_eq, eq_comm]
    exact_mod_cast Iff.rfl

/-! ### Square roots (R128) -/

/-- The search keeps the root between its lower end and the end of the bits that are left. -/
theorem isqrtFrom_spec (k n r : Nat) (hlo : r * r ≤ n) (hhi : n < (r + 2 ^ k) * (r + 2 ^ k)) :
    isqrtFrom k n r * isqrtFrom k n r ≤ n ∧ n < (isqrtFrom k n r + 1) * (isqrtFrom k n r + 1) := by
  induction k generalizing r with
  | zero => exact ⟨hlo, hhi⟩
  | succ k ih =>
    rw [isqrtFrom]
    split
    · rename_i h
      exact ih _ h (by rwa [Nat.add_assoc, ← Nat.two_mul, ← Nat.pow_succ'])
    · rename_i h
      exact ih _ hlo (Nat.lt_of_not_le h)

theorem isqrt_eq_sqrt (n : Nat) : isqrt n = n.sqrt := by
  have hlog : n < 2 ^ (n.log2 + 1) := Nat.lt_log2_self
  have hhi : n < (0 + 2 ^ (n.log2 / 2 + 1)) * (0 + 2 ^ (n.log2 / 2 + 1)) := by
    rw [Nat.zero_add, ← Nat.pow_add]
    exact hlog.trans_le (Nat.pow_le_pow_right two_pos (by omega))
  obtain ⟨h1, h2⟩ := isqrtFrom_spec _ n 0 (Nat.zero_le n) hhi
  exact Nat.eq_sqrt.2 ⟨h1, h2⟩

/-- The root of a value truncated to an integer is the truncated root, and its sticky bit says whether both are exact. -/
theorem roundF_root {n : Nat} {x : ℝ} (hbig : 2 ^ 48 ≤ n) (hlo : n ≤ x) (hhi : x < n + 1) {exact : Bool}
    (hex : exact = true ↔ x = isqrt n * isqrt n) (s : Int) (mode : Rnd) :
    RoundedReal .f32 mode false (roundF (sticky false (isqrt n) exact s) .f32 mode false) (2 * √(x * 2 ^ (2 * s)) * 2 ^ 149) := by
  rw [isqrt_eq_sqrt] at *
  have hx : 0 ≤ x := n.cast_nonneg.trans hlo
  have hs : (0 : ℝ) < 2 ^ s := by positivity
  have hroot : √(x * 2 ^ (2 * s)) = √x * 2 ^ s := by
    rw [Real.sqrt_mul hx, mul_comm, zpow_mul', zpow_ofNat, Real.sqrt_sq hs.le, mul_comm]
  have hr : (n.sqrt : ℝ) * n.sqrt ≤ x := le_trans (by exact_mod_cast Nat.sqrt_le n) hlo
  have hr' : x < ((n.sqrt : ℝ) + 1) ^ 2 := by
    have : ((n + 1 : Nat) : ℝ) ≤ ((n.sqrt + 1) * (n.sqrt + 1) : Nat) := by exact_mod_cast Nat.lt_succ_sqrt n
    push_cast at this
    rw [sq]
    exact hhi.trans_le this
  obtain ⟨p, hp, hrounded⟩ : ∃ p, roundF (sticky false n.sqrt exact s) .f32 mode false = withSign .f32 false p
      ∧ RoundedReal .f32 mode false p (2 * √(x * 2 ^ (2 * s)) * 2 ^ 149) := by
    refine roundF32_sticky (Nat.le_sqrt.2 (by rwa [← Nat.pow_add])) ?_ ?_ ?_
    · rw [hroot, mul_le_mul_iff_left₀ hs]
      exact Real.le_sqrt_of_sq_le (by rwa [sq])
    · rw [hroot, mul_lt_mul_iff_left₀ hs]
      exact (Real.sqrt_lt' (by positivity)).2 hr'
    · rw [hroot, mul_left_inj' hs.ne', hex, Real.sqrt_eq_iff_mul_self_eq hx n.sqrt.cast_nonneg, eq_comm]
  rwa [hp, withSign_false]

/-- The significand of a value whose exponent is made even. -/
def evenMant (m : Nat) (e : Int) : Nat := if e % 2 = 0 then m else 2 * m

/-- Half of the exponent of a value, made even. -/
def halfExp (e : Int) : Int := (if e % 2 = 0 then e else e - 1) / 2

theorem finValue_even (m : Nat) (e : Int) : finValue m e = evenMant m e * 2 ^ (2 * halfExp e) := by
  rw [finValue, evenMant, halfExp]
  split
  · rw [Int.mul_ediv_cancel' (by omega)]
  · rw [Int.mul_ediv_cancel' (by omega), zpow_sub_one₀ two_ne_zero]
    push_cast
    ring

theorem evenMant_bounds {m : Nat} (hm : m ≠ 0) (e : Int) : 0 < evenMant m e ∧ evenMant m e ≤ 2 * m := by
  rw [evenMant]
  split <;> omega

theorem fsqrtPat_fin {a m : Nat} {e : Int} (h : dec .f32 a = .fin false m e) (hm : m ≠ 0) (mode : Rnd) :
    fsqrtPat a mode = roundF (sticky false (isqrt (evenMant m e <<< 128))
      (isqrt (evenMant m e <<< 128) * isqrt (evenMant m e <<< 128) = evenMant m e <<< 128) (halfExp e - 64)) .f32 mode false := by
  rw [fsqrtPat, h]
  exact (if_neg hm).trans (if_neg Bool.false_ne_true)

theorem frsqPat_fin {a m : Nat} {e : Int} (h : dec .f32 a = .fin false m e) (hm : m ≠ 0) (mode : Rnd) :
    frsqPat a mode = roundF (sticky false (isqrt (2 ^ 256 / evenMant m e))
      (isqrt (2 ^ 256 / evenMant m e) * isqrt (2 ^ 256 / evenMant m e) * evenMant m e = 2 ^ 256) (-halfExp e - 128)) .f32 mode false := by
  rw [frsqPat, h]
  exact (if_neg hm).trans (if_neg Bool.false_ne_true)

theorem fsqrtPat_rounded {a m : Nat} {e : Int} (h : dec .f32 a = .fin false m e) (hm : m ≠ 0) (mode : Rnd) :
    RoundedReal .f32 mode false (fsqrtPat a mode) (2 * √(finValue m e) * 2 ^ 149) := by
  obtain ⟨hpos, -⟩ := evenMant_bounds hm e
  have hshift : evenMant m e <<< 128 = evenMant m e * 2 ^ 128 := Nat.shiftLeft_eq ..
  have hbig : 2 ^ 48 ≤ evenMant m e <<< 128 := by
    rw [hshift]
    exact (Nat.pow_le_pow_right two_pos (by decide)).trans (Nat.le_mul_of_pos_left _ hpos)
  have hval : finValue m e = (evenMant m e <<< 128 : Nat) * 2 ^ (2 * (halfExp e - 64)) := by
    rw [finValue_even, hshift, mul_sub, zpow_sub₀ two_ne_zero]
    push_cast
    field_simp
    norm_cast
  rw [fsqrtPat_fin h hm, hval]
  refine roundF_root hbig le_rfl (lt_add_one _) ?_ _ mode
  rw [decide_eq_true_eq, eq_comm]
  exact_mod_cast Iff.rfl

theorem frsqPat_rounded {a m : Nat} {e : Int} (h : dec .f32 a = .fin false m e) (hm : m ≠ 0) (hsmall : m < 2 ^ 24) (mode : Rnd) :
    RoundedReal .f32 mode false (frsqPat a mode) (2 * √(1 / finValue m e) * 2 ^ 149) := by
  obtain ⟨hpos, hle⟩ := evenMant_bounds hm e
  obtain ⟨d, hd⟩ : ∃ d, d = evenMant m e := ⟨_, rfl⟩
  rw [← hd] at hpos hle
  have hpos' : (0 : ℝ) < d := by exact_mod_cast hpos
  have hbig : 2 ^ 48 ≤ 2 ^ 256 / d := by
    rw [Nat.le_div_iff_mul_le hpos]
    calc 2 ^ 48 * d ≤ 2 ^ 48 * 2 ^ 25 := Nat.mul_le_mul_left _ (by omega)
      _ ≤ 2 ^ 256 := by decide
  have hlo : ((2 ^ 256 / d : Nat) : ℝ) ≤ 2 ^ 256 / d := by
    rw [le_div_iff₀ hpos']
    exact_mod_cast Nat.div_mul_le_self (2 ^ 256) d
  have hhi : (2 ^ 256 / d : ℝ) < (2 ^ 256 / d : Nat) + 1 := by
    rw [div_lt_iff₀ hpos']
    exact_mod_cast (Nat.div_lt_iff_lt_mul hpos).1 (Nat.lt_succ_self (2 ^ 256 / d))
  have hval : 1 / finValue m e = (2 ^ 256 / d : ℝ) * 2 ^ (2 * (-halfExp e - 128)) := by
    rw [finValue_even, ← hd, mul_sub, zpow_sub₀ two_ne_zero, mul_neg, zpow_neg]
    field_simp
    norm_cast
  rw [frsqPat_fin h hm, ← hd, hval]
  refine roundF_root hbig hlo hhi ?_ _ mode
  rw [decide_eq_true_eq, div_eq_iff hpos'.ne', eq_comm]
  exact_mod_cast Iff.rfl

/-! ### The statement's brackets -/

theorem fdivPat_fin {x y : FVal} {a b : Bool} {m m' : Nat} {e e' : Int} (hx : x = .fin a m e) (hy : y = .fin b m' e') (hm : m ≠ 0)
    (hm' : m' ≠ 0) (mode : Rnd) : fdivPat x y mode = roundF (divFin (a != b) m e m' e') .f32 mode false := by
  subst hx hy
  exact (if_neg hm').trans (if_neg hm)

/-- Comparing with twice a root is comparing squares. -/
theorem le_two_sqrt_iff {y d : ℝ} (hy : 0 ≤ y) (hd : 0 ≤ d) (c : Nat) :
    ((c : ℝ) ≤ 2 * √y * d ↔ (c : ℝ) ^ 2 ≤ 4 * y * d ^ 2) ∧ (2 * √y * d ≤ c ↔ 4 * y * d ^ 2 ≤ (c : ℝ) ^ 2) := by
  have hsq : (2 * √y * d) ^ 2 = 4 * y * d ^ 2 := by
    rw [mul_pow, mul_pow, Real.sq_sqrt hy]
    ring
  have h0 : 0 ≤ 2 * √y * d := by positivity
  rw [← hsq, sq_le_sq₀ c.cast_nonneg h0, sq_le_sq₀ h0 c.cast_nonneg]
  exact ⟨Iff.rfl, Iff.rfl⟩

section
variable {x y : Nat} (hx : 1 ≤ x) (hx' : x ≤ Fmt.f32.max) (mode : Rnd)
include hx hx'

theorem fdivPat_roundedOnce (hy : 1 ≤ y) (hy' : y ≤ Fmt.f32.max) (a b : Bool) :
    ∃ p, fdivPat (dec .f32 (withSign .f32 a x)) (dec .f32 (withSign .f32 b y)) mode = withSign .f32 (a != b) p
      ∧ RoundedOnce .f32 mode (a != b) p (fun c => c * magnitude .f32 y ≤ 2 * magnitude .f32 x * 2 ^ 149)
        (fun c => 2 * magnitude .f32 x * 2 ^ 149 ≤ c * magnitude .f32 y) := by
  have hm := significand_pos (f := .f32) hx
  have hm' := significand_pos (f := .f32) hy
  obtain ⟨p, hp, hr⟩ := roundF_divFin hm hm' (a != b) (f32Exp x) (f32Exp y) mode
  have hw : (0 : ℝ) < magnitude .f32 y := by exact_mod_cast magnitude_pos hy
  have hv : 2 * (finValue (significand .f32 x) (f32Exp x) / finValue (significand .f32 y) (f32Exp y)) * 2 ^ 149
      = 2 * magnitude .f32 x * 2 ^ 149 / magnitude .f32 y := by
    rw [finValue_f32, finValue_f32, div_div_div_cancel_right₀ (by positivity)]
    ring
  rw [hv] at hr
  refine ⟨p, (fdivPat_fin (dec_f32 hx' a) (dec_f32 hy' b) hm hm' mode).trans hp, hr.roundedOnce (fun c => ?_) (fun c => ?_)⟩
  · rw [le_div_iff₀ hw]
    exact_mod_cast Iff.rfl
  · rw [div_le_iff₀ hw]
    exact_mod_cast Iff.rfl

theorem frcpPat_roundedOnce (a : Bool) :
    ∃ p, fdivPat .one (dec .f32 (withSign .f32 a x)) mode = withSign .f32 a p
      ∧ RoundedOnce .f32 mode a p (fun c => c * magnitude .f32 x ≤ 2 * 2 ^ 298) (fun c => 2 * 2 ^ 298 ≤ c * magnitude .f32 x) := by
  have hm := significand_pos (f := .f32) hx
  obtain ⟨p, hp, hr⟩ := roundF_divFin Nat.one_ne_zero hm a 0 (f32Exp x) mode
  have hw : (0 : ℝ) < magnitude .f32 x := by exact_mod_cast magnitude_pos hx
  have hv : 2 * (finValue 1 0 / finValue (significand .f32 x) (f32Exp x)) * 2 ^ 149 = 2 * 2 ^ 298 / magnitude .f32 x := by
    rw [finValue_f32, finValue, zpow_zero, Nat.cast_one, one_mul, one_div_div, pow_mul (2 : ℝ) 149 2]
    ring
  rw [hv] at hr
  refine ⟨p, ?_, hr.roundedOnce (fun c => ?_) (fun c => ?_)⟩
  · have hdiv := fdivPat_fin (x := .one) rfl (dec_f32 hx' a) Nat.one_ne_zero hm mode
    rwa [Bool.false_bne, hp] at hdiv
  · rw [le_div_iff₀ hw]
    exact_mod_cast Iff.rfl
  · rw [div_le_iff₀ hw]
    exact_mod_cast Iff.rfl

theorem fsqrtPat_roundedOnce :
    RoundedOnce .f32 mode false (fsqrtPat x mode) (fun c => c ^ 2 ≤ 4 * magnitude .f32 x * 2 ^ 149)
      (fun c => 4 * magnitude .f32 x * 2 ^ 149 ≤ c ^ 2) := by
  have hdec := dec_f32 hx' false
  rw [withSign_false] at hdec
  have hr := fsqrtPat_rounded hdec (significand_pos hx) mode
  have hv : 4 * (magnitude .f32 x / 2 ^ 149 : ℝ) * (2 ^ 149) ^ 2 = 4 * magnitude .f32 x * 2 ^ 149 := by field_simp
  rw [finValue_f32] at hr
  have hc := le_two_sqrt_iff (y := magnitude .f32 x / 2 ^ 149) (d := 2 ^ 149) (by positivity) (by positivity)
  rw [hv] at hc
  refine hr.roundedOnce (fun c => (hc c).1.trans ?_) (fun c => (hc c).2.trans ?_) <;> exact_mod_cast Iff.rfl

theorem frsqPat_roundedOnce :
    RoundedOnce .f32 mode false (frsqPat x mode) (fun c => c ^ 2 * magnitude .f32 x ≤ 4 * 2 ^ 447)
      (fun c => 4 * 2 ^ 447 ≤ c ^ 2 * magnitude .f32 x) := by
  have hdec := dec_f32 hx' false
  rw [withSign_false] at hdec
  have hr := frsqPat_rounded hdec (significand_pos hx) (significand_lt .f32 x) mode
  have hw : (0 : ℝ) < magnitude .f32 x := by exact_mod_cast magnitude_pos hx
  have hv : 4 * (1 / (magnitude .f32 x / 2 ^ 149) : ℝ) * (2 ^ 149) ^ 2 = 4 * 2 ^ 447 / magnitude .f32 x := by
    rw [pow_mul (2 : ℝ) 149 3, one_div_div]
    ring
  rw [finValue_f32] at hr
  have hc := le_two_sqrt_iff (y := 1 / (magnitude .f32 x / 2 ^ 149)) (d := 2 ^ 149) (by positivity) (by positivity)
  rw [hv] at hc
  refine hr.roundedOnce (fun c => (hc c).1.trans ?_) (fun c => (hc c).2.trans ?_)
  · rw [le_div_iff₀ hw]
    exact_mod_cast Iff.rfl
  · rw [div_le_iff₀ hw]
    exact_mod_cast Iff.rfl

end

/-- Settles O10: a pattern's significand stands on the grid that it is rounded on (`roundF_dec`); a rounded value is the integer that the
mode chooses at its binade, within the format (`roundF_of_sameSide`); and a quotient or a root truncated with a sticky bit is on the exact
one's side of every such integer (`roundF_sticky`). -/
theorem roundingKeepsPatterns : Obligations.RoundingKeepsPatterns := by
  unfold Obligations.RoundingKeepsPatterns
  refine ⟨fun f x m hf hx hn => roundF_dec (Fmt.regular_of_mem hf) m hx hn, fun f neg m e mode hf hm => ?_,
    fun x y a b mode hx hx' hy hy' => ?_⟩
  · obtain ⟨hreg, hinf⟩ := Fmt.inf_of_mem hf
    exact roundF_roundedOnce hreg hinf hm neg e mode
  · exact ⟨fdivPat_roundedOnce hx hx' mode hy hy' a b, frcpPat_roundedOnce hx hx' mode a, fsqrtPat_roundedOnce hx hx' mode,
      frsqPat_roundedOnce hx hx' mode⟩

end Sys2Proof.Machine
end

section
/-! SUPPORT. Instructions that compute one result: the effect of one that writes it, and the same effect with the result written another
way (R61, R99). -/

namespace Sys2Proof.Machine

open Sys2Proof

variable {i : Instr} {op : Nat} {f : Form} {d a b : Allow} {x : Option Allow} {ok : Ctx → Prop} {extra : Ctx → Bool}

/-- Results that are equal wherever the instruction issues. -/
theorem Effects.congr_writes {ws ws' : Ctx → List Write} (h : Effects i op f d a b x ok (Computes ws))
    (hw : ∀ c, c.form = f → c.operandsOk op d a b x = true → ws c = ws' c) : Effects i op f d a b x ok (Computes ws') := by
  intro s c hc hok
  obtain ⟨t, ht, hpost⟩ := h s c hc hok
  obtain ⟨hctx, hops, -⟩ := State.issued_iff.1 hc
  refine ⟨t, ht, ?_⟩
  rw [Computes, ← hw c (State.context_found hctx).form hops]
  exact hpost

theorem Effects.congr_val {dest : Operand} {wide : Bool} {val val' : Ctx → Nat → Nat}
    (h : Effects i op f d a b x ok (Computes fun c => [⟨dest, wide, val c⟩]))
    (hv : ∀ c, c.form = f → c.operandsOk op d a b x = true → ∀ l, val c l = val' c l) :
    Effects i op f d a b x ok (Computes fun c => [⟨dest, wide, val' c⟩]) :=
  h.congr_writes fun c hf hops => by rw [funext (hv c hf hops)]

/-- An instruction that writes one result, wherever its operands are legal. -/
theorem effects_write_of_legal {dest : Operand} {wide : Bool} {val : Ctx → Nat → Nat}
    (hi : ∀ (s : State) (c : Ctx), c.form = f → c.operandsOk op d a b x = true →
      exec i s = issueInstr op f s d a b x extra (fun c => .done (c.write c.st dest wide (val c))))
    (he : ∀ c, c.form = f → ok c → extra c = true) : Effects i op f d a b x ok (Computes fun c => [⟨dest, wide, val c⟩]) :=
  effects_one hi he (fun _ _ _ => rfl)

theorem effects_write {dest : Operand} {wide : Bool} {val : Ctx → Nat → Nat}
    (hi : ∀ s, exec i s = issueInstr op f s d a b x extra (fun c => .done (c.write c.st dest wide (val c))))
    (he : ∀ c, c.form = f → ok c → extra c = true) : Effects i op f d a b x ok (Computes fun c => [⟨dest, wide, val c⟩]) :=
  effects_write_of_legal (fun s _ _ _ => hi s) he

/-- An instruction that writes D with a result of its type, wherever its operands are legal. -/
theorem effects_writeTy_of_legal {val : Ctx → Nat → Nat}
    (hi : ∀ (s : State) (c : Ctx), c.form = f → c.operandsOk op d a b x = true →
      exec i s = issueInstr op f s d a b x extra (fun c => .done (c.writeTy c.st (val c))))
    (he : ∀ c, c.form = f → ok c → extra c = true) : Effects i op f d a b x ok (Computes fun c => [⟨f.d, wideTy f.ty, val c⟩]) :=
  effects_one hi he (fun _ hf _ => hf ▸ rfl)

theorem effects_writeTy {val : Ctx → Nat → Nat}
    (hi : ∀ s, exec i s = issueInstr op f s d a b x extra (fun c => .done (c.writeTy c.st (val c))))
    (he : ∀ c, c.form = f → ok c → extra c = true) : Effects i op f d a b x ok (Computes fun c => [⟨f.d, wideTy f.ty, val c⟩]) :=
  effects_writeTy_of_legal (fun s _ _ _ => hi s) he

/-- A result of a type of at most 32 bits takes one register. -/
theorem effects_writeTy_narrow {val : Ctx → Nat → Nat} (hty : wideTy f.ty = false)
    (hi : ∀ s, exec i s = issueInstr op f s d a b x extra (fun c => .done (c.writeTy c.st (val c))))
    (he : ∀ c, c.form = f → ok c → extra c = true) : Effects i op f d a b x ok (Computes fun c => [⟨f.d, false, val c⟩]) :=
  hty ▸ effects_writeTy hi he

end Sys2Proof.Machine
end

section
/-! SUPPORT. Legal operands, and the range of a source: what an operand reads as is a pattern of the width of the type (R49, R50, R51). -/

namespace Sys2Proof.Machine

open Sys2Proof

/-! ### Legal operands -/

theorem Ctx.operandsOk_iff {c : Ctx} {op : Nat} {d a b : Allow} {x : Option Allow} :
    c.operandsOk op d a b x = true ↔
      legalOperand c.firmware c.grp.cur (longAllowed op) d c.form.d = true
        ∧ legalOperand c.firmware c.grp.cur (longAllowed op) a c.form.a = true
        ∧ legalOperand c.firmware c.grp.cur (longAllowed op) b c.form.b = true
        ∧ (∀ k ∈ x, legalOperand c.firmware c.grp.cur (longThird op) k c.form.c = true)
        ∧ ¬ (c.form.a = .long ∧ c.form.b = .long) := by
  cases x <;> simp [Ctx.operandsOk, and_assoc, ← imp_iff_not_or]

section
variable {fw long : Bool} {cur : Allot} {a : Allow} {o : Operand}

theorem exists_p_of_legal_pred (h : legalOperand fw cur long .pred o = true) : ∃ n, o = .p n := by
  cases o <;> simp_all [legalOperand, Allow.pred]

theorem isPred_of_legal_pred (h : legalOperand fw cur long .pred o = true) : Operand.isPred o = true := by
  obtain ⟨n, rfl⟩ := exists_p_of_legal_pred h
  rfl

theorem not_isPred_of_legal (h : legalOperand fw cur long a o = true) (ha : a.p = false) : Operand.isPred o = false := by
  cases o with
  | p n => simp [legalOperand, ha] at h
  | _ => rfl

theorem eq_none_of_legal_unused (h : legalOperand fw cur long .unused o = true) : o = .none := by
  cases o <;> simp_all [legalOperand, Allow.unused]

end

/-- A result to a predicate and one to another register. -/
theorem Write.apart_pred {o : Operand} (ho : Operand.isPred o = false) (n : Nat) (wide wide' : Bool) (x y : Nat → Nat) :
    Write.Apart ⟨.p n, wide, x⟩ ⟨o, wide', y⟩ where
  v := fun _ _ h => absurd rfl h
  s := fun _ _ h => absurd rfl h
  p := fun _ _ _ => by
    cases o with
    | p => cases ho
    | _ => rfl
  g := fun _ _ h => absurd rfl h

/-! ### Rounded patterns (R82) -/

section
variable {f : Fmt} {neg sat : Bool} {mode : Rnd}

theorem withSign_lt {p : Nat} (hp : p < 2 ^ (f.ebits + f.fbits)) : withSign f neg p < 2 ^ f.width := by
  have hw : 2 ^ f.width = 2 * 2 ^ (f.ebits + f.fbits) := by rw [Fmt.width, Nat.add_assoc, Nat.add_comm, Nat.pow_succ']
  rw [withSign]
  split <;> omega

theorem infPat_lt (hf : f.Regular) (hn : f.nan < 2 ^ (f.ebits + f.fbits)) : infPat f neg < 2 ^ f.width := by
  unfold infPat
  split
  · rename_i hinf
    have h1 := hf.max_inf hinf
    have h2 := Nat.two_pow_pos f.fbits
    have h3 := Nat.mul_lt_mul_of_pos_right (Nat.sub_lt (Nat.two_pow_pos f.ebits) Nat.one_pos) h2
    exact withSign_lt (by rw [Nat.pow_add, h1]; exact h3)
  · have h := withSign_lt (f := f) (neg := false) hn
    rwa [withSign_false] at h

theorem withSign_max_lt (hf : f.Regular) : withSign f neg f.max < 2 ^ f.width :=
  withSign_lt (by rw [Nat.pow_add]; exact hf.max_lt)

theorem overflowPat_lt (hf : f.Regular) (hn : f.nan < 2 ^ (f.ebits + f.fbits)) : overflowPat f mode neg sat < 2 ^ f.width := by
  unfold overflowPat
  split
  · exact withSign_max_lt hf
  · exact infPat_lt hf hn

/-- Every rounded value is a pattern of the format. -/
theorem roundF_lt (hf : f.Regular) (hn : f.nan < 2 ^ (f.ebits + f.fbits)) (x : FVal) : roundF x f mode sat < 2 ^ f.width := by
  cases x with
  | nan =>
    have h := withSign_lt (f := f) (neg := false) hn
    rwa [withSign_false] at h
  | inf neg =>
    simp only [roundF]
    split
    · exact withSign_max_lt hf
    · exact infPat_lt hf hn
  | fin neg m e =>
    have hbound (p : Nat) : (if p > f.max then overflowPat f mode neg sat else withSign f neg p) < 2 ^ f.width := by
      split
      · exact overflowPat_lt hf hn
      · rename_i hp
        exact withSign_lt (by rw [Nat.pow_add]; exact (Nat.le_of_not_lt hp).trans_lt hf.max_lt)
    simp only [roundF]
    split
    · exact withSign_lt (Nat.two_pow_pos _)
    · split
      · exact overflowPat_lt hf hn
      · exact hbound _

end

/-! ### Sources (R50, R51) -/

theorem shortImm_lt (t : Ty) (k : BitVec 9) : shortImm t k < 2 ^ tyWidth t := by
  have hround (u : Ty) (hu : fmtOf u ∈ [Fmt.f32, .f16, .bf16, .f8e5, .f8e4, .e2m1])
      (hn : (fmtOf u).nan < 2 ^ ((fmtOf u).ebits + (fmtOf u).fbits)) (x : FVal) (sat : Bool) :
      roundF x (fmtOf u) .rn sat < 2 ^ (fmtOf u).width := roundF_lt (Fmt.regular_of_mem hu) hn x
  cases t with
  | f32 => exact hround .f32 (by decide) (by decide) _ _
  | f16 => exact hround .f16 (by decide) (by decide) _ _
  | bf16 => exact hround .bf16 (by decide) (by decide) _ _
  | f8e4 => exact hround .f8e4 (by decide) (by decide) _ _
  | f8e5 => exact hround .f8e5 (by decide) (by decide) _ _
  | _ => exact wrapInt_lt _ _

theorem longImm_lt (t : Ty) (imm : BitVec 32) : longImm t imm < 2 ^ tyWidth t := by
  cases t with
  | b64 | s64 => exact wrapInt_lt _ _
  | n64 => exact imm.isLt.trans (by decide)
  | b32 | s32 | n32 | f32 | slot => exact imm.isLt
  | _ => exact Nat.mod_lt _ (Nat.two_pow_pos _)

theorem pairOf_lt (lo hi : Word) : pairOf lo hi < 2 ^ 64 := by
  have := lo.isLt
  have := hi.isLt
  unfold pairOf
  omega

/-- A register or a pair as a pattern of a type. -/
theorem regPat_lt (t : Ty) (lo hi : Word) :
    (if tyWidth t = 64 then pairOf lo hi else lo.toNat % 2 ^ tyWidth t) < 2 ^ tyWidth t := by
  split
  · rename_i h
    rw [h]
    exact pairOf_lt lo hi
  · exact Nat.mod_lt _ (Nat.two_pow_pos _)

theorem Ctx.read_lt (c : Ctx) (slot : Nat) (t : Ty) (o : Operand) (l : Nat) : c.read slot t o l < 2 ^ tyWidth t := by
  have hone : 1 < 2 ^ tyWidth t := by cases t <;> decide
  cases o with
  | v i | s i | g i => exact regPat_lt t _ _
  | p i =>
    simp only [Ctx.read]
    split <;> omega
  | imm k => exact shortImm_lt t k
  | long => exact longImm_lt t _
  | sys i => exact Nat.mod_lt _ (Nat.two_pow_pos _)
  | _ => exact Nat.two_pow_pos _

/-- A predicate reads as 0 or 1. -/
theorem Ctx.read_p (c : Ctx) (slot : Nat) (t : Ty) {o : Operand} (ho : Operand.isPred o = true) (l : Nat) :
    c.read slot t o l = 0 ∨ c.read slot t o l = 1 := by
  cases o with
  | p i =>
    simp only [Ctx.read]
    split
    · exact .inr rfl
    · exact .inl rfl
  | _ => cases ho

/-- A 32-bit source is the same pattern as S32 and as N32. -/
theorem Ctx.read_s32 (c : Ctx) (slot : Nat) (o : Operand) (l : Nat) : c.read slot .s32 o l = c.read slot .n32 o l := by
  cases o <;> rfl

end Sys2Proof.Machine
end

section
/-! PROOF. O1 (`Obligations.IntegerArithmetic`): the two shapes of R103, and what each function computes. -/

namespace Sys2Proof.Machine

open Sys2Proof

section
variable {i : Instr} {op : Nat} {f : Form}

theorem effects_arith2 (fn : Int → Int → Int) (hi : ∀ s, exec i s = arith2 op f s fn) :
    Effects i op f (.dst (wideTy f.ty)) (.src (wideTy f.ty)) (.src (wideTy f.ty)) none (fun _ => True)
      (Computes fun c => [⟨f.d, wideTy f.ty, fun l =>
        wrapInt (if f.var = 1#4 then satInt (fn (c.intA f l) (c.intB f l)) f.ty else fn (c.intA f l) (c.intB f l)) (tyWidth f.ty)⟩]) :=
  effects_writeTy hi (fun _ _ _ => rfl)

/-- Without .SAT the exact result is wrapped. -/
theorem effects_arith2_wrap (fn : Int → Int → Int) (hi : ∀ s, exec i s = arith2 op f s fn) (hvar : f.var = 0#4) :
    Effects i op f (.dst (wideTy f.ty)) (.src (wideTy f.ty)) (.src (wideTy f.ty)) none (fun _ => True)
      (Computes fun c => [⟨f.d, wideTy f.ty, fun l => wrapInt (fn (c.intA f l) (c.intB f l)) (tyWidth f.ty)⟩]) :=
  (effects_arith2 fn hi).congr_val fun _ _ _ _ => by rw [if_neg (by rw [hvar]; decide)]

theorem effects_arith3 (fn : Int → Int → Int → Int) (hi : ∀ s, exec i s = arith3 op f s fn) :
    Effects i op f (.dst (wideTy f.ty)) (.src (wideTy f.ty)) (.src (wideTy f.ty)) (some (.src (wideTy f.ty))) (fun _ => True)
      (Computes fun c => [⟨f.d, wideTy f.ty, fun l => wrapInt (fn (c.intA f l) (c.intB f l) (c.intC f l)) (tyWidth f.ty)⟩]) :=
  effects_writeTy hi (fun _ _ _ => rfl)

theorem fdiv_two_pow (x : Int) (n : Nat) : x.fdiv (2 ^ n) = x / 2 ^ n :=
  Int.fdiv_eq_ediv_of_nonneg x (by positivity)

end

/-- Settles O1: each instruction is `arith2` or `arith3` of its function (`effects_arith2_wrap` where it has no .SAT), and IABS has one
source. -/
theorem integerArithmetic : Obligations.IntegerArithmetic := by
  unfold Obligations.IntegerArithmetic
  intro f w n sat two three
  refine ⟨effects_arith2 (fun a b => a + b) fun _ => rfl, effects_arith2 (fun a b => a - b) fun _ => rfl,
    effects_arith2_wrap (fun a b => a * b) fun _ => rfl, fun hvar => ?imulh, effects_arith3 (fun a b c => a * b + c) fun _ => rfl,
    effects_arith2_wrap (divide f.ty) fun _ => rfl, effects_arith2_wrap remainder fun _ => rfl, effects_arith2_wrap min fun _ => rfl,
    effects_arith2_wrap max fun _ => rfl, effects_writeTy (fun _ => rfl) (fun _ _ _ => rfl),
    effects_arith3 (fun a b c => (a - b).natAbs + c) fun _ => rfl⟩
  case imulh =>
    have hfdiv := effects_arith2_wrap (i := .imulh f) (fun a b => (a * b).fdiv (2 ^ tyWidth f.ty)) (fun _ => rfl) hvar
    exact hfdiv.congr_val fun c _ _ l => by rw [fdiv_two_pow]

end Sys2Proof.Machine
end

section
/-! PROOF. O2 (`Obligations.CarryCompareSelect`): the predicate that IADDC and the compares write, and a third operand that is refused. -/

namespace Sys2Proof.Machine

open Sys2Proof

/-- Bit 3 of VAR, as the model tests it. -/
theorem getLsbD_three (v : BitVec 4) : v.getLsbD 3 = decide (8 ≤ v.toNat) := by
  revert v
  decide

theorem accumulate_eq (acc old t : Bool) : accumulate acc old t = (t && (!acc || old)) := by
  cases acc <;> simp [accumulate]

/-- An instruction with an illegal operand has the illegal-operand fault, whatever its guard (R61). -/
theorem issueInstr_illegal {s : State} {op : Nat} {f : Form} {d a b : Allow} {x : Option Allow} {c : Ctx} {extra : Ctx → Bool}
    {body : Ctx → Res} (h : s.context f = some c) (hops : c.operandsOk op d a b x = false) :
    issueInstr op f s d a b x extra body = .next (c.st.raiseFault c.grp.id c.wave.id codeOperand c.path.pc) := by
  simp [issueInstr, h, hops]

theorem thirdNone_of_imm {f : Form} (ha : f.a ≠ .long) (hb : f.b ≠ .long) (himm : f.imm ≠ 0#32) : thirdNone f = some .unused := by
  simp [thirdNone, Form.hasLong, ha, hb, himm]

/-- An operand other than none in a field that the form does not use (R61). -/
theorem operandsOk_third_unused {c : Ctx} {op : Nat} {d a b : Allow} (hc : c.form.c ≠ .none) :
    c.operandsOk op d a b (some .unused) = false := by
  rw [← Bool.not_eq_true, Ctx.operandsOk_iff]
  rintro ⟨-, -, -, hthird, -⟩
  exact hc (eq_none_of_legal_unused (hthird _ rfl))

/-- The sum goes to D and the carry to the predicate in C, two different registers. -/
theorem effects_iaddc (f : Form) :
    Effects (.iaddc f) 0x22 f (.dst (wideTy f.ty)) (.src (wideTy f.ty)) (.src (wideTy f.ty)) (some .pred) (fun _ => True)
      (Computes fun c =>
        let r := fun l => addCarry (tyWidth f.ty) (8 ≤ f.var.toNat) (c.patA f l) (c.patB f l) (c.predC f l)
        [⟨f.d, wideTy f.ty, fun l => (r l).1⟩, ⟨f.c, false, fun l => bitNat (r l).2⟩]) := by
  refine effects_writes
    (body := fun c =>
      let r := fun l => addCarry (tyWidth f.ty) (8 ≤ f.var.toNat) (c.patA f l) (c.patB f l) (c.predC f l)
      .done (c.write (c.writeTy c.st fun l => (r l).1) f.c false fun l => bitNat (r l).2))
    (fun _ _ _ _ => rfl) (fun _ _ _ => rfl) (fun c hf _ => by subst hf; rfl) (fun c hf hops => ?_)
  obtain ⟨hd, -, -, hthird, -⟩ := Ctx.operandsOk_iff.1 hops
  obtain ⟨n, hn⟩ := exists_p_of_legal_pred (hthird _ rfl)
  have hd' := not_isPred_of_legal hd rfl
  rw [hf] at hn hd'
  rw [List.pairwise_pair, hn]
  exact Write.apart_pred hd' ..

theorem effects_isetp (f : Form) :
    Effects (.isetp f) 0x2D f .pred (.src (wideTy f.ty)) (.src (wideTy f.ty)) (thirdNone f) (fun _ => True)
      (Computes fun c => [⟨f.d, false, fun l =>
        bitNat (accumulate (8 ≤ f.var.toNat) (c.predD f l) (icompare (f.var.toNat % 8) (c.intA f l) (c.intB f l)))⟩]) :=
  effects_write (fun _ => rfl) (fun _ _ _ => rfl)

theorem isetp_third_illegal {f : Form} {s : State} {c : Ctx} (ha : f.a ≠ .long) (hb : f.b ≠ .long) (himm : f.imm ≠ 0#32)
    (hc : f.c ≠ .none) (h : s.context f = some c) : ∃ t, exec (.isetp f) s = .next t ∧ Faults codeOperand s c t := by
  have hops : c.operandsOk 0x2D .pred (.src (wideTy f.ty)) (.src (wideTy f.ty)) (thirdNone f) = false := by
    rw [thirdNone_of_imm ha hb himm]
    exact operandsOk_third_unused ((State.context_found h).form ▸ hc)
  have hexec : execIsetp f s = .next (c.st.raiseFault c.grp.id c.wave.id codeOperand c.path.pc) := by
    rw [execIsetp]
    exact issueInstr_illegal h hops
  exact ⟨_, hexec, faults_raiseFault h (by decide)⟩

theorem effects_isel (f : Form) :
    Effects (.isel f) 0x2E f (.dst (wideTy f.ty)) (.src (wideTy f.ty)) (.src (wideTy f.ty)) (some .pred) (fun _ => True)
      (Computes fun c => [⟨f.d, wideTy f.ty, fun l => if c.read 3 .b32 f.c l = 1 then c.patA f l else c.patB f l⟩]) :=
  effects_writeTy (fun _ => rfl) (fun _ _ _ => rfl)

theorem effects_lea (f : Form) :
    Effects (.lea f) 0x2F f (.dst (wideTy f.ty)) (.src (wideTy f.ty)) (.src false) none (fun _ => True)
      (Computes fun c => [⟨f.d, wideTy f.ty, fun l =>
        wrapInt (c.patA f l + (if 8 ≤ f.var.toNat then c.readInt 2 .s32 f.b l else c.smallB f l) * 2 ^ (f.var.toNat % 8))
          (tyWidth f.ty)⟩]) :=
  effects_writeTy (fun _ => rfl) (fun _ _ _ => rfl)

/-- A 32-bit source read by sx (R98). -/
theorem Ctx.readInt_s32 (c : Ctx) (slot : Nat) (o : Operand) (l : Nat) : c.readInt slot .s32 o l = sx (c.read slot .n32 o l) 32 := by
  rw [Ctx.readInt, Ctx.read_s32]
  rfl

/-- Settles O2: the carry of `addCarry` and the condition of `accumulate` are the stated ones, and a third operand of ISETP is not legal. -/
theorem carryCompareSelect : Obligations.CarryCompareSelect := by
  unfold Obligations.CarryCompareSelect
  intro f w n sum cond
  refine ⟨?iaddc, effects_write (fun _ => rfl) (fun _ _ _ => rfl), fun _ => ?isetp, fun ha hb himm hc s c hctx => ?third,
    ?isel, ?lea⟩
  case iaddc =>
    refine (effects_iaddc f).congr_writes fun c _ _ => ?_
    simp only [sum, getLsbD_three]
    rfl
  case isetp =>
    refine (effects_isetp f).congr_val fun c _ _ l => ?_
    rw [accumulate_eq, getLsbD_three]
    rfl
  case third => exact isetp_third_illegal ha hb himm hc hctx
  case isel => exact (effects_isel f).congr_val fun c _ _ l => by simp only [Ctx.predC, decide_eq_true_eq]
  case lea =>
    refine (effects_lea f).congr_val fun c _ _ l => ?_
    rw [getLsbD_three, Ctx.readInt_s32]
    simp only [decide_eq_true_eq]
    rfl

end Sys2Proof.Machine
end

section
/-! PROOF. O3 (`Obligations.BitwiseLogic`): logic on registers and on predicates, which the operands tell apart. -/

namespace Sys2Proof.Machine

open Sys2Proof

variable {f : Form} {s : State}

/-! ### AND, OR and XOR -/

theorem logic2_registers (op k : Nat) (fn : Nat → Nat → Nat) (hd : Operand.isPred f.d = false) (ha : Operand.isPred f.a = false)
    (hb : Operand.isPred f.b = false) :
    logic2 op k f s fn = issueInstr op f s (.dst (wideTy f.ty)) (.src (wideTy f.ty)) (.src (wideTy f.ty)) none (fun _ => true)
      (fun c => .done (c.writeTy c.st fun l => fn (c.patA f l) (c.patB f l))) := by
  rw [logic2, if_neg (by simp [hd, ha, hb])]
  rfl

theorem logic2_predicates (op k : Nat) (fn : Nat → Nat → Nat) (hty : f.ty = .b32) (hd : Operand.isPred f.d = true) :
    logic2 op k f s fn = issueInstr op f s .pred .pred .pred none (fun _ => true)
      (fun c => .done (c.write c.st f.d false fun l => bitNat (logicBit k (c.predA f l) (c.predB f l)))) := by
  rw [logic2, if_pos (by simp [hty, hd])]
  rfl

theorem effects_logic2 {i : Instr} {op k : Nat} {fn : Nat → Nat → Nat} (hi : ∀ s, exec i s = logic2 op k f s fn) :
    Effects i op f (.dst (wideTy f.ty)) (.src (wideTy f.ty)) (.src (wideTy f.ty)) none (fun _ => True)
      (Computes fun c => [⟨f.d, wideTy f.ty, fun l => fn (c.patA f l) (c.patB f l)⟩]) := by
  refine effects_writeTy_of_legal (fun s c hf hops => ?_) (fun _ _ _ => rfl)
  obtain ⟨hd, ha, hb, -⟩ := Ctx.operandsOk_iff.1 hops
  rw [hf] at hd ha hb
  exact (hi s).trans (logic2_registers op k fn (not_isPred_of_legal hd rfl) (not_isPred_of_legal ha rfl) (not_isPred_of_legal hb rfl))

theorem effects_logic2_pred {i : Instr} {op k : Nat} {fn : Nat → Nat → Nat} (hi : ∀ s, exec i s = logic2 op k f s fn)
    (hty : f.ty = .b32) :
    Effects i op f .pred .pred .pred none (fun _ => True)
      (Computes fun c => [⟨f.d, false, fun l => bitNat (logicBit k (c.predA f l) (c.predB f l))⟩]) := by
  refine effects_write_of_legal (fun s c hf hops => ?_) (fun _ _ _ => rfl)
  obtain ⟨hd, -⟩ := Ctx.operandsOk_iff.1 hops
  exact (hi s).trans (logic2_predicates op k fn hty (hf ▸ isPred_of_legal_pred hd))

/-! ### NOT -/

theorem execNot_registers (hd : Operand.isPred f.d = false) (ha : Operand.isPred f.a = false) :
    execNot f s = issueInstr 0x33 f s (.dst (wideTy f.ty)) (.src (wideTy f.ty)) .unused none (fun _ => true)
      (fun c => .done (c.writeTy c.st fun l => 2 ^ tyWidth f.ty - 1 - c.patA f l)) := by
  rw [execNot, if_neg (by simp [hd, ha])]
  rfl

theorem execNot_predicates (hty : f.ty = .b32) (hd : Operand.isPred f.d = true) :
    execNot f s = issueInstr 0x33 f s .pred .pred .unused none (fun _ => true)
      (fun c => .done (c.write c.st f.d false fun l => 1 - c.read 1 .b32 f.a l)) := by
  rw [execNot, if_pos (by simp [hty, hd])]

theorem effects_not (f : Form) :
    Effects (.not f) 0x33 f (.dst (wideTy f.ty)) (.src (wideTy f.ty)) .unused none (fun _ => True)
      (Computes fun c => [⟨f.d, wideTy f.ty, fun l => 2 ^ tyWidth f.ty - 1 - c.patA f l⟩]) := by
  refine effects_writeTy_of_legal (fun s c hf hops => ?_) (fun _ _ _ => rfl)
  obtain ⟨hd, ha, -⟩ := Ctx.operandsOk_iff.1 hops
  rw [hf] at hd ha
  exact execNot_registers (not_isPred_of_legal hd rfl) (not_isPred_of_legal ha rfl)

theorem effects_not_pred (hty : f.ty = .b32) :
    Effects (.not f) 0x33 f .pred .pred .unused none (fun _ => True)
      (Computes fun c => [⟨f.d, false, fun l => bitNat (!c.predA f l)⟩]) := by
  have hsub : Effects (.not f) 0x33 f .pred .pred .unused none (fun _ => True)
      (Computes fun c => [⟨f.d, false, fun l => 1 - c.read 1 .b32 f.a l⟩]) := by
    refine effects_write_of_legal (fun s c hf hops => ?_) (fun _ _ _ => rfl)
    obtain ⟨hd, -⟩ := Ctx.operandsOk_iff.1 hops
    exact execNot_predicates hty (hf ▸ isPred_of_legal_pred hd)
  refine hsub.congr_val fun c hf hops l => ?_
  obtain ⟨-, ha, -⟩ := Ctx.operandsOk_iff.1 hops
  rcases c.read_p 1 .b32 (hf ▸ isPred_of_legal_pred ha) l with h | h <;> simp [Ctx.predA, h, bitNat]

/-! ### LOP3 -/

theorem lop3_index (a b d : Bool) :
    (if a then 1 else 0) + (if b then 2 else 0) + (if d then 4 else 0) = bitNat a + 2 * bitNat b + 4 * bitNat d := by
  cases a <;> cases b <;> cases d <;> rfl

theorem effects_lop3 (f : Form) :
    Effects (.lop3 f) 0x34 f (.reg (wideTy f.ty)) (.src (wideTy f.ty)) (.src (wideTy f.ty)) none (fun _ => True)
      (Computes fun c => [⟨f.d, wideTy f.ty, fun l => lop3 f.imm.toNat (tyWidth f.ty) (c.patA f l) (c.patB f l) (c.patD f l)⟩]) :=
  effects_writeTy (fun _ => rfl) (fun _ _ _ => rfl)

/-- Settles O3: legal operands decide between registers and predicates (`effects_logic2`, `effects_logic2_pred`), and the index into the
table of LOP3 is the stated one. -/
theorem bitwiseLogic : Obligations.BitwiseLogic := by
  unfold Obligations.BitwiseLogic
  intro f w n two
  refine ⟨⟨effects_logic2 fun _ => rfl, effects_logic2_pred (k := 0) fun _ => rfl⟩,
    ⟨effects_logic2 fun _ => rfl, effects_logic2_pred (k := 1) fun _ => rfl⟩,
    ⟨effects_logic2 fun _ => rfl, effects_logic2_pred (k := 2) fun _ => rfl⟩, effects_not f, effects_not_pred, ?lop3⟩
  case lop3 => exact (effects_lop3 f).congr_val fun c _ _ l => by rw [lop3]; simp only [lop3_index]; rfl

end Sys2Proof.Machine
end

section
/-! PROOF. O4 (`Obligations.ShiftsAndFields`): a shift amount held at 64, which is at least every width (R112). -/

namespace Sys2Proof.Machine

open Sys2Proof

/-! ### An amount of the width or more -/

theorem tyWidth_le_64 (t : Ty) : tyWidth t ≤ 64 := by
  rcases tyWidth_le t with h | h <;> omega

theorem sx_bounds (x w : Nat) : -(2 ^ w : Int) ≤ sx x w ∧ sx x w < 2 ^ w := by
  have h : ((x % 2 ^ w : Nat) : Int) < 2 ^ w := by exact_mod_cast Nat.mod_lt x (Nat.two_pow_pos w)
  simp only [sx]
  split <;> omega

section
variable {n : Nat} (hn : n ≤ 64)
include hn

theorem min_64_eq_or_le (k : Nat) : min k 64 = k ∨ n ≤ min k 64 ∧ n ≤ k := by
  omega

theorem shl_min (a k : Nat) : a * 2 ^ min k 64 % 2 ^ n = a * 2 ^ k % 2 ^ n := by
  rcases min_64_eq_or_le hn k with h | ⟨hmin, hk⟩
  · rw [h]
  · have hzero (j : Nat) (hj : n ≤ j) : a * 2 ^ j % 2 ^ n = 0 :=
      Nat.mod_eq_zero_of_dvd ((Nat.pow_dvd_pow 2 hj).mul_left a)
    rw [hzero _ hmin, hzero k hk]

theorem shr_min {a : Nat} (ha : a < 2 ^ n) (k : Nat) : a / 2 ^ min k 64 = a / 2 ^ k := by
  rcases min_64_eq_or_le hn k with h | ⟨hmin, hk⟩
  · rw [h]
  · have hzero (j : Nat) (hj : n ≤ j) : a / 2 ^ j = 0 := Nat.div_eq_of_lt (ha.trans_le (Nat.pow_le_pow_right two_pos hj))
    rw [hzero _ hmin, hzero k hk]

/-- An arithmetic shift by the width or more leaves copies of the sign. -/
theorem shra_min (a k : Nat) : sx a n / 2 ^ min k 64 = sx a n / 2 ^ k := by
  rcases min_64_eq_or_le hn k with h | ⟨hmin, hk⟩
  · rw [h]
  · obtain ⟨hlo, hhi⟩ := sx_bounds a n
    have hsign (j : Nat) (hj : n ≤ j) : sx a n / 2 ^ j = if 0 ≤ sx a n then 0 else -1 := by
      have hle : (2 ^ n : Int) ≤ 2 ^ j := pow_le_pow_right₀ one_le_two hj
      split
      · rename_i hpos
        exact Int.ediv_eq_zero_of_lt hpos (hhi.trans_le hle)
      · rw [Int.ediv_eq_iff_of_pos (by positivity)]
        omega
    rw [hsign _ hmin, hsign k hk]

end

/-! ### What each instruction computes -/

section
variable {i : Instr} {op : Nat} {f : Form}

theorem effects_shift (fn : Nat → Nat → Nat) (hi : ∀ s, exec i s = shift op f s fn) :
    Effects i op f (.dst (wideTy f.ty)) (.src (wideTy f.ty)) (.src false) none (fun _ => True)
      (Computes fun c => [⟨f.d, wideTy f.ty, fun l => fn (c.patA f l) (min (c.smallB f l) 64)⟩]) :=
  effects_writeTy hi (fun _ _ _ => rfl)

theorem effects_fshf (hty : f.ty = .b32) :
    Effects (.fshf f) 0x38 f (.dst false) (.src false) (.src false) (some (.src false)) (fun _ => True)
      (Computes fun c => [⟨f.d, false, fun l =>
        let t := c.patA f l * 2 ^ 32 + c.patB f l
        let k := min (c.smallC f l) 32
        (if f.var = 1#4 then t * 2 ^ k / 2 ^ 32 else t / 2 ^ k) % 2 ^ 32⟩]) := by
  simp only [Ctx.patA, Ctx.patB, hty]
  exact effects_writeTy_narrow (by rw [hty]; rfl) (fun _ => rfl) (fun _ _ _ => rfl)

theorem effects_bfx (f : Form) :
    Effects (.bfx f) 0x39 f (.dst (wideTy f.ty)) (.src (wideTy f.ty)) (.src false) (some (.src false)) (fun _ => True)
      (Computes fun c => [⟨f.d, wideTy f.ty, fun l => bfx f.ty (c.intA f l) (c.smallB f l) (c.smallC f l)⟩]) :=
  effects_writeTy (fun _ => rfl) (fun _ _ _ => rfl)

theorem effects_countBits (fn : Nat → Nat) (hi : ∀ s, exec i s = countBits op f s fn) :
    Effects i op f (.dst false) (.src (wideTy f.ty)) .unused none (fun _ => True)
      (Computes fun c => [⟨f.d, false, fun l => fn (c.patA f l)⟩]) :=
  effects_write hi (fun _ _ _ => rfl)

end

/-- Settles O4: an amount above 64 shifts everything out as 64 does (`shl_min`, `shr_min`, `shra_min`); the other functions are the stated
ones. -/
theorem shiftsAndFields : Obligations.ShiftsAndFields := by
  unfold Obligations.ShiftsAndFields
  intro f w n shift small
  have hn : n ≤ 64 := tyWidth_le_64 f.ty
  refine ⟨?shl, ?shr, ?shra, effects_fshf, ?bfx, effects_writeTy (fun _ => rfl) (fun _ _ _ => rfl),
    effects_countBits (popCount n) fun _ => rfl, effects_countBits (leadZeros n) fun _ => rfl,
    effects_writeTy (fun _ => rfl) (fun _ _ _ => rfl)⟩
  case shl => exact (effects_shift (fun a k => a * 2 ^ k % 2 ^ n) fun _ => rfl).congr_val fun c _ _ l => shl_min hn ..
  case shr => exact (effects_shift (fun a k => a / 2 ^ k) fun _ => rfl).congr_val fun c _ _ l => shr_min hn (c.read_lt ..) _
  case shra =>
    refine (effects_shift (fun a k => wrapInt ((sx a n).fdiv (2 ^ k)) n) fun _ => rfl).congr_val fun c _ _ l => ?_
    rw [fdiv_two_pow, shra_min hn]
  case bfx => exact (effects_bfx f).congr_val fun c _ _ l => by rw [bfx, fdiv_two_pow]

end Sys2Proof.Machine
end

section
/-! PROOF. O5 (`Obligations.MovesAndLanes`): the upper half that MOVI.HI writes, and WRLANE, which issues for fewer lanes than it writes
(R117, R121). -/

namespace Sys2Proof.Machine

open Sys2Proof

/-- Fewer lanes than those that issue find the same machine. -/
theorem Ctx.Found.withAct {c : Ctx} {s : State} {f : Form} (h : c.Found s f) (act : Mask) : ({ c with act := act } : Ctx).Found s f :=
  ⟨h.form, h.rest, h.groups, h.group, h.wave, h.path, h.tick⟩

theorem exists_v_of_legal_vreg {fw long wide : Bool} {cur : Allot} {o : Operand} (h : legalOperand fw cur long (.vreg wide) o = true) :
    ∃ n, o = .v n := by
  cases o <;> simp_all [legalOperand, Allow.vreg]

theorem execMovi_hi {f : Form} (h : f.var = 1#4) (s : State) :
    execMovi f s = issueInstr 0x3F f s (.reg true) { imm := true, long := true } .unused none (fun _ => true)
      (fun c => .done (c.write c.st (upperHalf f.d) false (fun l => c.read 1 .b32 f.a l))) := by
  rw [execMovi, if_pos h]
  rfl

theorem execMovi_lo {f : Form} (h : f.var = 0#4) (s : State) :
    execMovi f s = issueInstr 0x3F f s (.dst (wideTy f.ty)) { imm := true, long := true } .unused none (fun _ => true)
      (fun c => .done (c.writeTy c.st (fun l => c.read 1 f.ty f.a l))) := by
  rw [execMovi, if_neg (by rw [h]; decide)]

/-- The lane that WRLANE writes, if it is active, in the place of those that issue. -/
def Ctx.wrLane (c : Ctx) (f : Form) : Ctx := { c with act := c.act &&& laneBit (c.smallB f 0 % 64) }

theorem execWrlane_eq {f : Form} {s : State} {c : Ctx}
    (h : s.issued 0x42 f (.vreg (wideTy f.ty)) (.uni (wideTy f.ty)) (.uni false) = some c) :
    exec (.wrlane f) s = .next ((c.wrLane f).finish 0x42 true
      ((c.wrLane f).writes [⟨f.d, wideTy f.ty, fun _ => (c.wrLane f).patA f 0⟩] (c.wrLane f).st)) := by
  obtain rfl := (State.context_found (State.issued_iff.1 h).1).form
  change execWrlane c.form s = _
  rw [execWrlane]
  exact issueInstr_done (c := c) h rfl rfl

/-- WRLANE computes as an instruction that issues in one lane, or in none: its destination is a v register. -/
theorem wrlane_computes {f : Form} {s : State} {c : Ctx}
    (h : s.issued 0x42 f (.vreg (wideTy f.ty)) (.uni (wideTy f.ty)) (.uni false) = some c) :
    ∃ t, exec (.wrlane f) s = .next t ∧ Computes (fun c => [⟨f.d, wideTy f.ty, fun _ => c.patA f 0⟩]) s (c.wrLane f) t := by
  obtain ⟨hctx, hops, -⟩ := State.issued_iff.1 h
  obtain ⟨hd, -⟩ := Ctx.operandsOk_iff.1 hops
  have hf := State.context_found hctx
  have hv := exists_v_of_legal_vreg (hf.form ▸ hd)
  exact ⟨_, execWrlane_eq h, computes_finish (hf.withAct _) 0x42 _ (fun x hx => .inr (List.mem_singleton.1 hx ▸ hv))
    (Write.apart_nil _ le_rfl)⟩

theorem effects_prmt {f : Form} (hty : f.ty = .b32) :
    Effects (.prmt f) 0x44 f (.dst false) (.src false) (.src false) (some (.src false)) (fun _ => True)
      (Computes fun c => [⟨f.d, false, fun l => prmt (c.patA f l) (c.patB f l) (c.patC f l)⟩]) := by
  simp only [Ctx.patA, Ctx.patB, Ctx.patC, hty]
  exact effects_writeTy_narrow (by rw [hty]; rfl) (fun _ => rfl) (fun _ _ _ => rfl)

/-- Settles O5: MOVI by its two forms, WRLANE by `wrlane_computes`; the others write one result. -/
theorem movesAndLanes : Obligations.MovesAndLanes := by
  unfold Obligations.MovesAndLanes
  intro f w imm small
  refine ⟨effects_writeTy (fun _ => rfl) (fun _ _ _ => rfl), fun hvar => effects_writeTy (execMovi_lo hvar) (fun _ _ _ => rfl),
    fun hvar => effects_write (execMovi_hi hvar) (fun _ _ _ => rfl), effects_writeTy (fun _ => rfl) (fun _ _ _ => rfl),
    effects_writeTy (fun _ => rfl) (fun _ _ _ => rfl), fun _ _ => wrlane_computes,
    effects_writeTy (fun _ => rfl) (fun _ _ _ => rfl), fun hty => ?prmt⟩
  case prmt => exact (effects_prmt hty).congr_val fun c _ _ l => by simp only [prmt, Nat.mul_comm]

end Sys2Proof.Machine
end

section
/-! SUPPORT. F32 operands: what a pattern stands for by its fields, and the order of two patterns (R77, R79, R80, R126). -/

namespace Sys2Proof.Machine

open Sys2Proof

/-! ### Instructions on F32 -/

section
variable {i : Instr} {op : Nat} {f : Form}

theorem effects_float1 (hty : f.ty = .f32) (fn : Nat → Nat) (hi : ∀ s, exec i s = float1 op f s fn) :
    Effects i op f (.dst false) (.src false) .unused none (fun _ => True)
      (Computes fun c => [⟨f.d, false, fun l => fn (c.patA f l)⟩]) := by
  simp only [Ctx.patA, hty]
  exact effects_writeTy_narrow (by rw [hty]; rfl) hi (fun _ _ _ => rfl)

theorem effects_float2 (hty : f.ty = .f32) (fn : Nat → Nat → Nat) (hi : ∀ s, exec i s = float2 op f s fn) :
    Effects i op f (.dst false) (.src false) (.src false) none (fun _ => True)
      (Computes fun c => [⟨f.d, false, fun l => fn (c.patA f l) (c.patB f l)⟩]) := by
  simp only [Ctx.patA, Ctx.patB, hty]
  exact effects_writeTy_narrow (by rw [hty]; rfl) hi (fun _ _ _ => rfl)

theorem patA_lt_f32 (hty : f.ty = .f32) (c : Ctx) (l : Nat) : c.patA f l < 2 ^ 32 := by
  rw [Ctx.patA, hty]
  exact c.read_lt 1 .f32 f.a l

theorem patB_lt_f32 (hty : f.ty = .f32) (c : Ctx) (l : Nat) : c.patB f l < 2 ^ 32 := by
  rw [Ctx.patB, hty]
  exact c.read_lt 2 .f32 f.b l

end

/-! ### The fields of a pattern (R77, R79) -/

section
variable {x : Nat}

theorem testBit_sign (hx : x < 2 ^ 32) : x.testBit 31 = decide (2 ^ 31 ≤ x) := by
  rw [Nat.testBit_eq_decide_div_mod_eq]
  congr 1
  exact propext (by omega)

theorem dec_f32_fields (hx : x < 2 ^ 32) : dec .f32 x =
    if x / 2 ^ 23 % 256 = 255 then (if x % 2 ^ 23 = 0 then .inf (decide (2 ^ 31 ≤ x)) else .nan)
    else if x / 2 ^ 23 % 256 = 0 then .fin (decide (2 ^ 31 ≤ x)) (x % 2 ^ 23) (-149)
    else .fin (decide (2 ^ 31 ≤ x)) (2 ^ 23 + x % 2 ^ 23) ((x / 2 ^ 23 % 256 : Nat) - 127 - 23) := by
  rw [← testBit_sign hx]
  by_cases h : x / 2 ^ 23 % 256 = 255
  · rw [if_pos h]
    exact if_pos (decide_eq_true h)
  · rw [if_neg h]
    exact (if_neg fun hc => h (of_decide_eq_true hc)).trans (if_neg Bool.false_ne_true)

theorem dec_of_nanPattern (hx : x < 2 ^ 32) (h : nanPattern x = true) : dec .f32 x = .nan := by
  simp only [nanPattern, Bool.and_eq_true, decide_eq_true_eq] at h
  rw [dec_f32_fields hx, if_pos h.1, if_neg h.2]

theorem dec_of_zero (hx : x < 2 ^ 32) (h : x % 2 ^ 31 = 0) : dec .f32 x = .fin (decide (2 ^ 31 ≤ x)) 0 (-149) := by
  rw [dec_f32_fields hx, if_neg (by omega), if_pos (by omega), show x % 2 ^ 23 = 0 by omega]

theorem dec_of_inf (hx : x < 2 ^ 32) (h : x % 2 ^ 31 = 0x7F800000) : dec .f32 x = .inf (decide (2 ^ 31 ≤ x)) := by
  rw [dec_f32_fields hx, if_pos (by omega), if_pos (by omega)]

theorem dec_of_finite (hx : x < 2 ^ 32) (hn : nanPattern x = false) (hi : x % 2 ^ 31 ≠ 0x7F800000) :
    ∃ m e, (m = 0 ↔ x % 2 ^ 31 = 0) ∧ dec .f32 x = .fin (decide (2 ^ 31 ≤ x)) m e := by
  simp only [nanPattern, Bool.and_eq_false_iff, decide_eq_false_iff_not, not_not] at hn
  rw [dec_f32_fields hx, if_neg (by omega)]
  split
  · exact ⟨_, _, by omega, rfl⟩
  · exact ⟨_, _, by omega, rfl⟩

end

/-! ### The order of two patterns (R126) -/

/-- A magnitude with its sign. -/
def signed (neg : Bool) (p : Nat) : Int := if neg then -(p : Int) else p

theorem signed_lt_congr {a b p q : Nat} (hlt : a < b ↔ p < q) (hgt : b < a ↔ q < p) (hpos : 0 < a + b ↔ 0 < p + q) (n n' : Bool) :
    signed n a < signed n' b ↔ signed n p < signed n' q := by
  cases n <;> cases n' <;> simp only [signed, if_true, Bool.false_eq_true, if_false] <;> omega

theorem ltFin_fin (n n' : Bool) (m m' : Nat) (e e' : Int) :
    ltFin (.fin n m e) (.fin n' m' e') =
      decide (signed n (m <<< (e - min e e').toNat) < signed n' (m' <<< (e' - min e e').toNat)) := rfl

/-- A significand brought to a lower exponent, which another binade has. -/
theorem shiftLeft_significand (p : Nat) {k : Int} (hk : k ≤ f32Exp p) {j : Nat} (hj : k + 149 = j) :
    significand .f32 p <<< (f32Exp p - k).toNat * 2 ^ j = magnitude .f32 p := by
  rw [f32Exp] at *
  rw [Nat.shiftLeft_eq, Nat.mul_assoc, ← Nat.pow_add, magnitude_eq_significand]
  congr 2
  omega

theorem magnitude_zero (f : Fmt) : magnitude f 0 = 0 := by
  simp [magnitude]

theorem ltFin_significands (p q : Nat) (n n' : Bool) :
    ltFin (.fin n (significand .f32 p) (f32Exp p)) (.fin n' (significand .f32 q) (f32Exp q)) = decide (signed n p < signed n' q) := by
  obtain ⟨k, hk⟩ : ∃ k, k = min (f32Exp p) (f32Exp q) := ⟨_, rfl⟩
  obtain ⟨j, hj⟩ : ∃ j : Nat, k + 149 = j := ⟨(k + 149).toNat, by rw [hk, f32Exp, f32Exp]; omega⟩
  have hp := shiftLeft_significand p (by omega : k ≤ f32Exp p) hj
  have hq := shiftLeft_significand q (by omega : k ≤ f32Exp q) hj
  rw [ltFin_fin, ← hk, decide_eq_decide]
  generalize significand .f32 p <<< (f32Exp p - k).toNat = a at *
  generalize significand .f32 q <<< (f32Exp q - k).toNat = b at *
  have hmono := magnitude_strictMono .f32
  have hpow := Nat.two_pow_pos j
  refine signed_lt_congr ?_ ?_ ?_ n n'
  · rw [← hmono.lt_iff_lt (a := p), ← hp, ← hq, Nat.mul_lt_mul_right hpow]
  · rw [← hmono.lt_iff_lt (a := q), ← hp, ← hq, Nat.mul_lt_mul_right hpow]
  · have hzero {a p : Nat} (h : a * 2 ^ j = magnitude .f32 p) : a = 0 ↔ p = 0 := by
      rw [← hmono.injective.eq_iff (a := p), magnitude_zero, ← h, Nat.mul_eq_zero, or_iff_left hpow.ne']
    have := hzero hp
    have := hzero hq
    omega

/-- A magnitude pattern up to that of infinity is infinite or finite. -/
theorem dec_f32_number {p : Nat} (hp : p ≤ Fmt.f32.max + 1) (n : Bool) :
    (p = Fmt.f32.max + 1 ∧ dec .f32 (withSign .f32 n p) = .inf n)
      ∨ (p ≤ Fmt.f32.max ∧ dec .f32 (withSign .f32 n p) = .fin n (significand .f32 p) (f32Exp p)) := by
  rcases Nat.lt_or_eq_of_le hp with h | rfl
  · exact .inr ⟨Nat.le_of_lt_succ h, dec_f32 (Nat.le_of_lt_succ h) n⟩
  · refine .inl ⟨rfl, ?_⟩
    rw [dec_withSign (by decide)]
    rfl

theorem sign_dec_f32 {p : Nat} (hp : p ≤ Fmt.f32.max + 1) (n : Bool) : (dec .f32 (withSign .f32 n p)).sign = n := by
  rcases dec_f32_number hp n with ⟨-, h⟩ | ⟨-, h⟩ <;> rw [h] <;> rfl

section
variable {x : Nat}

theorem nanPattern_withSign {p : Nat} (hp : p < 2 ^ 31) (n : Bool) :
    nanPattern (withSign .f32 n p) = decide (Fmt.f32.max + 1 < p) := by
  rw [nanPattern, Bool.eq_iff_iff, Bool.and_eq_true, decide_eq_true_eq, decide_eq_true_eq, decide_eq_true_eq]
  cases n <;> simp only [withSign, Fmt.f32, Bool.false_eq_true, if_true, if_false] <;> omega

/-- A pattern that is no NaN is a magnitude pattern up to that of infinity with a sign. -/
theorem exists_number (hx : x < 2 ^ 32) (hn : nanPattern x = false) : ∃ n p, p ≤ Fmt.f32.max + 1 ∧ x = withSign .f32 n p := by
  obtain ⟨n, p, hp, rfl⟩ := exists_withSign (f := .f32) hx
  refine ⟨n, p, ?_, rfl⟩
  rw [nanPattern_withSign hp, decide_eq_false_iff_not] at hn
  exact Nat.le_of_not_lt hn

theorem isNan_dec_f32 (hx : x < 2 ^ 32) : (dec .f32 x).isNan = nanPattern x := by
  cases hn : nanPattern x with
  | true => rw [dec_of_nanPattern hx hn]; rfl
  | false =>
    obtain ⟨n, p, hp, rfl⟩ := exists_number hx hn
    rcases dec_f32_number hp n with ⟨-, h⟩ | ⟨-, h⟩ <;> rw [h] <;> rfl

end

/-- Two F32 patterns that are no NaN compare as their magnitude patterns with their signs. -/
theorem ltFin_dec_f32 {p q : Nat} (hp : p ≤ Fmt.f32.max + 1) (hq : q ≤ Fmt.f32.max + 1) (n n' : Bool) :
    ltFin (dec .f32 (withSign .f32 n p)) (dec .f32 (withSign .f32 n' q)) = decide (signed n p < signed n' q) := by
  rcases dec_f32_number hp n with ⟨rfl, h⟩ | ⟨hp, h⟩ <;>
    rcases dec_f32_number hq n' with ⟨rfl, h'⟩ | ⟨hq, h'⟩ <;> rw [h, h']
  · cases n <;> cases n' <;> rfl
  · cases n <;> cases n' <;> simp [ltFin, signed] <;> omega
  · cases n <;> cases n' <;> simp [ltFin, signed] <;> omega
  · exact ltFin_significands p q n n'

end Sys2Proof.Machine
end

section
/-! PROOF. O6 (`Obligations.MinimumAndMaximum`): FMIN and FMAX select by the order of R125. -/

namespace Sys2Proof.Machine

open Sys2Proof

section
variable {x y : Nat}

theorem orderKey_withSign {p : Nat} (hp : p ≤ Fmt.f32.max + 1) (n : Bool) :
    orderKey (withSign .f32 n p) = if n then -(p : Int) - 1 else p := by
  have hp' : p < 2 ^ 31 := hp.trans_lt (by decide)
  cases n
  · rw [withSign_false, orderKey, if_pos hp']
    rfl
  · rw [orderKey, withSign]
    simp [Fmt.f32]

/-- The model's order, in which only a zero's sign tells equal numbers apart, is that of R125. -/
theorem less_eq_orderKey (hx : x < 2 ^ 32) (hy : y < 2 ^ 32) (hnx : nanPattern x = false) (hny : nanPattern y = false) :
    (ltFin (dec .f32 x) (dec .f32 y) || (eqFin (dec .f32 x) (dec .f32 y) && (dec .f32 x).sign && !(dec .f32 y).sign))
      = decide (orderKey x < orderKey y) := by
  obtain ⟨n, p, hp, rfl⟩ := exists_number hx hnx
  obtain ⟨n', q, hq, rfl⟩ := exists_number hy hny
  simp only [eqFin, ltFin_dec_f32 hp hq, ltFin_dec_f32 hq hp, sign_dec_f32 hp, sign_dec_f32 hq, orderKey_withSign hp, orderKey_withSign hq]
  cases n <;> cases n' <;> simp [signed] <;> omega

theorem fminmax_eq (hx : x < 2 ^ 32) (hy : y < 2 ^ 32) (isMax nan : Bool) : fminmax isMax nan x y =
    if nanPattern x && nanPattern y then 0x7FC00000
    else if nanPattern x || nanPattern y then (if nan then 0x7FC00000 else if nanPattern x then y else x)
    else if orderKey x < orderKey y then (if isMax then y else x)
    else if isMax then x else y := by
  rw [fminmax, isNan_dec_f32 hx, isNan_dec_f32 hy]
  cases hnx : nanPattern x with
  | true => rfl
  | false =>
    cases hny : nanPattern y with
    | true => rfl
    | false => simp only [less_eq_orderKey hx hy hnx hny, Bool.and_self, Bool.or_self, Bool.false_eq_true, if_false, decide_eq_true_eq]

end

/-- Settles O6: FMIN and FMAX are `float2` of `fminmax`, whose order is that of R125 (`less_eq_orderKey`). -/
theorem minimumAndMaximum : Obligations.MinimumAndMaximum := by
  unfold Obligations.MinimumAndMaximum
  intro f hty pick two
  have hpick (isMax : Bool) (c : Ctx) (l : Nat) :
      fminmax isMax (f.var = 1#4) (c.patA f l) (c.patB f l) = pick (!isMax) (c.patA f l) (c.patB f l) := by
    rw [fminmax_eq (patA_lt_f32 hty c l) (patB_lt_f32 hty c l)]
    cases isMax <;> simp [pick]
  exact ⟨(effects_float2 hty (fminmax false (f.var = 1#4)) fun _ => rfl).congr_val fun c _ _ l => hpick false c l,
    (effects_float2 hty (fminmax true (f.var = 1#4)) fun _ => rfl).congr_val fun c _ _ l => hpick true c l⟩

end Sys2Proof.Machine
end

section
/-! PROOF. O7 (`Obligations.FloatArithmetic`) and O8 (`Obligations.FloatFunctions`): products, comparisons and classes (R124, R126,
R127). -/

namespace Sys2Proof.Machine

open Sys2Proof

/-! ### Products (R124) -/

theorem mulTo_eq (f : Fmt) (x y : FVal) (mode : Rnd) : mulTo f x y mode =
    if x.isNan || y.isNan || (x.isInf && y.isZero) || (x.isZero && y.isInf) then f.nan
    else if x.isInf || y.isInf then roundF (.inf (x.sign != y.sign)) f mode false
    else roundF (x.mulFin y) f mode false := by
  rcases x with _ | n | ⟨n, m, e⟩ <;> rcases y with _ | n' | ⟨n', m', e'⟩
  case inf.fin => by_cases h : m' = 0 <;> simp [mulTo, product, FVal.isNan, FVal.isInf, FVal.isZero, FVal.sign, h]
  case fin.inf => by_cases h : m = 0 <;> simp [mulTo, product, FVal.isNan, FVal.isInf, FVal.isZero, FVal.sign, h]
  case fin.fin => simp [mulTo, product, FVal.isNan, FVal.isInf, FVal.mulFin]
  all_goals rfl

theorem effects_ffma {f : Form} (hty : f.ty = .f32) :
    Effects (.ffma f) 0x4B f (.dst false) (.src false) (.src false) (some (.src false)) (fun _ => True)
      (Computes fun c => [⟨f.d, false, fun l =>
        dotRound [(dec .f32 (c.patA f l), dec .f32 (c.patB f l))] (dec .f32 (c.patC f l)) (modeOf f.var)⟩]) := by
  simp only [Ctx.patA, Ctx.patB, Ctx.patC, hty]
  exact effects_writeTy_narrow (by rw [hty]; rfl) (fun _ => rfl) (fun _ _ _ => rfl)

/-! ### Comparisons (R126) -/

theorem effects_fsetp {f : Form} (hty : f.ty = .f32) :
    Effects (.fsetp f) 0x4E f .pred (.src false) (.src false) (thirdNone f) (fun _ => True)
      (Computes fun c => [⟨f.d, false, fun l =>
        bitNat (accumulate (8 ≤ f.var.toNat) (c.predD f l) (fcompare (f.var.toNat % 8) (c.patA f l) (c.patB f l)))⟩]) := by
  simp only [Ctx.patA, Ctx.patB, hty]
  exact effects_write (fun _ => rfl) (fun _ _ _ => rfl)

/-! ### Classes (R127) -/

theorem fclass_eq_classOf {x : Nat} (hx : x < 2 ^ 32) : fclass x = classOf x := by
  have hm := Nat.mod_lt x (Nat.two_pow_pos 23)
  rw [fclass, dec_f32_fields hx]
  unfold classOf nanPattern
  dsimp only
  generalize x / 2 ^ 23 % 256 = e
  generalize x % 2 ^ 23 = m at *
  by_cases he : e = 255
  · by_cases h0 : m = 0 <;> simp [he, h0]
  · by_cases hsub : e = 0
    · by_cases h0 : m = 0
      · simp [hsub, h0]
      · simp [hsub, h0, hm, Nat.pos_of_ne_zero h0]
    · simp [he, hsub, Nat.pos_of_ne_zero hsub]

section
variable {f : Form}

theorem execFclass_word (hd : ∀ n, f.d ≠ .p n) (s : State) :
    execFclass f s = issueInstr 0x4F f s (.dst false) (.src false) .unused none (fun _ => true)
      (fun c => .done (c.write c.st f.d false fun l => 2 ^ fclass (c.read 1 .f32 f.a l))) := by
  rw [execFclass]
  split
  · rename_i n hn
    exact absurd hn (hd n)
  · rfl

theorem execFclass_pred {n : Nat} (hd : f.d = .p n) (s : State) :
    execFclass f s = issueInstr 0x4F f s .pred (.src false) (.src false) none (fun _ => true)
      (fun c => .done (c.write c.st f.d false fun l => bitNat (classIn (fclass (c.read 1 .f32 f.a l)) (c.read 2 .b32 f.b l)))) := by
  rw [execFclass]
  split
  · rfl
  · rename_i hn
    exact absurd hd (hn n)

theorem effects_fclass_word (hty : f.ty = .f32) (hd : ∀ n, f.d ≠ .p n) :
    Effects (.fclass f) 0x4F f (.dst false) (.src false) .unused none (fun _ => True)
      (Computes fun c => [⟨f.d, false, fun l => 2 ^ fclass (c.patA f l)⟩]) := by
  simp only [Ctx.patA, hty]
  exact effects_write (execFclass_word hd) (fun _ _ _ => rfl)

theorem effects_fclass_pred (hty : f.ty = .f32) {n : Nat} (hd : f.d = .p n) :
    Effects (.fclass f) 0x4F f .pred (.src false) (.src false) none (fun _ => True)
      (Computes fun c => [⟨f.d, false, fun l => bitNat (classIn (fclass (c.patA f l)) (c.read 2 .b32 f.b l))⟩]) := by
  simp only [Ctx.patA, hty]
  exact effects_write (execFclass_pred hd) (fun _ _ _ => rfl)

end

/-- Settles O7: a product is that of `mulTo_eq`, a comparison that of `fcompare` under `accumulate_eq`, and a class that of
`fclass_eq_classOf`. -/
theorem floatArithmetic : Obligations.FloatArithmetic := by
  unfold Obligations.FloatArithmetic
  intro f hty m two cond
  refine ⟨effects_float2 hty (fun a b => dotRound [(f32 a, .one)] (f32 b) m) fun _ => rfl,
    effects_float2 hty (fun a b => dotRound [(f32 a, .one)] (f32 b).negate m) fun _ => rfl, ?fmul, effects_ffma hty, ?fsetp,
    fun hd => ?word, fun n hd => ?pred⟩
  case fmul =>
    refine (effects_float2 hty (fun a b => mulTo .f32 (f32 a) (f32 b) m) fun _ => rfl).congr_val fun c _ _ l => ?_
    exact mulTo_eq ..
  case fsetp =>
    refine (effects_fsetp hty).congr_val fun c _ _ l => ?_
    have hcond (k a b : Nat) (hk : k = f.var.toNat % 8) : fcompare k a b = cond (dec .f32 a) (dec .f32 b) := by
      simp only [cond, fcompare, eqFin, ← hk]
      rcases k with _ | _ | _ | _ | _ | _ | _ | _ <;> simp [Bool.and_assoc, Bool.or_assoc]
    rw [accumulate_eq, getLsbD_three, hcond _ _ _ rfl]
  case word => exact (effects_fclass_word hty hd).congr_val fun c _ _ l => by rw [fclass_eq_classOf (patA_lt_f32 hty c l)]
  case pred => exact (effects_fclass_pred hty hd).congr_val fun c _ _ l => by rw [fclass_eq_classOf (patA_lt_f32 hty c l), classIn]

/-! ### Functions (R128 to R131) -/

theorem effects_fscale {f : Form} (hty : f.ty = .f32) :
    Effects (.fscale f) 0x5A f (.dst false) (.src false) (.src false) none (fun _ => True)
      (Computes fun c => [⟨f.d, false, fun l => fscalePat (c.patA f l) (c.readInt 2 .s32 f.b l) (modeOf f.var)⟩]) := by
  simp only [Ctx.patA, hty]
  exact effects_writeTy_narrow (by rw [hty]; rfl) (fun _ => rfl) (fun _ _ _ => rfl)

/-- Settles O8: each function is `float1` or `float2` of its pattern function, which is total. -/
theorem floatFunctions : Obligations.FloatFunctions := by
  unfold Obligations.FloatFunctions
  intro f hty m one
  exact ⟨effects_float1 hty (fun x => fdivPat .one (dec .f32 x) m) fun _ => rfl, effects_float1 hty (fun x => frsqPat x m) fun _ => rfl,
    effects_float1 hty (fun x => fsqrtPat x m) fun _ => rfl,
    effects_float2 hty (fun x y => fdivPat (dec .f32 x) (dec .f32 y) m) fun _ => rfl,
    effects_float1 hty fexp2Pat fun _ => rfl, effects_float1 hty flog2Pat fun _ => rfl, effects_float1 hty fsinPat fun _ => rfl,
    effects_float1 hty fcosPat fun _ => rfl, effects_float1 hty ftanhPat fun _ => rfl,
    effects_float1 hty (fun x => frndPat x m) fun _ => rfl, effects_fscale hty⟩

end Sys2Proof.Machine
end

section
/-! PROOF. O12 (`Obligations.PackedAndDot`) and O13 (`Obligations.Conversions`): packed elements, and the conditions on a format slot
(R59, R132 to R137). -/

namespace Sys2Proof.Machine

open Sys2Proof

/-! ### Format slots (R59, R134) -/

theorem Ctx.slotOk_iff {c : Ctx} {lo hi : Nat} :
    c.slotOk lo hi = true ↔ (c.form.ty = .slot → lo ≤ slotElem c.slot ∧ slotElem c.slot ≤ hi) := by
  simp [Ctx.slotOk, imp_iff_not_or]

theorem Ctx.wideSlotOk_iff {c : Ctx} {limit : Nat} :
    c.wideSlotOk limit = true ↔ (c.form.ty = .slot → tyWidth c.elemTy = 16 → c.form.imm.toNat ≤ limit) := by
  simp [Ctx.wideSlotOk, imp_iff_not_or, or_assoc]

/-! ### Packed pairs and dot products (R132, R133) -/

theorem pack2_eq (fn : Nat → Nat) : pack2 fn = fn 0 + 2 ^ 16 * fn 1 := by
  rw [pack2, Nat.mul_comm]

section
variable (f : Form)

theorem effects_hfma2 :
    Effects (.hfma2 f) 0x5B f (.dst false) (.src false) (.src false) (some (.src false)) (fun _ => True)
      (Computes fun c => [⟨f.d, false, fun l =>
        let e := fun x i => dec (fmtOf f.ty) (elemOf 16 x i)
        pack2 fun i => dotRoundTo (fmtOf f.ty) [(e (c.read 1 .b32 f.a l) i, e (c.read 2 .b32 f.b l) i)] (e (c.read 3 .b32 f.c l) i)
          (modeOf f.var)⟩]) :=
  effects_write (fun _ => rfl) (fun _ _ _ => rfl)

theorem effects_hadd2 :
    Effects (.hadd2 f) 0x5C f (.dst false) (.src false) (.src false) none (fun _ => True)
      (Computes fun c => [⟨f.d, false, fun l =>
        let e := fun x i => dec (fmtOf f.ty) (elemOf 16 x i)
        pack2 fun i => dotRoundTo (fmtOf f.ty) [(e (c.read 1 .b32 f.a l) i, .one)] (e (c.read 2 .b32 f.b l) i) (modeOf f.var)⟩]) :=
  effects_write (fun _ => rfl) (fun _ _ _ => rfl)

theorem effects_hmul2 :
    Effects (.hmul2 f) 0x5D f (.dst false) (.src false) (.src false) none (fun _ => True)
      (Computes fun c => [⟨f.d, false, fun l =>
        let e := fun x i => dec (fmtOf f.ty) (elemOf 16 x i)
        pack2 fun i => mulTo (fmtOf f.ty) (e (c.read 1 .b32 f.a l) i) (e (c.read 2 .b32 f.b l) i) (modeOf f.var)⟩]) :=
  effects_write (fun _ => rfl) (fun _ _ _ => rfl)

end

/-- Settles O12: a packed result is its two elements (`pack2_eq`), and FDOT4 asks of its slot what `Ctx.slotOk` checks. -/
theorem packedAndDot : Obligations.PackedAndDot := by
  unfold Obligations.PackedAndDot
  intro f m t elem a b z
  exact ⟨(effects_hfma2 f).congr_val fun _ _ _ _ => pack2_eq _, (effects_hadd2 f).congr_val fun _ _ _ _ => pack2_eq _,
    (effects_hmul2 f).congr_val fun _ _ _ _ => pack2_eq _, effects_write (fun _ => rfl) (fun _ _ _ => rfl),
    effects_write (fun _ => rfl) (fun _ hf hok => Ctx.slotOk_iff.2 (hf ▸ hok))⟩

/-! ### Conversions (R135 to R137) -/

section
variable (f : Form)

theorem effects_cvt (ok : Ctx → Prop) (hok : ∀ c, c.form = f → ok c → c.slotOk 1 5 = true) :
    Effects (.cvt f) 0x60 f (.dst false) (.src (wideTy (srcTy f))) .unused none ok
      (Computes fun c => [⟨f.d, false, fun l => roundF (c.number (srcTy f) f.a l) (fmtOf c.elemTy) c.mode c.sat⟩]) :=
  effects_write (fun _ => rfl) hok

theorem effects_cvti :
    Effects (.cvti f) 0x61 f (.dst (wideTy f.ty)) (.src (wideTy (srcTy f))) .unused none (fun _ => True)
      (Computes fun c => [⟨f.d, wideTy f.ty, fun l =>
        extend f.ty (if (srcTy f).isFloat then
            wrapInt (toInt (dec (fmtOf (srcTy f)) (c.read 1 (srcTy f) f.a l)) f.ty (modeOf f.var)) (tyWidth f.ty)
          else cvtInt f.ty (4 ≤ f.var.toNat) (c.readInt 1 (srcTy f) f.a l))⟩]) :=
  effects_writeTy (fun _ => rfl) (fun _ _ _ => rfl)

theorem effects_pack (ok : Ctx → Prop)
    (hok : ∀ c, c.form = f → ok c → (c.slotOk 2 5 && c.wideSlotOk 0 && (tyWidth c.elemTy = 16 || f.d ≠ .none)) = true) :
    Effects (.pack f) 0x62 f (.dst false) (.src false) (.src false) none ok
      (Computes fun c => [⟨f.d, false, fun l =>
        let e := fun (slot : Nat) (o : Operand) => roundF (f32 (c.read slot .f32 o l)) (fmtOf c.elemTy) c.mode c.sat
        packed c.elemTy f.imm.toNat (c.read 3 .b32 f.d l) (e 1 f.a) (e 2 f.b)⟩]) :=
  effects_write (fun _ => rfl) hok

theorem effects_unpk (ok : Ctx → Prop) (hok : ∀ c, c.form = f → ok c → (c.slotOk 2 5 && c.wideSlotOk 1) = true) :
    Effects (.unpk f) 0x63 f (.dst false) (.src false) .unused none ok
      (Computes fun c => [⟨f.d, false, fun l =>
        roundF (dec (fmtOf c.elemTy) (elemOf (tyWidth c.elemTy) (c.read 1 .b32 f.a l) f.imm.toNat)) .f32 .rn false⟩]) :=
  effects_write (fun _ => rfl) hok

end

/-- Settles O13: the slots that the checks of step 3 accept are the stated ones, and each result is a rounding or a conversion of its
source. -/
theorem conversions : Obligations.Conversions := by
  unfold Obligations.Conversions
  intro f src n slotted wide
  have himm : f.imm.toNat = 0 ↔ f.imm = 0#32 := by rw [BitVec.toNat_eq]; rfl
  refine ⟨effects_cvt f _ fun c hf hok => Ctx.slotOk_iff.2 (hf ▸ hok), ?cvti,
    (effects_pack f _ fun c hf hok => ?packOk).congr_val fun c _ _ l => ?pack, effects_unpk f _ fun c hf hok => ?unpkOk⟩
  case cvti =>
    refine (effects_cvti f).congr_val fun c _ _ l => ?_
    simp only [cvtInt, decide_eq_true_eq, src]
    cases (srcTy f).isFloat <;> rfl
  case packOk =>
    obtain ⟨hslot, hpos, hdest⟩ := hok
    simp only [Bool.and_eq_true, Ctx.slotOk_iff, Ctx.wideSlotOk_iff, Bool.or_eq_true, decide_eq_true_eq, hf, Nat.le_zero, himm]
    exact ⟨⟨hslot, hpos⟩, hdest⟩
  case pack =>
    simp only [packed, himm, Nat.mul_comm (2 ^ 8), Nat.mul_comm (2 ^ 16), Nat.mul_comm (2 ^ 24)]
    rfl
  case unpkOk =>
    simp only [Bool.and_eq_true, Ctx.slotOk_iff, Ctx.wideSlotOk_iff, hf]
    exact hok

end Sys2Proof.Machine
end

section
/-! PROOF. O9 (`Obligations.SpecialInputs`): the functions of R128 to R131 on NaNs, infinities and zeros, and FEXP2 on integers. -/

namespace Sys2Proof.Machine

open Sys2Proof

variable {mode : Rnd}

theorem infPat_f32 (n : Bool) : infPat .f32 n = if n then 0xFF800000 else 0x7F800000 := by
  cases n <;> rfl

theorem nan_f32 : Fmt.f32.nan = 0x7FC00000 := rfl

theorem withSign_f32_zero (n : Bool) : withSign .f32 n 0 = if n then 0x80000000 else 0 := by
  cases n <;> rfl

/-! ### Quotients (R128) -/

theorem fdivPat_nan_left (v : FVal) : fdivPat .nan v mode = 0x7FC00000 := rfl

theorem fdivPat_nan_right (v : FVal) : fdivPat v .nan mode = 0x7FC00000 := by
  cases v <;> rfl

theorem fdivPat_inf_inf (n n' : Bool) : fdivPat (.inf n) (.inf n') mode = 0x7FC00000 := rfl

theorem fdivPat_inf_fin (n n' : Bool) (m : Nat) (e : Int) : fdivPat (.inf n) (.fin n' m e) mode = infPat .f32 (n != n') := rfl

theorem fdivPat_fin_inf (n n' : Bool) (m : Nat) (e : Int) : fdivPat (.fin n m e) (.inf n') mode = withSign .f32 (n != n') 0 := rfl

theorem fdivPat_fin_zero {m : Nat} (hm : m ≠ 0) (n n' : Bool) (e e' : Int) :
    fdivPat (.fin n m e) (.fin n' 0 e') mode = infPat .f32 (n != n') := by
  simp [fdivPat, hm, FVal.sign]

theorem fdivPat_zero_fin {m' : Nat} (hm : m' ≠ 0) (n n' : Bool) (e e' : Int) :
    fdivPat (.fin n 0 e) (.fin n' m' e') mode = withSign .f32 (n != n') 0 := by
  simp [fdivPat, hm, FVal.sign]

theorem fdivPat_zero_zero (n n' : Bool) (e e' : Int) : fdivPat (.fin n 0 e) (.fin n' 0 e') mode = 0x7FC00000 := rfl

/-! ### The other functions, by the class of their input (R128 to R131) -/

section
variable {x : Nat} (mode)

theorem functions_of_nan (h : dec .f32 x = .nan) :
    frsqPat x mode = 0x7FC00000 ∧ fsqrtPat x mode = 0x7FC00000 ∧ fexp2Pat x = 0x7FC00000 ∧ flog2Pat x = 0x7FC00000
      ∧ fsinPat x = 0x7FC00000 ∧ fcosPat x = 0x7FC00000 ∧ ftanhPat x = 0x7FC00000 ∧ frndPat x mode = 0x7FC00000
      ∧ ∀ n, fscalePat x n mode = 0x7FC00000 := by
  simp [frsqPat, fsqrtPat, fexp2Pat, flog2Pat, fsinPat, fcosPat, ftanhPat, frndPat, fscalePat, h, nan_f32]

theorem functions_of_zero {n : Bool} {e : Int} (h : dec .f32 x = .fin n 0 e) :
    frsqPat x mode = infPat .f32 n ∧ fsqrtPat x mode = x ∧ fexp2Pat x = 0x3F800000 ∧ flog2Pat x = infPat .f32 true ∧ fsinPat x = x
      ∧ fcosPat x = 0x3F800000 ∧ ftanhPat x = x ∧ ∀ n, fscalePat x n mode = x := by
  simp [frsqPat, fsqrtPat, fexp2Pat, flog2Pat, fsinPat, fcosPat, ftanhPat, fscalePat, h]

theorem functions_of_inf {n : Bool} (h : dec .f32 x = .inf n) :
    fsinPat x = 0x7FC00000 ∧ fcosPat x = 0x7FC00000 ∧ frndPat x mode = x ∧ ∀ n, fscalePat x n mode = x := by
  simp [fsinPat, fcosPat, frndPat, fscalePat, h, nan_f32]

theorem functions_of_posInf (h : dec .f32 x = .inf false) :
    frsqPat x mode = 0 ∧ fsqrtPat x mode = x ∧ fexp2Pat x = 0x7F800000 ∧ flog2Pat x = 0x7F800000 ∧ ftanhPat x = 0x3F800000 := by
  simp [frsqPat, fsqrtPat, fexp2Pat, flog2Pat, ftanhPat, h, infPat_f32]

theorem functions_of_negInf (h : dec .f32 x = .inf true) : fexp2Pat x = 0 ∧ ftanhPat x = 0xBF800000 := by
  have hone : withSign .f32 true 0x3F800000 = 0xBF800000 := rfl
  simp [fexp2Pat, ftanhPat, h, hone]

/-- A root or a logarithm of a number below zero. -/
theorem functions_of_negative (h : dec .f32 x = .inf true ∨ ∃ m e, m ≠ 0 ∧ dec .f32 x = .fin true m e) :
    frsqPat x mode = 0x7FC00000 ∧ fsqrtPat x mode = 0x7FC00000 ∧ flog2Pat x = 0x7FC00000 := by
  rcases h with h | ⟨m, e, hm, h⟩
  · simp [frsqPat, fsqrtPat, flog2Pat, h, nan_f32]
  · simp [frsqPat, fsqrtPat, flog2Pat, h, hm, nan_f32]

end

/-! ### FEXP2 of an integer (R129) -/

/-- A significand with its hidden bit, put together with its binade, is decoded again. -/
theorem dec_f32_normal {j k : Nat} (hlo : 2 ^ 23 ≤ k) (hhi : k < 2 ^ 24) (hmax : j * 2 ^ 23 + k ≤ Fmt.f32.max) (n : Bool) :
    dec .f32 (withSign .f32 n (j * 2 ^ 23 + k)) = .fin n k (j - 149) := by
  have hbin : binade .f32 (j * 2 ^ 23 + k) = j := by
    rw [binade, show Fmt.f32.fbits = 23 from rfl]
    omega
  have hsig := binade_significand .f32 (j * 2 ^ 23 + k)
  rw [hbin] at hsig
  rw [dec_f32 hmax, f32Exp, hbin, Nat.add_left_cancel hsig]

theorem shiftLeft_to_24_bits {m : Nat} (h0 : m ≠ 0) (hm : m < 2 ^ 24) :
    2 ^ 23 ≤ m <<< (23 - m.log2) ∧ m <<< (23 - m.log2) < 2 ^ 24 := by
  have hlog : m.log2 < 24 := (Nat.log2_lt h0).2 hm
  have hpow : 2 ^ 23 = 2 ^ m.log2 * 2 ^ (23 - m.log2) := by rw [← Nat.pow_add, Nat.add_sub_cancel' (Nat.le_of_lt_succ hlog)]
  rw [Nat.shiftLeft_eq]
  constructor
  · rw [hpow]
    exact Nat.mul_le_mul_right _ (Nat.log2_self_le h0)
  · rw [Nat.pow_succ', hpow, ← Nat.mul_assoc, ← Nat.pow_succ']
    exact Nat.mul_lt_mul_of_pos_right Nat.lt_log2_self (Nat.two_pow_pos _)

/-- An integer of at most 24 bits is a value of F32. -/
theorem roundF_f32_integer {m : Nat} (h0 : m ≠ 0) (hm : m < 2 ^ 24) (n : Bool) (mode : Rnd) :
    dec .f32 (roundF (.fin n m 0) .f32 mode false) = .fin n (m <<< (23 - m.log2)) (m.log2 - 23) := by
  have hlog : m.log2 < 24 := (Nat.log2_lt h0).2 hm
  have hexp : roundExp .f32 m 0 = m.log2 := by
    rw [roundExp, show Fmt.f32.emin = -126 from rfl]
    omega
  have hmag : roundMag .f32 m 0 mode n = m <<< (23 - m.log2) := by
    have hq : (m.log2 : Int) - Fmt.f32.fbits ≤ 0 := by
      rw [show Fmt.f32.fbits = 23 from rfl]
      omega
    simp only [roundMag, hexp]
    rw [if_pos hq, show Fmt.f32.fbits = 23 from rfl, show (0 - ((m.log2 : Int) - (23 : Nat))).toNat = 23 - m.log2 by omega]
  obtain ⟨hlo, hhi⟩ := shiftLeft_to_24_bits h0 hm
  have hpat : roundPat .f32 m 0 mode n = (m.log2 + 126) * 2 ^ 23 + m <<< (23 - m.log2) := by
    rw [roundPat, hmag, roundBinade, hexp]
    rfl
  have hmax : (m.log2 + 126) * 2 ^ 23 + m <<< (23 - m.log2) ≤ Fmt.f32.max := by
    rw [show Fmt.f32.max = 0x7F7FFFFF from rfl]
    omega
  have he : ((m.log2 + 126 : Nat) : Int) - 149 = m.log2 - 23 := by omega
  rw [roundF_fin regular_f32 h0, hpat, if_neg hmax.not_gt, dec_f32_normal hlo hhi hmax, he]

theorem toFix_integer {m l : Nat} (hl : l ≤ 23) : toFix (m <<< (23 - l)) (l - 23) = m * fixOne := by
  have hk : 0 ≤ (l : Int) - 23 + fracBits := by
    rw [show fracBits = 640 from rfl]
    omega
  have hsum : 23 - l + ((l : Int) - 23 + fracBits).toNat = fracBits := by
    rw [show fracBits = 640 from rfl]
    omega
  simp only [toFix]
  rw [if_pos hk, ← Nat.shiftLeft_add, hsum, Nat.shiftLeft_eq, fixOne]

/-- In fixed point an integer has no fraction, and the power is exact. -/
theorem fexp2Pat_integer {m : Nat} (h0 : m ≠ 0) (hm : m < 2 ^ 8) (n : Bool) :
    fexp2Pat (roundF (.fin n m 0) .f32 .rn false) = roundF (.fin false 1 (if n then -(m : Int) else m)) .f32 .rn false := by
  have hlog : m.log2 < 8 := (Nat.log2_lt h0).2 hm
  obtain ⟨hlo, hhi⟩ := shiftLeft_to_24_bits h0 (hm.trans (by decide))
  have hk0 : m <<< (23 - m.log2) ≠ 0 := by omega
  have hklog : (m <<< (23 - m.log2)).log2 < 24 := (Nat.log2_lt hk0).2 hhi
  have hint : (m * fixOne) >>> fracBits = m := by
    rw [fixOne, ← Nat.shiftLeft_eq, Nat.shiftLeft_shiftRight]
  have hfrac : m * fixOne % fixOne = 0 := Nat.mul_mod_left ..
  rw [fexp2Pat, roundF_f32_integer h0 (hm.trans (by decide))]
  dsimp only
  rw [if_neg hk0, if_neg (by omega), toFix_integer (by omega), hint, if_pos hfrac]

/-- Settles O9: a pattern of each class decodes to the value that the function's override looks at (`dec_of_nanPattern`, `dec_of_zero`,
`dec_of_inf`, `dec_of_finite`), and FEXP2 of an integer is exact (`fexp2Pat_integer`). -/
theorem specialInputs : Obligations.SpecialInputs := by
  unfold Obligations.SpecialInputs
  intro x y m hx hy nan inf zero neg isZero isInf div sign rcp
  have hzero (a : Nat) (ha : a < 2 ^ 32) (h : isZero a = true) := dec_of_zero ha (of_decide_eq_true h)
  have hinf (a : Nat) (ha : a < 2 ^ 32) (h : isInf a = true) := dec_of_inf ha (of_decide_eq_true h)
  have hfin (a : Nat) (ha : a < 2 ^ 32) (hn : nanPattern a = false) (h : isInf a = false) :=
    dec_of_finite ha hn (of_decide_eq_false h)
  simp only [Bool.and_eq_true, Bool.or_eq_true, Bool.not_eq_true']
  refine ⟨fun h => ?nan, fun h => ?zero, fun h => ?inf, fun h => ?posInf, fun h => ?negInf, fun h => ?negative, ?log, ?exp,
    fun h => ?divNan, fun h => ?divZero, fun h => ?divInf, fun h => ?zeroDiv, fun h => ?finInf⟩
  case nan =>
    have hd := dec_of_nanPattern hx h
    simp only [div, rcp, hd, fdivPat_nan_left, fdivPat_nan_right]
    exact ⟨rfl, rfl, rfl, functions_of_nan m hd⟩
  case zero =>
    have hd := hzero x hx h
    simp only [rcp, inf, hd, FVal.one, fdivPat_fin_zero one_ne_zero, Bool.false_bne, ← infPat_f32]
    exact ⟨rfl, functions_of_zero m hd⟩
  case inf =>
    have hd := hinf x hx h
    simp only [rcp, zero, hd, FVal.one, fdivPat_fin_inf, Bool.false_bne, ← withSign_f32_zero]
    exact ⟨rfl, functions_of_inf m hd⟩
  case posInf =>
    subst h
    have hd : dec .f32 0x7F800000 = .inf false := rfl
    exact functions_of_posInf m hd
  case negInf =>
    subst h
    have hd : dec .f32 0xFF800000 = .inf true := rfl
    exact functions_of_negInf hd
  case negative =>
    obtain ⟨⟨hneg, hz⟩, hn⟩ := h
    refine functions_of_negative m ?_
    rw [← show decide (2 ^ 31 ≤ x) = true from hneg]
    cases hi : isInf x with
    | true => exact .inl (hinf x hx hi)
    | false =>
      obtain ⟨m, e, hm, hd⟩ := hfin x hx hn hi
      exact .inr ⟨m, e, fun h0 => of_decide_eq_false hz (hm.1 h0), hd⟩
  case log => decide +kernel
  case exp =>
    intro n hlo hhi
    rcases eq_or_ne n 0 with rfl | h0
    · decide +kernel
    · rw [FVal.ofInt, fexp2Pat_integer (by omega) (by omega)]
      have hsign : (if decide (n < 0) = true then -(n.natAbs : Int) else n.natAbs) = n := by
        simp only [decide_eq_true_eq]
        split <;> omega
      rw [hsign]
  case divNan =>
    rcases h with ⟨h, h'⟩ | ⟨h, h'⟩
    · simp only [div, hzero x hx h, hzero y hy h', fdivPat_zero_zero, nan]
    · simp only [div, hinf x hx h, hinf y hy h', fdivPat_inf_inf, nan]
  case divZero =>
    obtain ⟨⟨⟨hn, hz⟩, hi⟩, hzy⟩ := h
    obtain ⟨m, e, hm, hd⟩ := hfin x hx hn hi
    have hm0 : m ≠ 0 := fun h0 => of_decide_eq_false hz (hm.1 h0)
    simp only [div, hd, hzero y hy hzy, fdivPat_fin_zero hm0, infPat_f32, inf, sign, neg]
  case divInf =>
    obtain ⟨⟨hi, hiy⟩, hny⟩ := h
    obtain ⟨m, e, -, hd⟩ := hfin y hy hny hiy
    simp only [div, hd, hinf x hx hi, fdivPat_inf_fin, infPat_f32, inf, sign, neg]
  case zeroDiv =>
    obtain ⟨⟨hz, hzy⟩, hny⟩ := h
    cases hiy : isInf y with
    | true => simp only [div, hzero x hx hz, hinf y hy hiy, fdivPat_fin_inf, withSign_f32_zero, zero, sign, neg]
    | false =>
      obtain ⟨m, e, hm, hd⟩ := hfin y hy hny hiy
      have hm0 : m ≠ 0 := fun h0 => of_decide_eq_false hzy (hm.1 h0)
      simp only [div, hzero x hx hz, hd, fdivPat_zero_fin hm0, withSign_f32_zero, zero, sign, neg]
  case finInf =>
    obtain ⟨⟨hi, hn⟩, hiy⟩ := h
    obtain ⟨m, e, -, hd⟩ := hfin x hx hn hi
    simp only [div, hd, hinf y hy hiy, fdivPat_fin_inf, withSign_f32_zero, zero, sign, neg]

end Sys2Proof.Machine
end

section
/-! SUPPORT. Commands as they are issued: accepted where there is room, waiting where there is none, refused without a key (R150, R151,
R179, R206, R394); and the end of an issue that faults or that changes a part of its wave. -/

namespace Sys2Proof.Machine

open Sys2Proof

/-! ### Instructions by what their body answers -/

section
variable {i : Instr} {op : Nat} {f : Form} {d a b : Allow} {x : Option Allow} {ok : Ctx → Prop} {extra : Ctx → Bool} {body : Ctx → Res}
  {post : State → Ctx → State → Prop}

/-- An instruction whose effect is made, where it is issued as `body` says. -/
theorem effects_done
    (hi : ∀ s c, s.issued op f d a b x = some c → ok c → exec i s = issueInstr op f s d a b x extra body)
    (he : ∀ c, c.form = f → ok c → extra c = true)
    (hb : ∀ s c, c.Found s f → s.context f = some c → ok c → ∃ t, body c = .done t ∧ post s c (c.finish op true t)) :
    Effects i op f d a b x ok post := by
  intro s c h hok
  obtain ⟨hctx, -, -⟩ := State.issued_iff.1 h
  have hf := State.context_found hctx
  obtain ⟨t, ht, hpost⟩ := hb s c hf hctx hok
  exact ⟨_, (hi s c h hok).trans (issueInstr_done h (he c hf.form hok) ht), hpost⟩

/-- An instruction that faults. -/
theorem effects_fault {code : Code} (hcode : code ≠ 0)
    (hi : ∀ s c, s.issued op f d a b x = some c → ok c → exec i s = issueInstr op f s d a b x extra body)
    (he : ∀ c, c.form = f → ok c → extra c = true) (hb : ∀ c, c.form = f → ok c → body c = .fault code) :
    Effects i op f d a b x ok (Faults code) := by
  intro s c h hok
  obtain ⟨hctx, -, -⟩ := State.issued_iff.1 h
  have hf := (State.context_found hctx).form
  exact ⟨_, (hi s c h hok).trans (issueInstr_fault h (he c hf hok) (hb c hf hok)), faults_raiseFault hctx hcode⟩

/-- An instruction that waits, without a park. -/
theorem effects_wait
    (hi : ∀ s c, s.issued op f d a b x = some c → ok c → exec i s = issueInstr op f s d a b x extra body)
    (he : ∀ c, c.form = f → ok c → extra c = true) (hb : ∀ c, c.form = f → ok c → body c = .wait false c.st) :
    Effects i op f d a b x ok Waits := by
  intro s c h hok
  obtain ⟨hctx, -, -⟩ := State.issued_iff.1 h
  have hf := State.context_found hctx
  refine ⟨_, (hi s c h hok).trans (issueInstr_wait h (he c hf.form hok) (hb c hf.form hok)),
    _, _, (Ctx.Left.start hf).updWave _ fun _ => rfl, ?_, rfl, rfl, false, none, rfl⟩
  rw [Ctx.waits, Ctx.updWave, State.updWave, State.updGroup, hf.rest]

end

/-! ### An issue that changes a part of its wave -/

/-- A change of the wave in no register and no path, and then the end of the issue. -/
theorem adjusts_finish {c : Ctx} {s : State} {f : Form} (hf : c.Found s f) (op : Nat) {F : Wave → Wave} {after : Ctx → Wave}
    (hafter : after c = F c.wave) (hid : ∀ w, (F w).id = w.id)
    (hregs : ∀ w, (F w).v = w.v ∧ (F w).s = w.s ∧ (F w).p = w.p ∧ (F w).paths = w.paths) :
    Adjusts after s c (c.finish op true (c.updWave c.st F)) := by
  obtain ⟨g, waits, er, parked, hleft, hg, ht, hfacets⟩ := Ctx.finish_left ((Ctx.Left.start hf).updWave F hid) op true
  obtain ⟨hv, hs, hp⟩ := Wave.afterIssue_regs (F c.wave) c.path.id waits er true parked
  obtain ⟨fv, fs, fp, fpaths⟩ := hregs c.wave
  refine ⟨g, _, hleft, ?_, ?_, hg, hafter ▸ Wave.afterIssue_sameBut _ _ _ _ _ _,
    (Ctx.Mid.start c).regs.congr (by rw [hg]; rfl) (hv.trans fv) (hs.trans fs) (hp.trans fp),
    Wave.afterIssue_stands _ c.path _ _ _ (by rw [fpaths]; exact hf.path)⟩
  · rw [ht, Ctx.updWave, State.updWave, State.updGroup, hf.rest]
  · have h : s.facets = (c.updWave c.st F).facets := by rw [Ctx.updWave, State.updWave_facets, hf.rest]
    rw [State.sameFacets, h]
    exact hfacets

/-! ### A wave with a new command (R206) -/

/-- A command as it stands among those of its wave. -/
def Wave.entered (w : Wave) (k : Cmd) : Cmd := { k with seq := w.nextSeq k.cls, order := w.order }

section
variable (w : Wave) (k : Cmd) (h : Option Nat)

theorem Wave.addCmd_eq : w.addCmd k h = { w with
    cmds := (w.addCmd k h).cmds
    seqs := put 0 w.seqs k.cls (w.nextSeq k.cls + 1)
    order := w.order + 1
    h := (w.addCmd k h).h } := by
  cases h <;> rfl

theorem Wave.nextSeq_addCmd (cls : Nat) :
    (w.addCmd k h).nextSeq cls = if cls = k.cls then w.nextSeq cls + 1 else w.nextSeq cls := by
  rw [Wave.addCmd_eq]
  refine (look_put 0 w.seqs k.cls cls (w.nextSeq k.cls + 1)).trans ?_
  split
  · rename_i e
    rw [e]
  · rfl

theorem Wave.h?_addCmd (r : Nat) : (w.addCmd k h).h? r = if h = some r then .own k.cls (w.nextSeq k.cls) else w.h? r := by
  cases h with
  | none => rfl
  | some n =>
    refine (look_put .null w.h n r (.own k.cls (w.nextSeq k.cls))).trans ?_
    simp only [Option.some.injEq, eq_comm]
    rfl

/-- The commands are those before and the new one, those that may be forgotten apart. -/
theorem Wave.cmds_addCmd : ∃ x : Wave, (w.addCmd k h).cmds = (w.cmds ++ [w.entered k]).filter x.keeps := by
  cases h <;> exact ⟨_, rfl⟩

theorem Wave.keeps_of_stage {k : Cmd} (hk : k.stage ≠ .signalled) : w.keeps k = true := by
  simp [Wave.keeps, hk]

theorem Wave.mem_addCmd_of_mem {k' : Cmd} (hk : k' ∈ w.cmds) (hs : k'.stage ≠ .signalled) : k' ∈ (w.addCmd k h).cmds := by
  obtain ⟨x, hx⟩ := w.cmds_addCmd k h
  rw [hx]
  exact List.mem_filter.2 ⟨List.mem_append_left _ hk, x.keeps_of_stage hs⟩

theorem Wave.entered_mem_addCmd (hs : k.stage ≠ .signalled) : w.entered k ∈ (w.addCmd k h).cmds := by
  obtain ⟨x, hx⟩ := w.cmds_addCmd k h
  rw [hx]
  exact List.mem_filter.2 ⟨by simp, x.keeps_of_stage (k := w.entered k) hs⟩

theorem Wave.mem_or_eq_of_mem_addCmd {k' : Cmd} (hk : k' ∈ (w.addCmd k h).cmds) : k' ∈ w.cmds ∨ k' = w.entered k := by
  obtain ⟨x, hx⟩ := w.cmds_addCmd k h
  rw [hx] at hk
  simpa using (List.mem_filter.1 hk).1

end

/-! ### A wave put into its group -/

/-- A wave put in the place of the one with its number. -/
def Wave.replace (w x : Wave) : Wave := if x.id = w.id then w else x

theorem Wave.replace_id (w x : Wave) : (w.replace x).id = x.id := by
  unfold Wave.replace
  split
  · rename_i h
    exact h.symm
  · rfl

theorem Group.setWave_eq_updWave (g : Group) (w : Wave) : g.setWave w = g.updWave w.id w.replace := by
  rw [Group.setWave, Group.updWave]
  refine congrArg (fun ws => ({ g with waves := ws } : Group)) (List.map_congr_left fun x _ => ?_)
  by_cases h : x.id = w.id <;> simp [Wave.replace, h]

theorem Group.wave?_setWave {g : Group} {w x : Wave} (h : g.wave? w.id = some x) : (g.setWave w).wave? w.id = some w := by
  rw [Group.setWave_eq_updWave, Group.wave?_updWave _ _ _ w.replace_id, h, Option.map_some, Wave.replace, if_pos (g.wave?_id h)]

theorem Group.wave?_setWave_ne (g : Group) {w : Wave} {k : Nat} (hk : k ≠ w.id) : (g.setWave w).wave? k = g.wave? k := by
  rw [Group.setWave_eq_updWave, Group.wave?_updWave_ne _ _ w.replace_id hk]

/-! ### Acceptance (R179, R206) -/

/-- A command as an order is accepted with translations. -/
def Order.cmd (o : Order) (pins : List Pin) (since die : Nat) : Cmd :=
  { cls := o.cls, seq := 0, pc := o.pc, mask := o.mask, effect := o.effect, pins := pins, status := o.status, stage := o.stage,
    begun := false, sent := o.sent, reported := false, rel := o.rel, order := 0, info := 0, since := since, moved := [], sample := [],
    asked := false, posted := false, via := [], lost := false, die := die, late := [] }

/-- Which entries of a matrix queue come later is told by the other groups, the other waves and the clock of the group (R150). -/
theorem State.laterEntry_congr {s t : State} {g a b : Group} {w : Wave} (hs : s.group? g.id = some a) (ht : t.group? g.id = some b)
    (hclock : a.clock = b.clock) (hgroups : ∀ k, k ≠ g.id → s.group? k = t.group? k) (hwaves : ∀ k, k ≠ w.id → a.wave? k = b.wave? k) :
    s.laterEntry g w = t.laterEntry g w := by
  funext e
  cases e with
  | mpoint => rfl
  | cmd facet core gid wid seq =>
    by_cases hg : gid = g.id
    · subst hg
      by_cases hw : wid = w.id
      · subst hw
        simp [State.laterEntry, hs, ht]
      · simp only [State.laterEntry, hs, ht, hclock, hwaves wid hw, Option.any_some]
    · simp only [State.laterEntry, hgroups gid hg]

/-- What an issue finds is what the wave set to issue takes up. -/
theorem State.context_issuer {s : State} {f : Form} {c : Ctx} (h : s.context f = some c) :
    ∃ g w, s.issuer? = some (g, w, c.path) ∧ s.group? g.id = some g ∧ c.grp = g.setWave c.wave := by
  unfold State.context at h
  split at h
  · cases h
  · rename_i g w p hi
    obtain rfl := Option.some.inj h
    refine ⟨g, w, hi, ?_, rfl⟩
    simp only [State.issuer?, Option.bind_eq_bind, Option.bind_eq_some_iff, Option.pure_def, Option.some.injEq, Prod.mk.injEq] at hi
    obtain ⟨⟨gi, wi⟩, -, g', hg, w', -, p', -, rfl, rfl, rfl⟩ := hi
    rwa [State.group?_id s hg]

section
variable {s : State} {gid wid : Nat} {g : Group} {w : Wave} {o : Order}

/-- A command whose pages translate is added to its wave, and to the queue of its core if it is a matrix command. -/
theorem State.submit_of_pins {pins : List Pin} (hg : s.group? gid = some g) (hw : g.wave? wid = some w) (hsent : o.sent = 0)
    (hp : (s.translateAll g.facet w.core g.ctx o.effect.access.2 o.effect.access.1 []).1 = .ok pins) :
    ∃ tlb, let t := s.updWave gid wid (fun x => x.addCmd (o.cmd pins s.edges (o.die.getD g.die)) o.h);
      s.submit gid wid o = { t with
        tlb := tlb
        matq := if o.cls = 4 then insertMat (t.laterEntry g w) (.cmd g.facet w.core gid wid (w.nextSeq 4)) s.matq else s.matq } := by
  obtain ⟨tlb, htlb⟩ := State.TlbOnly.translateAll s g.facet w.core g.ctx o.effect.access.2 o.effect.access.1 []
  refine ⟨tlb, ?_⟩
  have hacc : o.effect.accessFrom o.sent = o.effect.access := by rw [hsent]; rfl
  simp only [State.submit, hg, hw, hacc, Option.elim_some, hp, htlb]
  rw [if_neg (by decide), if_neg (by decide)]
  split <;> rfl

/-- What no divisible task holds back is submitted. -/
theorem State.accept_of_unrecorded (hg : s.group? gid = some g) (hw : g.wave? wid = some w)
    (hr : g.div = false ∨ ∀ die, o.effect.record s gid die = none) : s.accept gid wid o = (s.submit gid wid o, true) := by
  have hnone : (if g.div then o.effect.record s gid (o.die.getD g.die) else none) = none := by
    rcases hr with h | h
    · simp [h]
    · simp [h]
  simp only [State.accept, hg, hw, Option.bind_some, Option.map_some, hnone]

end

/-! ### An issue that submits a command -/

/-- What a submitted command leaves before the issue ends: the issuing wave with the command and a latch tag, the queue of its core with
it, and nothing else changed but cached translations. -/
structure Ctx.Submitted (c : Ctx) (s : State) (o : Order) (tag : Option (MatKind × Ty × Nat)) (t : State) (g : Group) (w : Wave) :
    Prop where
  left    : c.Left s t g w
  state   : t = { s with groups := t.groups, tlb := t.tlb, matq := t.matq }
  queue   : t.matq = if o.cls = 4
    then insertMat (s.laterEntry c.grp c.wave) (.cmd c.grp.facet c.wave.core c.grp.id c.wave.id (c.wave.nextSeq 4)) s.matq else s.matq
  group   : g = { c.grp with waves := g.waves }
  wave    : w = { c.wave with cmds := w.cmds, seqs := w.seqs, order := w.order, h := w.h, latchTag := tag }
  ordered : c.Ordered o w

section
variable {c : Ctx} {s t : State} {f : Form} {o : Order} {os : Ctx → Order} {g : Group} {w : Wave}
  {tag : Option (MatKind × Ty × Nat)} {tags : Ctx → Option (MatKind × Ty × Nat)}

theorem Ctx.Ordered.congr {w' : Wave} (h : c.Ordered o w) (hc : w'.cmds = w.cmds) (hs : w'.seqs = w.seqs) (hh : w'.h = w.h) :
    c.Ordered o w' where
  cmd := hc ▸ h.cmd
  kept := hc ▸ h.kept
  others := hc ▸ h.others
  seqs := fun cls => by rw [← h.seqs, Wave.nextSeq, hs, Wave.nextSeq]
  handles := fun r => by rw [← h.handles, Wave.h?, hh, Wave.h?]

/-- The latch tag set after a command is submitted (R144, R164). -/
theorem Ctx.Submitted.setTag (h : c.Submitted s o tag t g w) (x : Option (MatKind × Ty × Nat)) :
    ∃ g', c.Submitted s o x (c.updWave t (fun w => { w with latchTag := x })) g' { w with latchTag := x } := by
  have hw := h.wave
  refine ⟨_, h.left.updWave _ fun _ => rfl, ?_, h.queue, ?_, ?_, h.ordered.congr rfl rfl rfl⟩
  · exact (congrArg (fun u : State => c.updWave u _) h.state :)
  · rw [h.group]
    rfl
  · rw [hw]

/-- The end of an issue that has submitted a command. -/
theorem Ctx.Submitted.finish (h : c.Submitted s (os c) tag t g w) (hf : c.Found s f) (op : Nat) (htag : tags c = tag) :
    AcceptedAs os tags (fun _ g => g) s c (c.finish op true t) := by
  subst htag
  obtain ⟨g', waits, er, parked, hleft, hg, ht, hfacets⟩ := Ctx.finish_left h.left op true
  have hsame := Wave.afterIssue_sameBut w c.path.id waits er true parked
  obtain ⟨hv, hs, hp⟩ := Wave.afterIssue_regs w c.path.id waits er true parked
  have htlb : (c.finish op true t).tlb = t.tlb := (congrArg State.tlb ht :)
  have hmatq : (c.finish op true t).matq = t.matq := (congrArg State.matq ht :)
  have hcmds : (w.afterIssue c.path.id waits er true parked).cmds = w.cmds := (congrArg Wave.cmds hsame :)
  have hseqs : (w.afterIssue c.path.id waits er true parked).seqs = w.seqs := (congrArg Wave.seqs hsame :)
  have hhandles : (w.afterIssue c.path.id waits er true parked).h = w.h := (congrArg Wave.h hsame :)
  refine ⟨g', _, hleft, ?state, ?facets, hmatq.trans h.queue, ?group, ?wave, ?tag, ?regs, h.ordered.congr hcmds hseqs hhandles, ?goesOn⟩
  case state =>
    rw [htlb, hmatq, ht, h.state]
  case facets =>
    have hkept : t.facets = s.facets := (congrArg State.facets h.state :)
    rw [State.sameFacets, ← hkept]
    exact hfacets
  case group => rw [hg, h.group]
  case wave =>
    have horder : (w.afterIssue c.path.id waits er true parked).order = w.order := (congrArg Wave.order hsame :)
    have htag : (w.afterIssue c.path.id waits er true parked).latchTag = w.latchTag := (congrArg Wave.latchTag hsame :)
    rw [Wave.sameButCmds, hcmds, hseqs, hhandles, horder, htag]
    refine hsame.trans ?_
    rw [h.wave]
    rfl
  case tag => exact (congrArg Wave.latchTag hsame).trans (congrArg Wave.latchTag h.wave :)
  case regs =>
    refine (Ctx.Mid.start c).regs.congr ?_ (hv.trans ?_) (hs.trans ?_) (hp.trans ?_)
    · rw [hg, h.group]
    all_goals rw [h.wave]
  case goesOn =>
    have hpaths : w.paths = c.wave.paths := (congrArg Wave.paths h.wave :)
    exact Wave.afterIssue_stands w c.path waits er parked (hpaths ▸ hf.path)

/-- The same of an issue that sets the latch tag in one case. -/
theorem Ctx.Submitted.finish_ite {p : Prop} [Decidable p] {x : Option (MatKind × Ty × Nat)} (h : c.Submitted s (os c) tag t g w)
    (hf : c.Found s f) (op : Nat) (htag : tags c = if p then x else tag) :
    AcceptedAs os tags (fun _ g => g) s c (c.finish op true (if p then c.updWave t (fun w => { w with latchTag := x }) else t)) := by
  by_cases hp : p
  · obtain ⟨g', hset⟩ := h.setTag x
    rw [if_pos hp] at htag ⊢
    exact hset.finish hf op htag
  · rw [if_neg hp] at htag ⊢
    exact h.finish hf op htag

/-- A command that is taken is submitted. -/
theorem Ctx.submit_submitted (h : s.context f = some c) (hsent : o.sent = 0) (htakes : c.Takes o) (hstage : o.stage ≠ .signalled) :
    ∃ g w, c.Submitted s o c.wave.latchTag (c.st.submit c.grp.id c.wave.id o) g w := by
  have hf := State.context_found h
  obtain ⟨a, -, -, ha, hgrp⟩ := State.context_issuer h
  obtain ⟨pins, hpins⟩ := Option.isSome_iff_exists.1 htakes.pages
  have hp : (c.st.translateAll c.grp.facet c.wave.core c.grp.ctx o.effect.access.2 o.effect.access.1 []).1 = .ok pins := by
    unfold Ctx.pinsFor at hpins
    split at hpins
    · rename_i e
      rw [e, Option.some.inj hpins]
    · cases hpins
  obtain ⟨tlb, ht⟩ := State.submit_of_pins hf.group hf.wave hsent hp
  set k := o.cmd pins c.st.edges (o.die.getD c.grp.die) with hk
  have hid : ∀ x : Wave, (x.addCmd k o.h).id = x.id := fun x => (congrArg Wave.id (x.addCmd_eq k o.h) :)
  have hleft := (Ctx.Left.start hf).updWave (fun x => x.addCmd k o.h) hid
  rw [ht]
  refine ⟨_, _, hleft.congr rfl, ?state, ?queue, rfl, ?wave, ?ordered⟩
  case wave => rw [Wave.addCmd_eq]
  case state => rw [State.updWave, State.updGroup, hf.rest]
  case queue =>
    have hmatq : c.st.matq = s.matq := (congrArg State.matq hf.rest :)
    have hid : c.grp.id = a.id := (congrArg Group.id hgrp :)
    have hclock : a.clock = c.grp.clock := (congrArg Group.clock hgrp :).symm
    have hlater := State.laterEntry_congr (g := c.grp) (w := c.wave) (hid ▸ ha) hleft.group hclock
      (fun j hj => (hleft.groups j hj).symm) fun j hj => ?_
    · rw [hmatq, hlater]
      rfl
    · rw [hleft.waves j hj, hgrp, Group.wave?_setWave_ne _ hj]
  case ordered =>
    refine ⟨⟨c.wave.entered k, c.wave.entered_mem_addCmd k o.h hstage, rfl, rfl, rfl, rfl, rfl, rfl, rfl, rfl, rfl, rfl, hpins⟩,
      fun j hj hs => c.wave.mem_addCmd_of_mem k o.h hj hs, fun j hj => ?_, c.wave.nextSeq_addCmd k o.h, c.wave.h?_addCmd k o.h⟩
    exact (c.wave.mem_or_eq_of_mem_addCmd k o.h hj).imp_right fun e => by rw [e]; exact ⟨rfl, rfl⟩

end

/-! ### Instructions that submit a command -/

section
variable {c : Ctx} {s : State} {f : Form} {cls : Nat} {e : Effect} {h : Option Nat} {rel : Bool} {status : Byte}

theorem Ctx.command_full (hfull : c.full cls = true) : c.command cls e h rel status = .wait false c.st := by
  rw [Ctx.command, if_pos hfull]

theorem Ctx.command_unkeyed (hfull : c.full cls = false) (ha : e.access.1 ≠ []) (hk : c.st.keyBound c.grp.ctx = false) :
    c.command cls e h rel status = .fault codeKey := by
  simp [Ctx.command, hfull, ha, hk]

theorem Ctx.command_of_takes (hf : c.Found s f) (htakes : c.Takes (c.order cls e h rel status))
    (hr : c.divisible = false ∨ ∀ die, e.record c.st c.grp.id die = none) :
    c.command cls e h rel status = .done (c.st.submit c.grp.id c.wave.id (c.order cls e h rel status)) := by
  have hfull : c.full cls = false := htakes.room
  have hkey : (!e.access.1.isEmpty && !c.st.keyBound c.grp.ctx) = false := by
    rcases htakes.key with hk | hk
    · simp [show e.access.1 = [] from hk]
    · simp [hk]
  have haccept := State.accept_of_unrecorded (o := c.order cls e h rel status) hf.group hf.wave hr
  rw [Ctx.order] at haccept
  rw [Ctx.command, hfull, hkey, haccept]
  rfl

end

section
variable {i : Instr} {op : Nat} {f : Form} {d a b : Allow} {x : Option Allow} {ok : Ctx → Prop} {extra : Ctx → Bool} {body : Ctx → Res}
  {cls : Nat} {e : Ctx → Effect} {h : Option Nat} {rel : Bool} {status : Ctx → Byte}

/-- An instruction whose body is a command that no divisible task holds back. -/
theorem submits_command (hi : ∀ s, exec i s = issueInstr op f s d a b x extra body) (he : ∀ c, c.form = f → ok c → extra c = true)
    (hb : ∀ c, c.form = f → ok c → body c = c.command cls (e c) h rel (status c))
    (hr : ∀ c, ok c → c.divisible = false ∨ ∀ die, (e c).record c.st c.grp.id die = none) :
    Submits i op f d a b x ok (fun c => c.order cls (e c) h rel (status c)) := by
  refine ⟨effects_done (fun s _ _ _ => hi s) (fun c hf hok => he c hf hok.1) fun s c hf hctx ⟨hok, htakes⟩ => ?_,
    effects_wait (fun s _ _ _ => hi s) (fun c hf hok => he c hf hok.1) fun c hf ⟨hok, hfull⟩ =>
      (hb c hf hok).trans (Ctx.command_full hfull),
    effects_fault (by decide) (fun s _ _ _ => hi s) (fun c hf hok => he c hf hok.1) fun c hf ⟨hok, hfull, ha, hk⟩ =>
      (hb c hf hok).trans (Ctx.command_unkeyed hfull ha hk)⟩
  obtain ⟨g, w, hsub⟩ := Ctx.submit_submitted hctx rfl htakes (by simp [Ctx.order])
  exact ⟨_, (hb c hf.form hok).trans (Ctx.command_of_takes hf htakes (hr c hok)), hsub.finish hf op rfl⟩

end

end Sys2Proof.Machine
end

section
/-! SUPPORT. Stores written in a loop: the tiles of a group, its shared memory and a block of v registers (R139 to R141, R160, R161). -/

namespace Sys2Proof.Machine

open Sys2Proof

/-! ### Stores written in a loop -/

/-- A key of a store after a loop of writes, of which those to that key all write one value. -/
theorem look_foldl_put {α β : Type} [DecidableEq α] (d : α) (key : β → Nat) (val : β → α) {q : Nat} {v : α} (xs : List β)
    (m : SMap α) (h : ∀ x ∈ xs, key x = q → val x = v) :
    look d (xs.foldl (fun m x => put d m (key x) (val x)) m) q = if ∃ x ∈ xs, key x = q then v else look d m q := by
  induction xs generalizing m with
  | nil => simp
  | cons x xs ih =>
    rw [List.foldl_cons, ih _ fun y hy => h y (List.mem_cons_of_mem _ hy), look_put]
    by_cases hx : key x = q
    · simp [hx, h x List.mem_cons_self hx]
    · simp [hx, Ne.symm hx]

/-- The same of two nested loops. -/
theorem look_foldl_foldl_put {α β γ : Type} [DecidableEq α] (d : α) (key : β → γ → Nat) (val : β → γ → α) {q : Nat} {v : α}
    (xs : List β) (ys : List γ) (m : SMap α) (h : ∀ x ∈ xs, ∀ y ∈ ys, key x y = q → val x y = v) :
    look d (xs.foldl (fun m x => ys.foldl (fun m y => put d m (key x y) (val x y)) m) m) q
      = if ∃ x ∈ xs, ∃ y ∈ ys, key x y = q then v else look d m q := by
  have hflat : xs.foldl (fun m x => ys.foldl (fun m y => put d m (key x y) (val x y)) m) m
      = (xs ×ˢ ys).foldl (fun m z => put d m (key z.1 z.2) (val z.1 z.2)) m := by
    simp [SProd.sprod, List.product, List.foldl_flatMap, List.foldl_map]
  rw [hflat, look_foldl_put d (fun z : β × γ => key z.1 z.2) (fun z => val z.1 z.2) (v := v)]
  · simp [and_assoc]
  · rintro ⟨x, y⟩ hz hk
    obtain ⟨hx, hy⟩ := List.mem_product.1 hz
    exact h x hx y hy hk

theorem word_toNat (x : Nat) : (word x).toNat = x % 2 ^ 32 := BitVec.toNat_ofNat ..

/-- Elements by number and lane, as an A block or the window of a tile keeps them (R142, R157). -/
theorem look_lanes (n : Nat) (val : Nat → Nat → Word) {k l : Nat} (hl : l < 64) :
    look 0 ((List.range n).foldl (fun m i => allLanes.foldl (fun m j => put 0 m (i * 64 + j) (val i j)) m) []) (k * 64 + l)
      = if k < n then val k l else 0 := by
  have hkey {i j : Nat} (hj : j ∈ allLanes) : i * 64 + j = k * 64 + l ↔ i = k ∧ j = l := by
    have := List.mem_range.1 hj
    omega
  rw [look_foldl_foldl_put 0 (fun i j => i * 64 + j) val (v := val k l)]
  · refine if_congr ⟨?_, fun h => ⟨k, List.mem_range.2 h, l, List.mem_range.2 hl, rfl⟩⟩ rfl rfl
    rintro ⟨i, hi, j, hj, e⟩
    obtain ⟨rfl, -⟩ := (hkey hj).1 e
    exact List.mem_range.1 hi
  · intro i _ j hj e
    obtain ⟨rfl, rfl⟩ := (hkey hj).1 e
    rfl

/-! ### Tiles -/

theorem tileKey_inj {c c' t t' i i' j j' : Nat} (ht : t < 32) (ht' : t' < 32) (hi : i < 64) (hi' : i' < 64) (hj : j < 64) (hj' : j' < 64) :
    tileKey c t i j = tileKey c' t' i' j' ↔ (c = c' ∧ t = t') ∧ i = i' ∧ j = j' := by
  unfold tileKey
  omega

theorem tileKey_div {c t i j : Nat} (hi : i < 64) (hj : j < 64) : tileKey c t i j / 4096 = c * 32 + t := by
  unfold tileKey
  omega

/-- Rows written are read as written, and every other element as before. -/
theorem Group.tile_writeRows (g : Group) {core core' t t' l j : Nat} (m : Mask) (val : Nat → Nat → Nat) (ht : t < 32) (ht' : t' < 32)
    (hl : l < 64) (hj : j < 64) :
    (g.writeRows core t m val).tile core' t' l j
      = if core' = core ∧ t' = t ∧ m.getLsbD l = true then val l j % 2 ^ 32 else g.tile core' t' l j := by
  have hkey {x y : Nat} (hx : x ∈ lanesOf m) (hy : y ∈ allLanes) :
      tileKey core t x y = tileKey core' t' l j ↔ (core = core' ∧ t = t') ∧ x = l ∧ y = j :=
    tileKey_inj ht ht' ((mem_lanesOf m x).1 hx).1 hl (List.mem_range.1 hy) hj
  have hlook := look_foldl_foldl_put 0 (tileKey core t) (fun l j => word (val l j)) (q := tileKey core' t' l j) (v := word (val l j))
    (lanesOf m) allLanes g.tiles (by
      intro x hx y hy e
      obtain ⟨-, rfl, rfl⟩ := (hkey hx hy).1 e
      rfl)
  have hwritten : (∃ x ∈ lanesOf m, ∃ y ∈ allLanes, tileKey core t x y = tileKey core' t' l j)
      ↔ core' = core ∧ t' = t ∧ m.getLsbD l = true := by
    constructor
    · rintro ⟨x, hx, y, hy, e⟩
      obtain ⟨⟨rfl, rfl⟩, rfl, rfl⟩ := (hkey hx hy).1 e
      exact ⟨rfl, rfl, ((mem_lanesOf m x).1 hx).2⟩
    · rintro ⟨rfl, rfl, hm⟩
      exact ⟨l, (mem_lanesOf m l).2 ⟨hl, hm⟩, j, List.mem_range.2 hj, rfl⟩
  rw [Group.tile, Group.writeRows, hlook, if_congr hwritten rfl rfl]
  split
  · exact word_toNat _
  · rfl

theorem Group.tile_release (g : Group) {core core' t t' l j : Nat} (ht : t < 32) (ht' : t' < 32) (hl : l < 64) (hj : j < 64) :
    (g.release core t).tile core' t' l j = if core' = core ∧ t' = t then 0 else g.tile core' t' l j := by
  rw [Group.tile, Group.release, look_keepKeys, tileKey_div hl hj]
  by_cases h : core' = core ∧ t' = t
  · simp [h]
  · have : core' * 32 + t' ≠ core * 32 + t := by omega
    simp [h, this, Group.tile]

section
variable (core : Nat) (mask : Word)

/-- A release leaves everything but the tiles. -/
theorem Group.releaseMask_eq (g : Group) :
    g.releaseMask core mask = { g with
      tiles := (g.releaseMask core mask).tiles
      inUse := (g.releaseMask core mask).inUse
      badTiles := (g.releaseMask core mask).badTiles } :=
  List.foldlRecOn _ _ (motive := fun x : Group => x = { g with tiles := x.tiles, inUse := x.inUse, badTiles := x.badTiles }) rfl
    fun x hx t _ => by rw [hx]; rfl

theorem Group.tile_releaseMask (g : Group) {core' t l j : Nat} (ht : t < 32) (hl : l < 64) (hj : j < 64) :
    (g.releaseMask core mask).tile core' t l j = if core' = core ∧ mask.getLsbD t = true then 0 else g.tile core' t l j := by
  have hlist (ts : List Nat) (hts : ∀ x ∈ ts, x < 32) (g : Group) :
      (ts.foldl (fun g t => g.release core t) g).tile core' t l j = if core' = core ∧ t ∈ ts then 0 else g.tile core' t l j := by
    induction ts generalizing g with
    | nil => simp
    | cons x xs ih =>
      rw [List.foldl_cons, ih (fun y hy => hts y (List.mem_cons_of_mem _ hy)), Group.tile_release g (hts x List.mem_cons_self) ht hl hj]
      by_cases hx : t = x <;> by_cases hc : core' = core <;> simp [hx, hc]
  rw [Group.releaseMask, hlist _ fun x hx => List.mem_range.1 (List.mem_filter.1 hx).1]
  simp [ht, bit]

theorem Group.mem_inUse_releaseMask (g : Group) {core' t : Nat} (ht : t < 32) :
    core' * 32 + t ∈ (g.releaseMask core mask).inUse
      ↔ core' * 32 + t ∈ g.inUse ∧ ¬(core' = core ∧ mask.getLsbD t = true) := by
  have hlist (ts : List Nat) (hts : ∀ x ∈ ts, x < 32) (g : Group) :
      core' * 32 + t ∈ (ts.foldl (fun g t => g.release core t) g).inUse ↔ core' * 32 + t ∈ g.inUse ∧ ¬(core' = core ∧ t ∈ ts) := by
    induction ts generalizing g with
    | nil => simp
    | cons x xs ih =>
      have hsame : core' * 32 + t = core * 32 + x ↔ core' = core ∧ t = x := by
        have := hts x List.mem_cons_self
        omega
      rw [List.foldl_cons, ih fun y hy => hts y (List.mem_cons_of_mem _ hy)]
      simp only [Group.release, List.mem_filter, decide_not, Bool.not_eq_true', decide_eq_false_iff_not, hsame, List.mem_cons]
      tauto
  rw [Group.releaseMask, hlist _ fun x hx => List.mem_range.1 (List.mem_filter.1 hx).1]
  simp [ht, bit]

end

/-! ### Shared memory -/

theorem length_flatMap_range {α : Type} (f : Nat → List α) {n : Nat} (hf : ∀ j, (f j).length = n) (m : Nat) :
    ((List.range m).flatMap f).length = m * n := by
  simp [List.length_flatMap, hf]

/-- A byte of a list of elements of one size. -/
theorem getElem?_flatMap_range {α : Type} (f : Nat → List α) {n : Nat} (hf : ∀ j, (f j).length = n) (m : Nat) {i : Nat}
    (hi : i < m * n) : ((List.range m).flatMap f)[i]? = (f (i / n))[i % n]? := by
  induction m with
  | zero => omega
  | succ m ih =>
    rw [List.range_succ, List.flatMap_append, List.getElem?_append, length_flatMap_range f hf]
    split
    · rename_i h
      exact ih h
    · rename_i h
      have hlt : i < n * (m + 1) := by rwa [Nat.mul_comm]
      have hdiv : i / n = m := Nat.div_eq_of_lt_le (Nat.le_of_not_lt h) hi
      have hmod : i % n = i - m * n := by
        have := Nat.div_add_mod i n
        rw [hdiv, Nat.mul_comm] at this
        omega
      simp [hdiv, hmod]

theorem getElem?_toBytes (n x : Nat) {i : Nat} (h : i < n) : (toBytes n x)[i]? = some (BitVec.ofNat 8 (x / 2 ^ (8 * i))) := by
  induction n generalizing x i with
  | zero => omega
  | succ n ih =>
    cases i with
    | zero => simp [toBytes]
    | succ i =>
      rw [toBytes, List.getElem?_cons_succ, ih _ (by omega), Nat.div_div_eq_div_mul, Nat.mul_succ, Nat.add_comm (8 * i), Nat.pow_add]

/-- A byte after a list of bytes is written. -/
theorem Memory.read_writeBytes (m : Memory) (a b : Nat) (bs : List Byte) :
    (m.writeBytes a bs).read b = if a ≤ b ∧ b < a + bs.length then bs.getD (b - a) 0 else m.read b := by
  split
  · rename_i h
    have hin := Memory.read_writeBytes_inside bs m a (b - a) (by omega)
    rw [Nat.add_sub_cancel' h.1] at hin
    rw [hin, List.getD_eq_getElem?_getD, List.getElem?_eq_getElem (by omega), Option.getD_some]
  · rename_i h
    exact Memory.read_writeBytes_outside bs m a b (by omega)

section
variable (addr : Nat → Nat) (bytes : Nat → List Byte) (ls : List Nat) (g : Group)

/-- Stores of some lanes to shared memory, one after another: a byte is that of the last lane that stores it. -/
theorem Group.read_foldl_storeShared (a : Nat) :
    (ls.foldl (fun g l => g.storeShared (addr l) (bytes l)) g).shared.read a
      = ls.foldl (fun b l => if addr l ≤ a ∧ a < addr l + (bytes l).length then (bytes l).getD (a - addr l) 0 else b) (g.shared.read a) := by
  induction ls generalizing g with
  | nil => rfl
  | cons l ls ih => rw [List.foldl_cons, ih, List.foldl_cons, Group.storeShared, Memory.read_writeBytes]

/-- They leave everything but shared memory and the reservations on it. -/
theorem Group.foldl_storeShared_eq :
    ls.foldl (fun g l => g.storeShared (addr l) (bytes l)) g = { g with
      shared := (ls.foldl (fun g l => g.storeShared (addr l) (bytes l)) g).shared
      badShared := (ls.foldl (fun g l => g.storeShared (addr l) (bytes l)) g).badShared
      waves := (ls.foldl (fun g l => g.storeShared (addr l) (bytes l)) g).waves } :=
  List.foldlRecOn _ _ (motive := fun x : Group => x = { g with shared := x.shared, badShared := x.badShared, waves := x.waves }) rfl
    fun x hx l _ => by rw [hx]; rfl

end

/-! ### Registers -/

section
variable (base : Nat) (m : Mask) (val : Nat → Nat → Word) (w : Wave)

/-- A block of v registers set. -/
theorem Wave.v?_foldl_setV (n : Nat) {r l : Nat} (hl : l < 64) :
    ((List.range n).foldl (fun w i => w.setV (base + i) m (val i)) w).v? r l
      = if base ≤ r ∧ r < base + n ∧ m.getLsbD l = true then val (r - base) l else w.v? r l := by
  induction n with
  | zero => simp; omega
  | succ n ih =>
    rw [List.range_succ, List.foldl_append, List.foldl_cons, List.foldl_nil, Wave.v?_setV _ _ _ _ _ _ hl, ih]
    by_cases hr : r = base + n
    · subst hr
      simp
    · have : r < base + (n + 1) ↔ r < base + n := by omega
      simp [hr, this]

theorem Wave.foldl_setV_eq (is : List Nat) :
    is.foldl (fun w i => w.setV (base + i) m (val i)) w = { w with v := (is.foldl (fun w i => w.setV (base + i) m (val i)) w).v } :=
  List.foldlRecOn _ _ (motive := fun x : Wave => x = { w with v := x.v }) rfl fun x hx i _ => by rw [hx]; rfl

end

/-- A v register within an allotment stands where the others are taken away. -/
theorem Wave.v?_keepKeys (w : Wave) (n : Nat) {r l : Nat} (hl : l < 64) :
    ({ w with v := keepKeys (fun k => k < n * 64) w.v } : Wave).v? r l = if n ≤ r then 0 else w.v? r l := by
  have hkey : r * 64 + l < n * 64 ↔ ¬n ≤ r := by omega
  rw [Wave.v?, look_keepKeys]
  by_cases h : n ≤ r <;> simp [hkey, h, Wave.v?]

end Sys2Proof.Machine
end

section
/-! PROOF. O35 (`Obligations.TileResults`): a matrix command performed whole, the latch that it leaves and the rows that it writes (R144,
R156 to R162). -/

namespace Sys2Proof.Machine

open Sys2Proof

section
variable {g : Group} {wid : Nat} {w : Wave} {m : MatCmd} {mask : Mask}

/-! ### A command performed whole -/

/-- A group with the latch of a wave set. -/
def Group.setLatch (g : Group) (wid : Nat) (x : Option Latch) : Group := g.updWave wid (fun w => { w with latch := x })

theorem Group.wave?_setLatch (h : g.wave? wid = some w) (x : Option Latch) :
    (g.setLatch wid x).wave? wid = some { w with latch := x } :=
  (Group.wave?_updWave _ _ _ (by exact fun _ => rfl)).trans (congrArg (Option.map _) h)

theorem Group.wave?_setLatch_ne (g : Group) {wid k : Nat} (x : Option Latch) (hk : k ≠ wid) : (g.setLatch wid x).wave? k = g.wave? k :=
  Group.wave?_updWave_ne _ _ (by exact fun _ => rfl) hk

/-- The effect of a command, and the latch that it leaves. -/
theorem Group.engine_eq (h : g.wave? wid = some w) (m : MatCmd) (mask : Mask) :
    g.engine wid m mask false [] [] = (m.run mask [] [] g w).setLatch wid (m.latchAfter false g w) := by
  simp only [Group.engine, h, Bool.false_eq_true, if_false]
  rfl

/-- Only the multiplications and MRELA touch the latch (R144, R164). -/
theorem MatCmd.latchAfter_other (h : m.kind ∉ [.mma, .mmab, .mrela]) (cancelled : Bool) : m.latchAfter cancelled g w = w.latch := by
  unfold MatCmd.latchAfter
  split <;> simp_all

theorem MatCmd.latchAfter_mma (h : m.kind = .mma) (cancelled : Bool) :
    m.latchAfter cancelled g w = if m.reuse then w.latch else some ⟨m.kind, m.ty, m.var, m.aval⟩ := by
  simp only [MatCmd.latchAfter, h]
  split
  · rfl
  · rename_i hr
    simp [MatCmd.operand, hr, h]

theorem MatCmd.latchAfter_mmab (h : m.kind = .mmab) (cancelled : Bool) :
    m.latchAfter cancelled g w = if m.reuse then w.latch else some ⟨m.kind, m.ty, m.var, m.operand g w⟩ := by
  simp only [MatCmd.latchAfter, h]

/-! ### What each command that writes a tile does (R156 to R162) -/

theorem MatCmd.run_mzero (h : m.kind = .mzero) : m.run mask [] [] g w = g.writeRows w.core m.d mask (fun _ _ => 0) := by
  simp only [MatCmd.run, h]

/-- With nothing read before, the engine takes B as it stands. -/
theorem bSeen_nil (g : Group) (x : DWord) : bSeen g [] x = bElem g x := funext₂ fun k n => bSeen_unread g [] x k n rfl

theorem MatCmd.run_mma (h : m.kind = .mma) :
    m.run mask [] [] g w = g.writeRows w.core m.d mask (fun l j => dotRound
      ((List.range (elemDepth (elemCode g.slots m.ty (m.var % 8)))).map (fun k =>
        (aElem (if m.reuse then w.latch.elim [] Latch.aval else m.aval) (elemCode g.slots m.ty (m.var % 8))
          (slotExtra (g.slots.getD (m.var % 8) 0)) l k, bElem g m.map k j)))
      (dec .f32 (g.tile w.core m.d l j)) .rn) := by
  simp [MatCmd.run, Group.accumulate, MatCmd.operand, h, bSeen_nil]

theorem MatCmd.run_mmab (h : m.kind = .mmab) (hr : m.reuse = false) :
    m.run mask [] [] g w = g.writeRows w.core m.d mask (fun l j => dotRound
      ((List.range (elemDepth (elemCode g.slots m.ty (m.var % 8)))).map (fun k =>
        (dec (fmtOf m.ty) (look 0 (g.window w.core m) (k * 64 + l)).toNat, bElem g m.map k j)))
      (dec .f32 (g.tile w.core m.d l j)) .rn) := by
  simp [MatCmd.run, Group.accumulate, MatCmd.operand, h, hr, bSeen_nil]

theorem MatCmd.run_mlda (h : m.kind = .mlda) :
    m.run mask [] [] g w = g.writeRows w.core m.d mask (fun l j => roundF (dec (fmtOf m.ty)
      (g.sharedNum ((look 0 m.args l).toNat + j * tySize m.ty) (tySize m.ty))) .f32 .rn false) := by
  simp only [MatCmd.run, h, look_nil]

theorem MatCmd.run_maddt (h : m.kind = .maddt) :
    m.run mask [] [] g w = g.writeRows w.core m.d mask (fun l j => dotRound [(dec .f32 (g.tile w.core m.a l j), .one)]
      (if m.var < 8 then dec .f32 (g.tile w.core m.b l j) else (dec .f32 (g.tile w.core m.b l j)).negate)
      (modeOf (BitVec.ofNat 4 m.var))) := by
  simp only [MatCmd.run, h, ← Nat.not_lt, ite_not]

theorem MatCmd.run_mscl (h : m.kind = .mscl) :
    m.run mask [] [] g w = g.writeRows w.core m.d mask (fun l j => mulTo .f32 (dec .f32 (g.tile w.core m.a l j))
      (dec .f32 (look 0 m.args (if m.var < 8 then l else j)).toNat) (modeOf (BitVec.ofNat 4 m.var))) := by
  simp only [MatCmd.run, h, ← Nat.not_lt, ite_not]

/-- The converted window of a tile, element by element (R157). -/
theorem Group.look_window (g : Group) (core : Nat) (m : MatCmd) {k l : Nat} (hl : l < 64) :
    (look 0 (g.window core m) (k * 64 + l)).toNat = if k < elemDepth (elemCode [] m.ty 0)
      then roundF (dec .f32 (g.tile core m.a l (m.var * elemDepth (elemCode [] m.ty 0) + k))) (fmtOf m.ty) .rn
        (m.ty = .f8e4 || m.ty = .f8e5) % 2 ^ 32
      else 0 := by
  rw [Group.window, look_lanes _ _ hl]
  split
  · exact word_toNat _
  · rfl

/-! ### Rows of tiles -/

/-- A command of a wave that writes rows of its destination: the rows in the lanes of its mask take the values, the wave its latch, and
everything else of the group is as it was. -/
def Group.RowsWritten (g : Group) (wid : Nat) (w : Wave) (m : MatCmd) (mask : Mask) (latch : Option Latch) (val : Nat → Nat → Nat) :
    Prop :=
  let g' := g.engine wid m mask false [] []
  (∀ k, k ≠ wid → g'.wave? k = g.wave? k)
  ∧ g'.wave? wid = some { w with latch := latch }
  ∧ g'.waves.length = g.waves.length
  ∧ (∀ core t l j, t < 32 → l < 64 → j < 64 → g'.tile core t l j =
    if core = w.core ∧ t = m.d ∧ mask.getLsbD l = true then val l j % 2 ^ 32 else g.tile core t l j)
  ∧ g' = { g with
      tiles := g'.tiles
      inUse := g'.inUse
      badTiles := g'.badTiles
      waves := g'.waves }
  ∧ (m.d < 32 → mask ≠ 0 → w.core * 32 + m.d ∈ g'.inUse)

theorem Group.rowsWritten {val val' : Nat → Nat → Nat} {latch : Option Latch} (h : g.wave? wid = some w) (hd : m.d < 32)
    (hrun : m.run mask [] [] g w = g.writeRows w.core m.d mask val) (hlatch : m.latchAfter false g w = latch)
    (hval : ∀ l j, l < 64 → val l j = val' l j) : g.RowsWritten wid w m mask latch val' := by
  rw [Group.RowsWritten, Group.engine_eq h, hrun, hlatch]
  refine ⟨fun k hk => Group.wave?_setLatch_ne _ latch hk, Group.wave?_setLatch h latch, List.length_map _, fun core t l j ht hl hj => ?_,
    rfl, fun _ _ => List.mem_cons_self⟩
  exact (g.tile_writeRows mask val hd ht hl hj).trans (by rw [hval l j hl])

end

/-- Settles O35: every command that writes a tile is `writeRows` of its values (`Group.rowsWritten`), the A values of MMAB being the
window of its tile (`Group.look_window`). -/
theorem tileResults : Obligations.TileResults := by
  unfold Obligations.TileResults
  intro g wid w m mask hw old num mode e aval rows filled hd
  have latch (h : m.kind ∉ [.mma, .mmab, .mrela]) : m.latchAfter false g w = w.latch := MatCmd.latchAfter_other h false
  exact ⟨fun hk => Group.rowsWritten hw hd (MatCmd.run_mzero hk) (latch (by simp [hk])) fun _ _ _ => rfl,
    fun hk => Group.rowsWritten hw hd (MatCmd.run_mma hk) (MatCmd.latchAfter_mma hk false) fun _ _ _ => rfl,
    fun hk hr _ _ => Group.rowsWritten hw hd (MatCmd.run_mmab hk hr) rfl fun l j hl => by simp only [Group.look_window _ _ _ hl]; rfl,
    fun hk => MatCmd.latchAfter_mmab hk false,
    fun hk => Group.rowsWritten hw hd (MatCmd.run_mlda hk) (latch (by simp [hk])) fun _ _ _ => rfl,
    fun hk => Group.rowsWritten hw hd (MatCmd.run_maddt hk) (latch (by simp [hk])) fun _ _ _ => rfl,
    fun hk => Group.rowsWritten hw hd (MatCmd.run_mscl hk) (latch (by simp [hk])) fun _ _ _ => rfl⟩

end Sys2Proof.Machine
end

section
/-! PROOF. O36 (`Obligations.TilesLeave`): the tiles, registers and shared memory after MRELA, MEMIT and MSTA (R141, R160, R161, R164). -/

namespace Sys2Proof.Machine

open Sys2Proof

section
variable {g : Group} {wid : Nat} {w : Wave} {m : MatCmd} {mask : Mask}

/-! ### What each command that takes from a tile does (R160, R161, R164) -/

theorem MatCmd.run_mrela (h : m.kind = .mrela) : m.run mask [] [] g w = g.releaseMask w.core (look 0 m.args 0) := by
  simp only [MatCmd.run, h]

/-- The wave after an MEMIT has written its registers, those beyond the allotment apart (R161). -/
def Wave.emitted (w : Wave) (g : Group) (m : MatCmd) (mask : Mask) : Wave :=
  let n := if m.ty = .f32 then emitCols m.var else emitCols m.var / 2
  let x := (List.range n).foldl (fun w' i => w'.setV (m.d + i) mask (fun l => word (emitReg g w.core m i l))) w
  { x with v := keepKeys (fun k => k < g.cur.v * 64) x.v }

theorem emitReg_eq (g : Group) (core : Nat) (m : MatCmd) (i l : Nat) :
    emitReg g core m i l =
      let x := fun j => roundF (dec .f32 (g.tile core m.a l (m.col + j))) (fmtOf m.ty) (modeOf (BitVec.ofNat 4 m.var)) false
      if m.ty = .f32 then x i else x (2 * i) + 2 ^ 16 * x (2 * i + 1) :=
  ite_congr rfl (fun _ => rfl) fun _ => congrArg _ (Nat.mul_comm _ _)

theorem MatCmd.run_memit (h : m.kind = .memit) : m.run mask [] [] g w = g.setWave (w.emitted g m mask) := by
  simp only [MatCmd.run, h]
  rfl

theorem Wave.emitted_id : (w.emitted g m mask).id = w.id := by
  rw [Wave.emitted, Wave.foldl_setV_eq]

theorem Wave.v?_emitted {r l : Nat} (hl : l < 64) :
    (w.emitted g m mask).v? r l = if g.cur.v ≤ r then 0
      else if m.d ≤ r ∧ r < m.d + (if m.ty = .f32 then emitCols m.var else emitCols m.var / 2) ∧ mask.getLsbD l = true
        then word (emitReg g w.core m (r - m.d) l) else w.v? r l :=
  (Wave.v?_keepKeys _ _ hl).trans (if_congr Iff.rfl rfl (Wave.v?_foldl_setV _ _ _ _ _ hl))

theorem MatCmd.length_stored (core l j : Nat) : (m.stored g core l j).length = tySize m.ty := length_toBytes _ _

theorem MatCmd.length_storedRow (core l : Nat) : (allLanes.flatMap (m.stored g core l)).length = 64 * tySize m.ty :=
  length_flatMap_range _ (MatCmd.length_stored core l) 64

/-- A byte of the row that MSTA stores in a lane (R160). -/
theorem MatCmd.getD_storedRow (core l : Nat) {i : Nat} (hi : i < 64 * tySize m.ty) :
    (allLanes.flatMap (m.stored g core l)).getD i 0 = BitVec.ofNat 8 (roundF (dec .f32 (g.tile core m.b l (i / tySize m.ty))) (fmtOf m.ty)
      (modeOf (BitVec.ofNat 4 m.var)) (m.var / 4 % 2 = 1) / 2 ^ (8 * (i % tySize m.ty))) := by
  have hpos : 0 < tySize m.ty := by omega
  rw [List.getD_eq_getElem?_getD, allLanes, getElem?_flatMap_range _ (MatCmd.length_stored core l) 64 hi, MatCmd.stored,
    getElem?_toBytes _ _ (Nat.mod_lt _ hpos), Option.getD_some]

/-- MSTA stores its rows, the highest lane last. -/
theorem MatCmd.run_msta (h : m.kind = .msta) :
    m.run mask [] [] g w = ((lanesOf mask).foldl (fun g' l => g'.storeShared (look 0 m.args l).toNat
      (allLanes.flatMap (m.stored g w.core l))) g).replaced ((lanesOf mask).map (fun l => ((look 0 m.args l).toNat, 64 * tySize m.ty))) := by
  simp only [MatCmd.run, h, List.isEmpty_nil, if_true]

end

/-- Settles O36: each command is its loop, of releases (`Group.tile_releaseMask`), of registers (`Wave.v?_emitted`) or of stored rows
(`Group.read_foldl_storeShared`). -/
theorem tilesLeave : Obligations.TilesLeave := by
  unfold Obligations.TilesLeave
  intro g wid w m mask hw g' mode out
  have hg' : g' = (m.run mask [] [] g w).setLatch wid (m.latchAfter false g w) := Group.engine_eq hw m mask
  refine ⟨fun hk => ?mrela, fun hk => ?memit, fun hk => ?msta⟩
  case mrela =>
    rw [MatCmd.run_mrela hk] at hg'
    refine ⟨fun core t l j ht hl hj => ?_, fun core t ht => ?_, ?_⟩
    · rw [hg']
      exact Group.tile_releaseMask w.core _ g ht hl hj
    · rw [hg']
      exact Group.mem_inUse_releaseMask w.core _ g ht
    · rw [hg', Group.releaseMask_eq]
      rfl
  case memit =>
    have hid : (w.emitted g m mask).id = wid := Wave.emitted_id.trans (g.wave?_id hw)
    rw [MatCmd.run_memit hk, MatCmd.latchAfter_other (by simp [hk])] at hg'
    refine ⟨{ w.emitted g m mask with latch := w.latch }, ?_, ?_, fun r l hl => ?_⟩
    · rw [hg']
      exact Group.wave?_setLatch (hid ▸ Group.wave?_setWave (hid ▸ hw)) _
    · rw [hg']
      rfl
    · refine (Wave.v?_emitted hl).trans ?_
      simp only [emitReg_eq]
      rfl
  case msta =>
    rw [MatCmd.run_msta hk] at hg'
    intro n
    refine ⟨fun a => ?_, ?_, ?_, ?_⟩
    · rw [hg']
      refine (Group.read_foldl_storeShared _ _ _ g a).trans ?_
      refine congrArg (fun F => (lanesOf mask).foldl F (g.shared.read a)) (funext₂ fun b l => ?_)
      rw [MatCmd.length_storedRow]
      exact ite_congr rfl (fun h => MatCmd.getD_storedRow _ _ (by omega)) fun _ => rfl
    all_goals
      rw [hg', Group.foldl_storeShared_eq]
      rfl

end Sys2Proof.Machine
end

section
/-! PROOF. O34 (`Obligations.MatrixCommands`): the checks of the matrix instructions, and the latch tag after a multiplication (R144,
R148, R156, R160, R163). -/

namespace Sys2Proof.Machine

open Sys2Proof

/-! ### Operand maps and row offsets -/

theorem mapOk_iff {slots : List (BitVec 16)} {sh e : Nat} {m : DWord} :
    mapOk slots sh e m = true ↔
      mapFmt m ≠ 0 ∧ 1 ≤ e ∧ e ≤ 6 ∧ 1 ≤ mapElem slots m ∧ mapElem slots m ≤ 6 ∧ elemDepth e = elemDepth (mapElem slots m)
        ∧ (mapElem slots m = 6 → mapKmaj m = true) ∧ mapBase m + mapSpan slots m ≤ sh := by
  simp [mapOk, and_assoc, imp_iff_not_or]

section
variable {c : Ctx} {f : Form}

/-- The offset of every active lane is one that MLDA and MSTA take (R159, R160). -/
def Ctx.RowsFit (c : Ctx) (f : Form) : Prop :=
  ∀ l, c.act.getLsbD l = true → c.smallA f l % tySize f.ty = 0 ∧ c.smallA f l + 64 * tySize f.ty ≤ c.grp.cur.sh

theorem Ctx.rowsFit_iff (hf : c.form = f) :
    (lanesOf c.act).any (fun l => c.read 1 .n32 c.form.a l % tySize c.form.ty ≠ 0
      || c.grp.cur.sh < c.read 1 .n32 c.form.a l + 64 * tySize c.form.ty) = false ↔ c.RowsFit f := by
  subst hf
  simp only [List.any_eq_false, mem_lanesOf, Bool.or_eq_true, decide_eq_true_eq, not_or, not_not, Nat.not_lt]
  exact ⟨fun h l hl => h l ⟨BitVec.lt_of_getLsbD hl, hl⟩, fun h l hl => h l hl.2⟩

theorem Ctx.rowArgs_of_rowsFit (hf : c.form = f) (h : c.RowsFit f) :
    c.rowArgs = some ((lanesOf c.act).foldl (fun m l => put 0 m l (word (c.smallA f l))) []) := by
  rw [Ctx.rowArgs, (Ctx.rowsFit_iff hf).2 h, ← hf]
  rfl

theorem Ctx.rowArgs_eq_none (hf : c.form = f) (h : ¬c.RowsFit f) : c.rowArgs = none := by
  rw [Ctx.rowArgs, Bool.eq_true_of_not_eq_false (mt (Ctx.rowsFit_iff hf).1 h)]
  rfl

end

/-! ### MMA and MMAB (R144, R148, R156, R157) -/

/-- An MMA reads its A block in the format of the launch's slot. -/
theorem exec_mma_of_context {s : State} {f : Form} {c : Ctx} {e : Nat} (h : s.context f = some c)
    (he : elemCode c.grp.slots f.ty (f.var.toNat % 8) = e) :
    exec (.mma f) s = issueInstr 0x68 f s .tile (.vblock (blockRegs e) false) { m := true } (some .cmdHandle) (fun c => c.slotOk 1 6)
      (fun c => c.multiply { MatCmd.empty .mma f with aval := if f.hints.reuse then [] else c.aBlock (blockRegs e) } e) := by
  obtain ⟨g, w, hi, -, hg⟩ := State.context_issuer h
  have hslots : g.slots = c.grp.slots := (congrArg Group.slots hg :).symm
  change execMma f s = _
  simp only [execMma, hi, Option.map_some, Option.getD_some, hslots, he]

section
variable {c : Ctx} {s : State} {f : Form} {m : MatCmd} {e : Nat}

/-- What an MMA or MMAB asks of its map and of the latch tag. -/
def Ctx.MultiplyOk (c : Ctx) (f : Form) (m : MatCmd) (e : Nat) : Prop :=
  mapOk c.grp.slots c.grp.cur.sh e (c.wave.m? (mIndex f.b)) = true
    ∧ (m.reuse = true → c.wave.latchTag = some (m.kind, m.ty, m.var))

theorem Ctx.multiply_fault (hf : c.form = f) (h : ¬c.MultiplyOk f m e) : c.multiply m e = .fault codeOperand := by
  subst hf
  rw [Ctx.MultiplyOk, not_and_or, Bool.not_eq_true, Classical.not_imp] at h
  rw [Ctx.multiply]
  rcases h with hmap | ⟨hreuse, htag⟩
  · simp [hmap]
  · simp [hreuse, htag]

theorem Ctx.multiply_of_ok (hf : c.form = f) (h : c.MultiplyOk f m e) :
    c.multiply m e = c.latches m (c.matrix { m with map := c.wave.m? (mIndex f.b) }) := by
  subst hf
  obtain ⟨hmap, htag⟩ := h
  have hkept : (m.reuse && decide (c.wave.latchTag ≠ some (m.kind, m.ty, m.var))) = false := by
    cases hr : m.reuse
    · rfl
    · simp [htag hr]
  simp only [Ctx.multiply, hmap, hkept, Bool.not_true, Bool.false_eq_true, if_false]

/-- Only a non-reusing MMA or MMAB sets the latch tag (R144). -/
theorem Ctx.latches_done (c : Ctx) (m : MatCmd) (t : State) : c.latches m (.done t)
    = .done (if m.reuse = false then c.updWave t (fun w => { w with latchTag := some (m.kind, m.ty, m.var) }) else t) := by
  rw [Ctx.latches]
  cases m.reuse <;> rfl

/-- An MMA or MMAB that is taken is submitted, and a non-reusing one sets the latch tag. -/
theorem Ctx.multiply_accepted (hctx : s.context f = some c) (hok : c.MultiplyOk f m e) (op : Nat)
    (os : Ctx → Order) (tags : Ctx → Option (MatKind × Ty × Nat))
    (ho : os c = c.order 4 (.matrix { m with map := c.wave.m? (mIndex f.b) }) (handleReg f.c))
    (htag : tags c = if m.reuse then c.wave.latchTag else some (m.kind, m.ty, m.var)) (htakes : c.Takes (os c)) :
    ∃ t, c.multiply m e = .done t ∧ AcceptedAs os tags (fun _ g => g) s c (c.finish op true t) := by
  have hf := State.context_found hctx
  obtain ⟨g, w, hsub⟩ := Ctx.submit_submitted hctx (ho ▸ rfl) htakes (by rw [ho]; simp [Ctx.order])
  have hcommand : c.matrix { m with map := c.wave.m? (mIndex f.b) } = .done (c.st.submit c.grp.id c.wave.id (os c)) := by
    rw [Ctx.matrix, hf.form, ho]
    exact Ctx.command_of_takes hf (ho ▸ htakes) (.inr fun _ => rfl)
  rw [Ctx.multiply_of_ok hf.form hok, hcommand, Ctx.latches_done]
  refine ⟨_, rfl, hsub.finish_ite hf op ?_⟩
  rw [htag]
  cases m.reuse <;> rfl

end

/-! ### MMAP (R163) -/

/-- The fields of a map register, factor first. -/
theorem mapFields_eq (base stride ty slot : Nat) (kmaj : Bool) :
    base + stride * 2 ^ 19 + ty * 2 ^ 46 + slot * 2 ^ 50 + (if kmaj then 2 ^ 53 else 0)
      = base + 2 ^ 19 * stride + 2 ^ 46 * ty + 2 ^ 50 * slot + 2 ^ 53 * bitNat kmaj := by
  cases kmaj <;> simp [bitNat, Nat.mul_comm]

/-- What MMAP refuses, by the element size of its format. -/
theorem mapBad_iff {e size : Nat} (hsize : max 1 (elemSize e) = size) (base stride : Nat) (kmaj : Bool) :
    (2 ^ 19 ≤ base || 2 ^ 19 ≤ stride || base % max 1 (elemSize e) ≠ 0 || stride % max 1 (elemSize e) ≠ 0 || (e = 6 && !kmaj)) = true
      ↔ ¬(base < 2 ^ 19 ∧ stride < 2 ^ 19 ∧ base % size = 0 ∧ stride % size = 0 ∧ (e = 6 → kmaj = true)) := by
  rw [hsize]
  simp [not_and_or, or_assoc, -not_and]

/-- Settles O34: MZERO to MSCL are commands as they stand (`submits_command`), MMA and MMAB when their map and latch tag allow it
(`Ctx.multiply_accepted`), and MMAP sets its register at once (`adjusts_finish`). -/
theorem matrixCommands : Obligations.MatrixCommands := by
  unfold Obligations.MatrixCommands
  refine ⟨fun f => ?commands, fun f => ?map⟩
  case commands =>
    intro h handle reuse n col plain map fits tagged tag mma mmab slotted rowsFit rows cols mask release
    have direct {i : Instr} {op : Nat} {d a b : Allow} {body : Ctx → Res} {ok : Ctx → Prop} {m : Ctx → MatCmd}
        (hi : ∀ s, exec i s = issueInstr op f s d a b handle (fun _ => true) body)
        (hb : ∀ c, c.form = f → ok c → body c = c.matrix (m c)) : plain i op d a b ok m :=
      submits_command hi (fun _ _ _ => rfl) (fun c hf hok => (hb c hf hok).trans (by rw [Ctx.matrix, hf])) fun c _ => .inr fun _ => rfl
    refine ⟨fun e => ⟨?mma, ?mmaFault⟩, ?mmab, fun c e k l hk hl => (look_lanes _ _ hl).trans (if_pos hk), ?mzero, ?mlda, ?msta, ?memit,
      ?maddt, ?mscl, ?mldaFault, ?mstaFault, ?mrela, ?mrelaFault⟩
    case mma =>
      refine effects_done (fun s c hc hok => exec_mma_of_context (State.issued_iff.1 hc).1 hok.1)
        (fun c hf ⟨_, hslot, _⟩ => Ctx.slotOk_iff.2 (hf ▸ hslot)) fun s c hf hctx ⟨he, _, hfits, htag, htakes⟩ => ?_
      subst he
      exact Ctx.multiply_accepted hctx ⟨mapOk_iff.2 hfits, htag⟩ 0x68 mma (tag .mma) rfl rfl htakes
    case mmaFault =>
      refine effects_fault (by decide) (fun s c hc hok => exec_mma_of_context (State.issued_iff.1 hc).1 hok.1)
        (fun c hf ⟨_, hslot, _⟩ => Ctx.slotOk_iff.2 (hf ▸ hslot)) fun c hf ⟨_, _, hbad⟩ => ?_
      exact Ctx.multiply_fault hf fun ⟨hmap, htag⟩ => hbad ⟨mapOk_iff.1 hmap, htag⟩
    case mmab =>
      refine effects_done (fun _ _ _ _ => rfl) (fun _ _ _ => rfl) fun s c hf hctx ⟨hfits, htag, htakes⟩ => ?_
      exact Ctx.multiply_accepted hctx ⟨mapOk_iff.2 hfits, htag⟩ 0x69 mmab (tag .mmab) rfl rfl htakes
    case mzero => exact direct (fun _ => rfl) fun _ _ _ => rfl
    case mlda => exact direct (fun _ => rfl) fun c hf hok => by simp only [Ctx.rowArgs_of_rowsFit hf hok]; rfl
    case msta => exact direct (fun _ => rfl) fun c hf hok => by simp only [Ctx.rowArgs_of_rowsFit hf hok]; rfl
    case memit => exact direct (fun _ => rfl) fun c hf hok => if_neg (Nat.not_lt.2 hok)
    case maddt => exact direct (fun _ => rfl) fun _ _ _ => rfl
    case mscl => exact direct (fun _ => rfl) fun _ _ _ => rfl
    case mldaFault =>
      exact effects_fault (by decide) (fun _ _ _ _ => rfl) (fun _ _ _ => rfl) fun c hf hok => by simp only [Ctx.rowArgs_eq_none hf hok]
    case mstaFault =>
      exact effects_fault (by decide) (fun _ _ _ _ => rfl) (fun _ _ _ => rfl) fun c hf hok => by simp only [Ctx.rowArgs_eq_none hf hok]
    case mrela =>
      refine effects_done (fun _ _ _ _ => rfl) (fun _ _ _ => rfl) fun s c hf hctx ⟨hmask, htakes⟩ => ?_
      obtain ⟨g, w, hsub⟩ := Ctx.submit_submitted hctx rfl htakes (by simp [release, Ctx.order])
      have hcommand := Ctx.command_of_takes hf htakes (.inr fun _ => rfl)
      refine ⟨_, (if_neg (Nat.not_le.2 hmask)).trans ?_, hsub.finish_ite (os := release) (p := bit f.var 0 = true) hf 0x6F rfl⟩
      split
      next t ht => rw [Res.done.inj (ht.symm.trans hcommand)]
      next r hne => exact absurd hcommand (hne _)
    case mrelaFault => exact effects_fault (by decide) (fun _ _ _ _ => rfl) (fun _ _ _ => rfl) fun c hf hok => if_pos hok
  case map =>
    intro base stride slot e size slotted good
    have hsize (c : Ctx) : max 1 (elemSize (e c)) = size c := by
      simp only [size]
      rcases e c with _ | _ | _ | _ | _ | _ | n <;> rfl
    have hbad (c : Ctx) := mapBad_iff (hsize c) (base c) (stride c) (f.var.getLsbD 3)
    constructor
    · refine effects_done (fun _ _ _ _ => rfl) (fun c hf hok => Ctx.slotOk_iff.2 (hf ▸ hok.1)) fun s c hf hctx hok => ?_
      refine ⟨_, if_neg fun h => (hbad c).1 h hok.2, adjusts_finish hf 0x6E ?_ (fun w => w.setM_id _ _) fun w =>
        ⟨w.setM_v _ _, w.setM_s _ _, w.setM_p _ _, w.setM_paths _ _⟩⟩
      exact congrArg (fun n => c.wave.setM (mIndex f.d) (BitVec.ofNat 64 n)) (mapFields_eq _ _ _ _ _).symm
    · exact effects_fault (by decide) (fun _ _ _ _ => rfl) (fun c hf hok => Ctx.slotOk_iff.2 (hf ▸ hok.1)) fun c hf hok =>
        if_pos ((hbad c).2 hok.2)

end Sys2Proof.Machine
end

section
/-! SUPPORT. A task that exhausts a resource (R285 to R287): its group goes with all that it held, and its launch counts it and takes its
halves. -/

namespace Sys2Proof.Machine

open Sys2Proof

/-! ### What the end of a group leaves of launches and faults -/

/-- The launches, and the faults on their way, are the same. -/
structure State.SameWork (s t : State) : Prop where
  launches : t.launches = s.launches
  faults   : t.faults = s.faults

namespace State.SameWork

variable {s t u : State}

theorem refl (s : State) : s.SameWork s := ⟨rfl, rfl⟩

theorem trans (h : s.SameWork t) (k : t.SameWork u) : s.SameWork u := ⟨k.launches.trans h.launches, k.faults.trans h.faults⟩

theorem foldl {α : Type} {l : List α} {f : State → α → State} (h : ∀ (u : State) x, u.SameWork (f u x)) : s.SameWork (l.foldl f s) :=
  List.foldlRecOn l f (motive := s.SameWork) (refl s) fun u hu x _ => hu.trans (h u x)

theorem landBytes (s : State) (gid : Nat) (late : List (Nat × Nat)) : s.SameWork (s.landBytes gid late) := by
  unfold State.landBytes
  dsimp only
  refine trans (u := State.updGroup _ _ _) (foldl fun u x => ?_) ⟨rfl, rfl⟩
  split
  · exact refl u
  · split
    · exact ⟨rfl, rfl⟩
    · exact ⟨rfl, rfl⟩

theorem land (s : State) (gid wid cls seq : Nat) : s.SameWork (s.land gid wid cls seq) := by
  unfold State.land
  split
  · exact refl s
  · split
    · exact refl s
    · exact (landBytes s _ _).trans ⟨rfl, rfl⟩

theorem landAll (s : State) (gid : Nat) : s.SameWork (s.landAll gid) := by
  unfold State.landAll
  split
  · exact refl s
  · exact foldl fun u w => foldl fun v c => land v gid w.id c.cls c.seq

theorem drainPoints (n facet core : Nat) (s : State) : s.SameWork (State.drainPoints n s facet core) := by
  induction n generalizing s with
  | zero => exact refl s
  | succ n ih =>
    unfold State.drainPoints
    split
    · refine trans ?_ (ih _)
      exact ⟨rfl, rfl⟩
    · exact refl s

theorem takeMatrix (s : State) (g : Nat) : s.SameWork (s.takeMatrix g) := by
  unfold State.takeMatrix
  dsimp only
  refine trans (t := { s with matq := s.matq.filter (fun e => !e.ofGroup g) }) ⟨rfl, rfl⟩ ?_
  exact foldl fun u x => drainPoints u.matq.length x.1 x.2 u

theorem withdrawn (s : State) (g : Nat) : s.SameWork (s.recall g) := by
  have hw (v : State) (f : IntRec → Bool) : v.SameWork (v.withdraw f) := ⟨rfl, rfl⟩
  have hd (v : State) (f : Waiter → Bool) : v.SameWork (v.dropWaits f) := ⟨rfl, rfl⟩
  have hr (v : State) (fs : List (Nat × Bool)) : v.SameWork (v.returnLent fs) := ⟨rfl, rfl⟩
  exact (landAll s g).trans ((((hw _ _).trans (hd _ _)).trans (hr _ _)).trans (takeMatrix _ g))

theorem dropGroup (s : State) (g : Nat) : s.SameWork (s.dropGroup g) := by
  have dropped (v : State) (p : Group → Bool) :
      v.SameWork { v.returnRegions g with groups := (v.returnRegions g).groups.filter p } := ⟨rfl, rfl⟩
  exact (withdrawn s g).trans (dropped _ _)

end State.SameWork

theorem State.group?_dropGroup (s : State) (g : Nat) : (s.dropGroup g).group? g = none := by
  simp [State.group?, State.dropGroup]

theorem State.launch?_updLaunch (s : State) (lid : Nat) {F : Launch → Launch} (h : ∀ x, (F x).id = x.id) :
    (s.updLaunch lid F).launch? lid = (s.launch? lid).map F := find?_map_here _ Launch.id F lid h

theorem State.launch?_updLaunch_ne (s : State) {lid k : Nat} {F : Launch → Launch} (h : ∀ x, (F x).id = x.id) (hk : k ≠ lid) :
    (s.updLaunch lid F).launch? k = s.launch? k := find?_map_other _ Launch.id F lid k h hk

theorem State.updLaunch_updLaunch (s : State) (lid : Nat) {F G : Launch → Launch} (h : ∀ x, (F x).id = x.id) :
    (s.updLaunch lid F).updLaunch lid G = s.updLaunch lid (fun x => G (F x)) := by
  simp only [State.updLaunch, List.map_map]
  refine congrArg (fun ls => { s with launches := ls }) (List.map_congr_left fun x _ => ?_)
  by_cases hx : x.id = lid <;> simp [hx, h]

/-! ### A task that exhausts something -/

section
variable {c : Ctx} {s : State} {f : Form} {l : Launch}

theorem Ctx.launch?_found (h : c.launch? = some l) :
    c.grp.launch = some l.id ∧ c.st.launch? l.id = some l ∧ c.grp.launch.bind c.st.launch? = some l := by
  obtain ⟨lid, hg, hl⟩ := Option.bind_eq_some_iff.1 h
  obtain rfl := State.launch?_id hl
  exact ⟨hg, hl, h⟩

theorem Ctx.finish_faults (c : Ctx) (op : Nat) (adv : Bool) (t : State) : (c.finish op adv t).faults = t.faults := rfl

/-- The group of an issue dropped in a state with the launches of the issue, and its launch changed. -/
theorem gone_dropGroup (hf : c.Found s f) {t : State} {change : Ctx → Launch → Launch} (F : Launch → Launch) (h : c.launch? = some l)
    (hwork : t.launches = s.launches) (hid : ∀ x, (F x).id = x.id) (hF : F l = change c l) (op : Nat) :
    Gone change s c (c.finish op false ((t.dropGroup c.grp.id).updLaunch l.id F)) := by
  have hdrop : (t.dropGroup c.grp.id).launches = s.launches := (State.SameWork.dropGroup t _).launches.trans hwork
  have hgone := State.group?_dropGroup t c.grp.id
  obtain ⟨-, hl, -⟩ := Ctx.launch?_found h
  have hst : c.st.launches = s.launches := (congrArg State.launches hf.rest :)
  generalize t.dropGroup c.grp.id = u at *
  refine ⟨?_, fun l' hl' => ?_⟩
  · rw [Ctx.finish, Ctx.updWave, State.group?_updWave]
    exact congrArg (Option.map _) hgone
  · obtain rfl := Option.some.inj (h.symm.trans hl')
    rw [State.launch?, hst] at hl
    refine ⟨(State.launch?_updLaunch u l.id hid).trans ?_, fun k hk => (State.launch?_updLaunch_ne u hid hk).trans ?_⟩
    · rw [State.launch?, hdrop, hl, ← hF]
      rfl
    · rw [State.launch?, hdrop]
      rfl

/-- What a task that exhausts a resource leaves, by the case of R285 to R287. -/
theorem State.exhaust_halves (hf : c.Found s f) (h : c.launch? = some l) {axis : Nat} (ha : c.grp.task.splitAxis l.recd = some axis)
    (hbit : l.bits.getLsbD c.grp.facet = false) : c.st.exhaust c.grp.id c.wave.id c.path.pc
      = ((c.st.count c.grp.facet c.grp.ctx 7 1).dropGroup c.grp.id).updLaunch l.id (fun l => { l with
          splits := l.splits + 1
          tasks := c.grp.task.halves axis ++ l.tasks
          headFrom := c.st.edges }) := by
  obtain ⟨-, -, hb⟩ := Ctx.launch?_found h
  simp only [State.exhaust, hf.group, hb, hbit, ha]
  rfl

theorem State.exhaust_cancelled (hf : c.Found s f) (h : c.launch? = some l) (hbit : l.bits.getLsbD c.grp.facet = true) :
    c.st.exhaust c.grp.id c.wave.id c.path.pc
      = ((c.st.count c.grp.facet c.grp.ctx 7 1).dropGroup c.grp.id).updLaunch l.id (fun l => { l with
          aborted := l.aborted + 1
          splits := l.splits + 1 }) := by
  obtain ⟨hlaunch, -, hb⟩ := Ctx.launch?_found h
  have hg : (c.st.count c.grp.facet c.grp.ctx 7 1).group? c.grp.id = some c.grp := hf.group
  simp only [State.exhaust, hf.group, hb, hbit, if_true, State.abortTask, hg]
  rw [hlaunch]
  exact State.updLaunch_updLaunch _ _ fun _ => rfl

theorem State.exhaust_grain (hf : c.Found s f) (h : c.launch? = some l) (ha : c.grp.task.splitAxis l.recd = none)
    (hbit : l.bits.getLsbD c.grp.facet = false) : c.st.exhaust c.grp.id c.wave.id c.path.pc
      = (((c.st.count c.grp.facet c.grp.ctx 7 1).raiseFault c.grp.id c.wave.id codeGrain c.path.pc).dropGroup c.grp.id).updLaunch l.id
          (fun l => { l with splits := l.splits + 1 }) := by
  obtain ⟨-, -, hb⟩ := Ctx.launch?_found h
  simp only [State.exhaust, hf.group, hb, hbit, ha]
  rfl

end

/-- What an issue finds, counted. -/
theorem Ctx.Found.count {c : Ctx} {s : State} {f : Form} (hf : c.Found s f) (i : Nat) :
    ({ c with st := c.st.count c.grp.facet c.grp.ctx i 1 } : Ctx).Found (s.count c.grp.facet c.grp.ctx i 1) f :=
  ⟨hf.form, (congrArg (fun u : State => u.count c.grp.facet c.grp.ctx i 1) hf.rest :), hf.groups, hf.group, hf.wave, hf.path, hf.tick⟩

/-- The fault of a launch of which none has arrived leaves the launches, and sets out. -/
theorem raiseFault_work {c : Ctx} {s : State} {f : Form} {code : Code} {pc : DWord} (hf : c.Found s f) {lid : Nat}
    (hl : c.grp.launch = some lid) (he : c.st.ending c.grp = false) :
    (c.st.raiseFault c.grp.id c.wave.id code pc).launches = c.st.launches
      ∧ (c.st.raiseFault c.grp.id c.wave.id code pc).faults
        = c.st.faults ++ [⟨lid, code, pc, c.grp.ctx, c.st.edges, c.grp.facet, c.wave.core, c.wave.slot⟩] := by
  rw [raiseFault_launch hf hl he]
  exact ⟨rfl, rfl⟩

/-- An instruction whose body exhausts the task. -/
theorem exhausts_body {i : Instr} {op : Nat} {f : Form} {d a b : Allow} {x : Option Allow} {ok : Ctx → Launch → Prop}
    {extra : Ctx → Bool} {body : Ctx → Res} (hi : ∀ s, exec i s = issueInstr op f s d a b x extra body)
    (he : ∀ c l, c.form = f → ok c l → extra c = true)
    (hb : ∀ s c l, c.Found s f → ok c l → body c = .moved (c.st.exhaust c.grp.id c.wave.id c.path.pc)) : Exhausts i op f d a b x ok := by
  have run {s : State} {c : Ctx} {l : Launch} (h : s.issued op f d a b x = some c) (hf : c.Found s f) (hok : ok c l) :
      exec i s = .next (c.finish op false (c.st.exhaust c.grp.id c.wave.id c.path.pc)) :=
    (hi s).trans (issueInstr_moved h (he c l hf.form hok) (hb s c l hf hok))
  refine ⟨⟨fun axis s c h ⟨l, hl, hok, ha, hbit⟩ => ?halves, fun s c h ⟨l, hl, hok, ha, hbit⟩ => ?cancelled⟩,
    fun s c h ⟨l, hl, hok, ha, hbit, hend⟩ => ?grain⟩
  all_goals
    have hf := State.context_found (State.issued_iff.1 h).1
    have hcount : (c.st.count c.grp.facet c.grp.ctx 7 1).launches = s.launches := by rw [State.count_launches, hf.rest]
    refine ⟨_, run h hf hok, ?_⟩
  case halves =>
    rw [State.exhaust_halves hf hl ha hbit]
    exact gone_dropGroup hf (fun l => { l with
      splits := l.splits + 1
      tasks := c.grp.task.halves axis ++ l.tasks
      headFrom := c.st.edges }) hl hcount (fun _ => rfl) rfl op
  case cancelled =>
    rw [State.exhaust_cancelled hf hl hbit]
    exact gone_dropGroup hf (fun l => { l with
      aborted := l.aborted + 1
      splits := l.splits + 1 }) hl hcount (fun _ => rfl) rfl op
  case grain =>
    rw [State.exhaust_grain hf hl ha hbit]
    obtain ⟨hlaunch, -, -⟩ := Ctx.launch?_found hl
    have hwork := raiseFault_work (code := codeGrain) (pc := c.path.pc) (hf.count 7) hlaunch hend
    refine ⟨gone_dropGroup hf (fun l => { l with splits := l.splits + 1 }) hl (hwork.1.trans hcount) (fun _ => rfl) rfl op,
      fun l' hl' => ?_⟩
    obtain rfl := Option.some.inj (hl.symm.trans hl')
    have hfaults : c.st.faults = s.faults := (congrArg State.faults hf.rest :)
    have hedges : c.st.edges = s.edges := (congrArg State.edges hf.rest :)
    rw [Ctx.finish_faults, State.updLaunch_faults, (State.SameWork.dropGroup _ _).faults, hwork.2, State.count_faults, State.count_edges,
      hfaults, hedges]

end Sys2Proof.Machine
end

section
/-! PROOF. O28 (`Obligations.SpillFill`): the words that SPILL puts into the spill range and the registers that FILL reads from it (R177, R178,
R223). -/

namespace Sys2Proof.Machine

open Sys2Proof

/-! ### Words written in a loop -/

/-- A byte after words have been written at addresses, of which those that cover it all put one byte there. -/
theorem Memory.read_foldl_writeWord {a : Nat} {b : Byte} (cells : List (Nat × Word)) (m : Memory)
    (h : ∀ x ∈ cells, x.1 ≤ a → a < x.1 + 4 → BitVec.ofNat 8 (x.2.toNat / 2 ^ (8 * (a - x.1))) = b) :
    (cells.foldl (fun (m : Memory) x => m.writeBytes x.1 (toBytes 4 x.2.toNat)) m).read a
      = if ∃ x ∈ cells, x.1 ≤ a ∧ a < x.1 + 4 then b else m.read a := by
  induction cells generalizing m with
  | nil => simp
  | cons x xs ih =>
    rw [List.foldl_cons, ih _ fun y hy => h y (List.mem_cons_of_mem _ hy), Memory.read_writeBytes, length_toBytes]
    by_cases hx : x.1 ≤ a ∧ a < x.1 + 4
    · have hb : (toBytes 4 x.2.toNat).getD (a - x.1) 0 = b := by
        rw [List.getD_eq_getElem?_getD, getElem?_toBytes 4 _ (by omega), Option.getD_some, h x List.mem_cons_self hx.1 hx.2]
      rw [if_pos hx, hb, if_pos (⟨x, List.mem_cons_self, hx⟩ : ∃ y ∈ x :: xs, y.1 ≤ a ∧ a < y.1 + 4), ite_self]
    · rw [if_neg hx]
      simp only [List.exists_mem_cons_iff, hx, false_or]

/-! ### The words of a block -/

/-- The words of a block of registers with their places in the spill range (R223): a v register takes 256 bytes, of which the active lanes'
are stored, and an s register 4. -/
def Ctx.spillCells (c : Ctx) (blk : Operand) (k o : Nat) : List (Nat × Word) :=
  if isV blk then
    (List.range k).flatMap (fun i => (lanesOf c.act).map (fun l => (o + 256 * i + 4 * l, c.wave.readV c.st.tick 2 (vIndex blk + i) l)))
  else (List.range k).map (fun i => (o + 4 * i, c.wave.readS c.st.tick 2 (sIndex blk + i)))

theorem Ctx.mem_spillCells_v {c : Ctx} {blk : Operand} (h : isV blk = true) {k o : Nat} {x : Nat × Word} : x ∈ c.spillCells blk k o ↔
    ∃ i < k, ∃ l, (l < 64 ∧ c.act.getLsbD l = true) ∧ (o + 256 * i + 4 * l, c.wave.readV c.st.tick 2 (vIndex blk + i) l) = x := by
  simp [Ctx.spillCells, h]

theorem Ctx.mem_spillCells_s {c : Ctx} {blk : Operand} (h : isV blk = false) {k o : Nat} {x : Nat × Word} : x ∈ c.spillCells blk k o ↔
    ∃ i < k, (o + 4 * i, c.wave.readS c.st.tick 2 (sIndex blk + i)) = x := by
  simp [Ctx.spillCells, h]

/-- The spill range after a block of v registers is stored. -/
theorem Ctx.read_spilled_v (c : Ctx) {blk : Operand} (h : isV blk = true) (k o a : Nat) (m : Memory) :
    ((c.spillCells blk k o).foldl (fun (m : Memory) x => m.writeBytes x.1 (toBytes 4 x.2.toNat)) m).read a
      = if o ≤ a ∧ a < o + 256 * k ∧ c.act.getLsbD ((a - o) / 4 % 64) = true then
          BitVec.ofNat 8 ((c.wave.readV c.st.tick 2 (vIndex blk + (a - o) / 256) ((a - o) / 4 % 64)).toNat / 2 ^ (8 * ((a - o) % 4)))
        else m.read a := by
  rw [Memory.read_foldl_writeWord (b := BitVec.ofNat 8 ((c.wave.readV c.st.tick 2 (vIndex blk + (a - o) / 256) ((a - o) / 4 % 64)).toNat
    / 2 ^ (8 * ((a - o) % 4)))) _ m fun x hx hlo hhi => ?byte]
  case byte =>
    obtain ⟨i, -, l, ⟨hl, -⟩, rfl⟩ := (Ctx.mem_spillCells_v h).1 hx
    dsimp only at hlo hhi ⊢
    have hi : (a - o) / 256 = i := by omega
    have hl : (a - o) / 4 % 64 = l := by omega
    have hb : (a - o) % 4 = a - (o + 256 * i + 4 * l) := by omega
    rw [hi, hl, hb]
  refine if_congr ⟨?_, fun ⟨hlo, hhi, hact⟩ => ?_⟩ rfl rfl
  · rintro ⟨x, hx, hlo, hhi⟩
    obtain ⟨i, hi, l, ⟨hl, hact⟩, rfl⟩ := (Ctx.mem_spillCells_v h).1 hx
    dsimp only at hlo hhi
    have hl : (a - o) / 4 % 64 = l := by omega
    exact ⟨by omega, by omega, hl ▸ hact⟩
  · exact ⟨_, (Ctx.mem_spillCells_v h).2 ⟨(a - o) / 256, by omega, (a - o) / 4 % 64, ⟨by omega, hact⟩, rfl⟩, by dsimp only; omega,
      by dsimp only; omega⟩

/-- The spill range after a block of s registers is stored. -/
theorem Ctx.read_spilled_s (c : Ctx) {blk : Operand} (h : isV blk = false) (k o a : Nat) (m : Memory) :
    ((c.spillCells blk k o).foldl (fun (m : Memory) x => m.writeBytes x.1 (toBytes 4 x.2.toNat)) m).read a
      = if o ≤ a ∧ a < o + 4 * k then
          BitVec.ofNat 8 ((c.wave.readS c.st.tick 2 (sIndex blk + (a - o) / 4)).toNat / 2 ^ (8 * ((a - o) % 4)))
        else m.read a := by
  rw [Memory.read_foldl_writeWord (b := BitVec.ofNat 8 ((c.wave.readS c.st.tick 2 (sIndex blk + (a - o) / 4)).toNat
    / 2 ^ (8 * ((a - o) % 4)))) _ m fun x hx hlo hhi => ?byte]
  case byte =>
    obtain ⟨i, -, rfl⟩ := (Ctx.mem_spillCells_s h).1 hx
    dsimp only at hlo hhi ⊢
    have hi : (a - o) / 4 = i := by omega
    have hb : (a - o) % 4 = a - (o + 4 * i) := by omega
    rw [hi, hb]
  refine if_congr ⟨?_, fun ⟨hlo, hhi⟩ => ?_⟩ rfl rfl
  · rintro ⟨x, hx, hlo, hhi⟩
    obtain ⟨i, hi, rfl⟩ := (Ctx.mem_spillCells_s h).1 hx
    dsimp only at hlo hhi
    exact ⟨by omega, by omega⟩
  · exact ⟨_, (Ctx.mem_spillCells_s h).2 ⟨(a - o) / 4, by omega, rfl⟩, by dsimp only; omega, by dsimp only; omega⟩

/-- The bytes that a register of a block takes. -/
def spillStep (blk : Operand) : Nat := if isV blk then 256 else 4

/-- The spill range after a block is stored: the bytes of the active lanes' registers, and the others as they were. -/
theorem Ctx.read_spilled (c : Ctx) (blk : Operand) (k o a : Nat) (m : Memory) :
    ((c.spillCells blk k o).foldl (fun (m : Memory) x => m.writeBytes x.1 (toBytes 4 x.2.toNat)) m).read a
      = if o ≤ a ∧ a < o + spillStep blk * k ∧ (isV blk = true → c.act.getLsbD ((a - o) / 4 % 64) = true) then
          BitVec.ofNat 8 ((if isV blk then c.wave.readV c.st.tick 2 (vIndex blk + (a - o) / spillStep blk) ((a - o) / 4 % 64)
            else c.wave.readS c.st.tick 2 (sIndex blk + (a - o) / spillStep blk)).toNat / 2 ^ (8 * ((a - o) % 4)))
        else m.read a := by
  unfold spillStep
  cases hv : isV blk with
  | true =>
    rw [c.read_spilled_v hv]
    simp
  | false =>
    rw [c.read_spilled_s hv]
    simp

/-! ### The range of a block (R178) -/

/-- The offset of a block in the spill range (R223). -/
def Ctx.spillOffset (c : Ctx) (f : Form) : Nat := wrapInt (c.read 1 .n32 f.a 0 + sx f.imm.toNat 32) 32

section
variable {c : Ctx} {f : Form} {blk : Operand} {body : Nat → Res}

theorem Ctx.spillRange_eq (hf : c.form = f) : c.spillRange blk body = if c.spillOffset f % spillStep blk ≠ 0 then .fault codeAlign
    else if c.grp.spillSize < c.spillOffset f + spillStep blk * (f.var.toNat + 1) then
      if c.divisible then .moved (c.st.exhaust c.grp.id c.wave.id c.path.pc) else .fault codeSpill
    else body (c.spillOffset f) := by
  rw [Ctx.spillRange, spillStep, hf]
  cases isV blk <;> rfl

theorem Ctx.spillRange_fits (hf : c.form = f) (h : c.spillOffset f % spillStep blk = 0
    ∧ c.spillOffset f + spillStep blk * (f.var.toNat + 1) ≤ c.grp.spillSize) : c.spillRange blk body = body (c.spillOffset f) := by
  rw [Ctx.spillRange_eq hf, if_neg (not_not.2 h.1), if_neg (Nat.not_lt.2 h.2)]

theorem Ctx.spillRange_odd (hf : c.form = f) (h : c.spillOffset f % spillStep blk ≠ 0) : c.spillRange blk body = .fault codeAlign := by
  rw [Ctx.spillRange_eq hf, if_pos h]

theorem Ctx.spillRange_past (hf : c.form = f) (h : c.spillOffset f % spillStep blk = 0
    ∧ c.grp.spillSize < c.spillOffset f + spillStep blk * (f.var.toNat + 1) ∧ c.divisible = false) :
    c.spillRange blk body = .fault codeSpill := by
  obtain ⟨heven, hpast, hdiv⟩ := h
  rw [Ctx.spillRange_eq hf, if_neg (not_not.2 heven), if_pos hpast, hdiv]
  rfl

theorem Ctx.spillRange_exhausts (hf : c.form = f) (h : c.spillOffset f % spillStep blk = 0
    ∧ c.grp.spillSize < c.spillOffset f + spillStep blk * (f.var.toNat + 1) ∧ c.divisible = true) :
    c.spillRange blk body = .moved (c.st.exhaust c.grp.id c.wave.id c.path.pc) := by
  obtain ⟨heven, hpast, hdiv⟩ := h
  rw [Ctx.spillRange_eq hf, if_neg (not_not.2 heven), if_pos hpast, if_pos hdiv]

end

/-! ### Registers read back -/

theorem State.updGroup_updGroup (t : State) (g : Nat) {F G : Group → Group} (h : ∀ x, (F x).id = x.id) :
    (t.updGroup g F).updGroup g G = t.updGroup g (fun x => G (F x)) := by
  simp only [State.updGroup, List.map_map]
  refine congrArg (fun gs => { t with groups := gs }) (List.map_congr_left fun x _ => ?_)
  by_cases hx : x.id = g <;> simp [hx, h]

theorem Group.updWave_updWave (g : Group) (w : Nat) {F G : Wave → Wave} (h : ∀ x, (F x).id = x.id) :
    (g.updWave w F).updWave w G = g.updWave w (fun x => G (F x)) := by
  simp only [Group.updWave, List.map_map]
  refine congrArg (fun ws => { g with waves := ws }) (List.map_congr_left fun x _ => ?_)
  by_cases hx : x.id = w <;> simp [hx, h]

theorem Ctx.updWave_updWave (c : Ctx) (t : State) {F G : Wave → Wave} (h : ∀ w, (F w).id = w.id) :
    c.updWave (c.updWave t F) G = c.updWave t (fun w => G (F w)) := by
  refine (State.updGroup_updGroup t c.grp.id (F := fun g => g.updWave c.wave.id F) fun _ => rfl).trans (congrArg (t.updGroup c.grp.id) (funext fun g => ?_))
  exact g.updWave_updWave c.wave.id h

theorem Ctx.updWave_id (c : Ctx) (t : State) : c.updWave t (fun w => w) = t := by
  simp [Ctx.updWave, State.updWave, State.updGroup]

/-- Results written one after another are one change of the wave. -/
theorem Ctx.writes_eq_updWave (c : Ctx) {α : Type} (x : α → Write) {F : α → Wave → Wave} (hid : ∀ i w, (F i w).id = w.id)
    (hF : ∀ i t, c.write t (x i).dest (x i).wide (x i).val = c.updWave t (F i)) (is : List α) :
    c.writes (is.map x) c.st = c.updWave c.st (fun w => is.foldl (fun w i => F i w) w) := by
  induction is using List.reverseRecOn with
  | nil => exact (c.updWave_id c.st).symm
  | append_singleton is i ih =>
    have hkeep : ∀ w : Wave, (is.foldl (fun w i => F i w) w).id = w.id := fun w =>
      List.foldlRecOn is _ (motive := fun y : Wave => y.id = w.id) rfl fun y hy i _ => (hid i y).trans hy
    rw [Ctx.writes] at ih
    simp only [Ctx.writes, List.map_append, List.map_cons, List.map_nil, List.foldl_append, List.foldl_cons, List.foldl_nil, ih, hF]
    exact c.updWave_updWave c.st hkeep

theorem Write.apart_s {i j : Nat} (h : i ≠ j) (x y : Nat → Nat) : Write.Apart ⟨.s i, false, x⟩ ⟨.s j, false, y⟩ where
  v := fun _ _ hr => absurd rfl hr
  s := fun r l hr => by
    have hri : r = i := by
      by_contra hri
      simp [Write.atS, hri] at hr
    simp [Write.atS, hri, h]
  p := fun _ _ hr => absurd rfl hr
  g := fun _ _ hr => absurd rfl hr

/-- The results of FILL (R223). -/
def Ctx.filled (c : Ctx) (blk : Operand) (o : Nat) (i : Nat) : Write :=
  if isV blk then ⟨.v (vIndex blk + i), false, fun l => c.wave.spill.readNum (o + 256 * i + 4 * l) 4⟩
  else ⟨.s (sIndex blk + i), false, fun _ => c.wave.spill.readNum (o + 4 * i) 4⟩

theorem Ctx.filled_apart (c : Ctx) (blk : Operand) (o k : Nat) :
    ((List.range k).map (c.filled blk o)).Pairwise (fun x y => y.Apart x) := by
  refine List.pairwise_map.2 (List.nodup_range.imp fun h => ?_)
  unfold Ctx.filled
  split
  · exact Write.apart_v (by omega) _ _
  · exact Write.apart_s (by omega) _ _

theorem Ctx.writes_filled (c : Ctx) (hact : c.act ≠ 0) (blk : Operand) (o k : Nat) :
    c.writes ((List.range k).map (c.filled blk o)) c.st = c.updWave c.st (fun w =>
      if isV blk then
        (List.range k).foldl (fun w i =>
          w.writeV c.st.tick (vIndex blk + i) c.act (fun l => word (c.wave.spill.readNum (o + 256 * i + 4 * l) 4))) w
      else
        (List.range k).foldl (fun w i => w.writeS c.st.tick (sIndex blk + i) (word (c.wave.spill.readNum (o + 4 * i) 4))) w) := by
  obtain ⟨top, htop⟩ := topLane_some hact
  cases hv : isV blk with
  | true =>
    refine c.writes_eq_updWave (c.filled blk o) (F := fun i w => w.writeV c.st.tick (vIndex blk + i) c.act
      (fun l => word (c.wave.spill.readNum (o + 256 * i + 4 * l) 4))) (fun _ _ => rfl) (fun i t => ?_) _
    simp only [Ctx.filled, hv, if_true]
    rfl
  | false =>
    refine c.writes_eq_updWave (c.filled blk o) (F := fun i w => w.writeS c.st.tick (sIndex blk + i)
      (word (c.wave.spill.readNum (o + 4 * i) 4))) (fun _ _ => rfl) (fun i t => ?_) _
    simp only [Ctx.filled, hv, Bool.false_eq_true, if_false, Ctx.write, htop]

/-! ### The two instructions -/

/-- An instruction has an effect where it has it with an active lane, which every issue that gets so far has (R53). -/
theorem effects_of_active {i : Instr} {op : Nat} {f : Form} {d a b : Allow} {x : Option Allow} {ok : Ctx → Prop}
    {post : State → Ctx → State → Prop} (h : Effects i op f d a b x (fun c => ok c ∧ c.act ≠ 0) post) : Effects i op f d a b x ok post :=
  fun s c hi hok => h s c hi ⟨hok, (State.issued_iff.1 hi).2.2⟩

/-- The words of the scratchpad that stay uncorrectable at a SPILL: those that it does not write whole (R203). -/
def Ctx.spilledBad (c : Ctx) (blk : Operand) (k o : Nat) : List Nat :=
  let halves := (c.spillCells blk k o).map (fun x => spadKey c.grp.die (c.grp.facet % 4 * 2 ^ 26 + c.wave.spillAt + x.1))
  c.st.badSpad.filter (fun x => !(halves.contains (8 * x) && halves.contains (8 * x + 4)))

/-- A wave after a SPILL. -/
def Ctx.spilled (c : Ctx) (blk : Operand) (k o : Nat) (w : Wave) : Wave :=
  { w with spill := (c.spillCells blk k o).foldl (fun m (a, x) => m.writeBytes a (toBytes 4 x.toNat)) w.spill }

/-- The state after a SPILL, before its issue ends. -/
def Ctx.spillDone (c : Ctx) (blk : Operand) (k o : Nat) : State :=
  c.updWave { c.st with badSpad := c.spilledBad blk k o } (c.spilled blk k o)

theorem Ctx.finish_spillDone {c : Ctx} {s : State} {f : Form} (hf : c.Found s f) (op : Nat) (blk : Operand) (k o : Nat) :
    ∃ g w, c.Left s (c.finish op true (c.spillDone blk k o)) g w
      ∧ c.finish op true (c.spillDone blk k o) = { s with
          groups := (c.finish op true (c.spillDone blk k o)).groups
          facets := (c.finish op true (c.spillDone blk k o)).facets
          badSpad := (c.finish op true (c.spillDone blk k o)).badSpad }
      ∧ s.sameFacets (c.finish op true (c.spillDone blk k o)) ∧ g = { c.grp with waves := g.waves }
      ∧ w.sameBut { c.wave with spill := w.spill } ∧ c.Regs [] g w ∧ c.Advanced w ∧ w.spill = (c.spilled blk k o c.wave).spill := by
  have hstart := ((Ctx.Left.start hf).congr (u := { c.st with badSpad := c.spilledBad blk k o }) rfl).updWave (c.spilled blk k o)
    fun _ => rfl
  obtain ⟨g, waits, er, parked, hleft, hg, -, hfacets⟩ := Ctx.finish_left hstart op true
  have hsame := Wave.afterIssue_sameBut (c.spilled blk k o c.wave) c.path.id waits er true parked
  obtain ⟨hv, hs, hp⟩ := Wave.afterIssue_regs (c.spilled blk k o c.wave) c.path.id waits er true parked
  have hspill : ((c.spilled blk k o c.wave).afterIssue c.path.id waits er true parked).spill = (c.spilled blk k o c.wave).spill :=
    (congrArg Wave.spill hsame :)
  refine ⟨g, _, hleft, ?state, ?facets, hg, by rw [hspill]; exact hsame, (Ctx.Mid.start c).regs.congr (by rw [hg]; rfl) hv hs hp,
    Wave.afterIssue_stands _ c.path _ _ _ hf.path, hspill⟩
  case state =>
    have hu : c.finish op true (c.spillDone blk k o) = { c.st with
        groups := (c.finish op true (c.spillDone blk k o)).groups
        facets := (c.finish op true (c.spillDone blk k o)).facets
        badSpad := (c.finish op true (c.spillDone blk k o)).badSpad } := rfl
    generalize c.finish op true (c.spillDone blk k o) = u at hu
    rw [hu, hf.rest]
  case facets =>
    have hkept : s.facets = c.st.facets := (congrArg State.facets hf.rest :).symm
    rw [State.sameFacets, hkept]
    exact hfacets

theorem exec_spill (f : Form) (s : State) : exec (.spill f) s =
    issueInstr 0x84 f s .unused .spillBase (.spillBlock (f.var.toNat + 1)) none (fun _ => true) (fun c =>
      c.spillRange f.b (fun o => .done (c.spillDone f.b (f.var.toNat + 1) o))) := rfl

/-- Where FILL reads the words of a block in its quarter of the scratchpad. -/
def Ctx.filledFrom (c : Ctx) (blk : Operand) (k o : Nat) : List Nat :=
  let start := c.grp.facet % 4 * 2 ^ 26 + c.wave.spillAt + o
  if isV blk then (List.range k).flatMap (fun i => (lanesOf c.act).map (fun l => start + 256 * i + 4 * l))
  else (List.range k).map (fun i => start + 4 * i)

theorem exec_fill (f : Form) (s : State) : exec (.fill f) s =
    issueInstr 0x85 f s (.spillBlock (f.var.toNat + 1)) .spillBase .unused none (fun _ => true) (fun c =>
      c.spillRange f.d (fun o =>
        match (c.filledFrom f.d (f.var.toNat + 1) o).findSome? (fun a => c.st.badLocal c.grp true a 4) with
        | some a => .moved (c.st.uncorrectable c.grp.id c.wave.id c.path.pc a)
        | none => .done (c.updWave c.st (fun w =>
          if isV f.d then
            (List.range (f.var.toNat + 1)).foldl (fun w i =>
              w.writeV c.st.tick (vIndex f.d + i) c.act (fun l => word (c.wave.spill.readNum (o + 256 * i + 4 * l) 4))) w
          else
            (List.range (f.var.toNat + 1)).foldl (fun w i =>
              w.writeS c.st.tick (sIndex f.d + i) (word (c.wave.spill.readNum (o + 4 * i) 4))) w)))) := rfl

/-- FILL reads no uncorrectable word where each word of the active lanes' registers is sound. -/
theorem Ctx.filledFrom_sound (c : Ctx) (blk : Operand) (k o : Nat) (h : o % spillStep blk = 0)
    (hsound : ∀ a, o ≤ a → a < o + spillStep blk * k → a % 4 = 0 → (isV blk = true → c.act.getLsbD ((a - o) / 4 % 64) = true) →
      c.st.badLocal c.grp true (c.grp.facet % 4 * 2 ^ 26 + c.wave.spillAt + a) 4 = none) :
    (c.filledFrom blk k o).findSome? (fun a => c.st.badLocal c.grp true a 4) = none := by
  rw [List.findSome?_eq_none_iff]
  intro a ha
  unfold Ctx.filledFrom at ha
  unfold spillStep at h hsound
  cases hv : isV blk with
  | true =>
    simp only [hv, if_true, List.mem_flatMap, List.mem_range, List.mem_map, mem_lanesOf, forall_const] at ha h hsound
    obtain ⟨i, hi, l, ⟨hl, hact⟩, rfl⟩ := ha
    have hlane : (o + 256 * i + 4 * l - o) / 4 % 64 = l := by omega
    have := hsound (o + 256 * i + 4 * l) (by omega) (by omega) (by omega) (by rw [hlane]; exact hact)
    simpa only [Nat.add_assoc] using this
  | false =>
    simp only [hv, Bool.false_eq_true, if_false, List.mem_range, List.mem_map, IsEmpty.forall_iff, forall_const] at ha h hsound
    obtain ⟨i, hi, rfl⟩ := ha
    have := hsound (o + 4 * i) (by omega) (by omega) (by omega)
    simpa only [Nat.add_assoc] using this

/-- Settles O28: the words of a block lie in the spill range one behind another (`Ctx.read_spilled_v`, `Ctx.read_spilled_s`), FILL is a
list of results (`Ctx.writes_filled`), and the checks of the range are `Ctx.spillRange_eq`. -/
theorem spillFill : Obligations.SpillFill := by
  unfold Obligations.SpillFill
  intro f k o step fits byte stored
  refine ⟨?spill, ?fill, ?spillOdd, ?fillOdd, ?spillPast, ?fillPast, ?spillExhausts, ?fillExhausts⟩
  case spill =>
    refine effects_done (fun s c _ _ => exec_spill f s) (fun _ _ _ => rfl) fun s c hf _ hfits =>
      ⟨_, Ctx.spillRange_fits hf.form hfits, ?_⟩
    obtain ⟨g, w, hleft, ht, hfacets, hg, hw, hregs, hadv, hspill⟩ := Ctx.finish_spillDone hf 0x84 f.b k (o c)
    refine ⟨g, w, hleft, ht, hfacets, hg, hw, hregs, hadv, fun a => ?_⟩
    have hread := c.read_spilled f.b k (o c) a c.wave.spill
    rw [hspill]
    exact ⟨fun h => hread.trans (if_pos h), fun h => hread.trans (if_neg h)⟩
  case fill =>
    refine effects_of_active (effects_writes (fun s _ _ _ => exec_fill f s) (fun _ _ _ => rfl) (fun c hf ⟨⟨hfits, hsound⟩, hact⟩ => ?_) fun c _ _ => ?_)
    · rw [Ctx.spillRange_fits hf hfits, c.filledFrom_sound f.d (f.var.toNat + 1) (c.spillOffset f) hfits.1 hsound]
      exact congrArg Res.done (c.writes_filled hact f.d (o c) k).symm
    · exact c.filled_apart f.d (o c) k
  case spillOdd =>
    exact effects_fault (by decide) (fun s _ _ _ => exec_spill f s) (fun _ _ _ => rfl) fun c hf hodd => Ctx.spillRange_odd hf hodd
  case fillOdd =>
    exact effects_fault (by decide) (fun s _ _ _ => exec_fill f s) (fun _ _ _ => rfl) fun c hf hodd => Ctx.spillRange_odd hf hodd
  case spillPast =>
    exact effects_fault (by decide) (fun s _ _ _ => exec_spill f s) (fun _ _ _ => rfl) fun c hf hpast => Ctx.spillRange_past hf hpast
  case fillPast =>
    exact effects_fault (by decide) (fun s _ _ _ => exec_fill f s) (fun _ _ _ => rfl) fun c hf hpast => Ctx.spillRange_past hf hpast
  case spillExhausts =>
    exact exhausts_body (exec_spill f) (fun _ _ _ _ => rfl) fun _ _ _ hf hpast => Ctx.spillRange_exhausts hf.form hpast
  case fillExhausts =>
    exact exhausts_body (exec_fill f) (fun _ _ _ _ => rfl) fun _ _ _ hf hpast => Ctx.spillRange_exhausts hf.form hpast

end Sys2Proof.Machine
end

section
/-! PROOF. O31 (`Obligations.HeldBackEffects`): a command of a divisible task whose effect is held back, performed by the writing of its
record (R184, R203, R238, R285). -/

namespace Sys2Proof.Machine

open Sys2Proof

/-! ### A command that is held back -/

/-- No local byte that an effect reads lies in an uncorrectable word (R203). -/
def Effect.Sound (e : Effect) (c : Ctx) : Prop :=
  (∀ x ∈ e.sharedRanges c.grp.slots c.act, c.st.badLocal c.grp false x.1 x.2 = none)
    ∧ ∀ x ∈ e.spadRanges, c.st.badLocal c.grp true x.1 x.2 = none

/-- A group with a record in its deferred area. -/
def Group.withRecord (g : Group) (pc : DWord) (d : Deferred) (size : Nat) : Group :=
  { g with deferred := g.deferred ++ [(pc, d)], deferUsed := g.deferUsed + size }

section
variable {c : Ctx} {s : State} {f : Form} {cls : Nat} {e : Effect} {h : Option Nat} {rel : Bool} {d : Deferred} {size : Nat}

/-- A command with a record, where nothing else stops it: it is performed by the record, or has no room for it. -/
theorem Ctx.command_of_record (hf : c.Found s f) (hdiv : c.divisible = true) (htakes : c.Takes (c.order cls e h rel))
    (hsound : e.Sound c) (hrec : e.record c.st c.grp.id c.grp.die = some (d, size)) :
    c.command cls e h rel = if c.grp.deferCap < c.grp.deferUsed + size then .moved (c.st.exhaust c.grp.id c.wave.id c.path.pc)
      else .done (c.updGroup (c.st.submit c.grp.id c.wave.id { c.order cls e h rel with stage := .performed })
        (fun g => g.withRecord c.path.pc d size)) := by
  have hfull : c.full cls = false := htakes.room
  have hkey : (!e.access.1.isEmpty && !c.st.keyBound c.grp.ctx) = false := by
    rcases htakes.key with hk | hk
    · simp [show e.access.1 = [] from hk]
    · simp [hk]
  have hgood : ((e.sharedRanges c.grp.slots c.act).findSome? (fun x => c.st.badLocal c.grp false x.1 x.2)).or
      (e.spadRanges.findSome? (fun x => c.st.badLocal c.grp true x.1 x.2 (some c.grp.die))) = none := by
    rw [Option.or_eq_none_iff, List.findSome?_eq_none_iff, List.findSome?_eq_none_iff]
    exact hsound
  have htranslates : c.st.translates c.grp c.wave.core e 0 = true := by
    have hpages := htakes.pages
    have hall : e.accessFrom 0 = e.access := rfl
    cases hr : (c.st.translateAll c.grp.facet c.wave.core c.grp.ctx e.access.2 e.access.1 []).1 with
    | ok pins => simp only [State.translates, hall, hr]
    | error x => simp [Ctx.pinsFor, Ctx.order, hr] at hpages
  have hdiv : c.grp.div = true := hdiv
  rw [Ctx.command, hfull, hkey, if_neg Bool.false_ne_true, if_neg Bool.false_ne_true]
  simp only [State.accept, hf.group, hf.wave, Option.bind_some, Option.map_some, hdiv, if_true, Option.getD_none, hrec, hgood, htranslates,
    Bool.not_true, Bool.false_eq_true, if_false]
  by_cases hroom : c.grp.deferCap < c.grp.deferUsed + size
  · simp only [hroom, if_true]
  · simp only [hroom, if_false]
    rfl

end

/-- A record put into a group before the end of an issue is one put there after it. -/
theorem Ctx.finish_withRecord (c : Ctx) (op : Nat) (adv : Bool) (t : State) (pc : DWord) (d : Deferred) (size : Nat) :
    c.finish op adv (c.updGroup t (fun g => g.withRecord pc d size)) = c.updGroup (c.finish op adv t) (fun g => g.withRecord pc d size) := by
  obtain ⟨F, hfinish⟩ : ∃ F : Wave → Wave, ∀ t, c.finish op adv t
      = (t.count c.grp.facet c.grp.ctx 0 1).updGroup c.grp.id (fun g => g.updWave c.wave.id F) := ⟨_, fun _ => rfl⟩
  rw [hfinish, hfinish, Ctx.updGroup, Ctx.updGroup, State.updGroup_updGroup _ _ (F := fun g => g.updWave c.wave.id F) fun _ => rfl]
  exact State.updGroup_updGroup (t.count c.grp.facet c.grp.ctx 0 1) c.grp.id (F := fun g => g.withRecord pc d size) fun _ => rfl

/-- An issue that has submitted a command, and written a record. -/
theorem AcceptedAs.withRecord {c : Ctx} {s t : State} {os : Ctx → Order} {tags : Ctx → Option (MatKind × Ty × Nat)}
    (h : AcceptedAs os tags (fun _ g => g) s c t) {d : Ctx → Deferred} {size : Ctx → Nat} :
    AcceptedAs os tags (fun c g => g.withRecord c.path.pc (d c) (size c)) s c
      (c.updGroup t (fun g => g.withRecord c.path.pc (d c) (size c))) := by
  obtain ⟨g, w, hleft, ht, hfacets, hq, hg, hw, htag, hregs, hord, hadv⟩ := h
  refine ⟨_, w, hleft.updGroup _ (fun _ => rfl) rfl, ?_, hfacets, hq, ?_, hw, htag, hregs.congr rfl rfl rfl rfl, hord, hadv⟩
  · exact (congrArg (fun u : State => c.updGroup u _) ht :)
  · exact (congrArg (fun x : Group => x.withRecord c.path.pc (d c) (size c)) hg :)

/-- An instruction whose body is a command that a divisible task holds back. -/
theorem held_command {i : Instr} {op : Nat} {f : Form} {d a b : Allow} {x : Option Allow} {ok : Ctx → Prop} {extra : Ctx → Bool}
    {body : Ctx → Res} {cls : Nat} {e : Ctx → Effect} {h : Option Nat} {rel : Bool} {rec : Ctx → Deferred} {size : Ctx → Nat}
    (hi : ∀ s, exec i s = issueInstr op f s d a b x extra body) (he : ∀ c, c.form = f → ok c → extra c = true)
    (hb : ∀ c, c.form = f → ok c → body c = c.command cls (e c) h rel)
    (hr : ∀ s c, c.Found s f → (e c).record c.st c.grp.id c.grp.die = some (rec c, size c)) :
    let takes := fun (c : Ctx) => ok c ∧ c.divisible = true ∧ c.Takes (c.order cls (e c) h rel) ∧ (e c).Sound c
    Effects i op f d a b x (fun c => takes c ∧ c.grp.deferUsed + size c ≤ c.grp.deferCap)
        (HeldBack (fun c => c.order cls (e c) h rel) rec size)
      ∧ Exhausts i op f d a b x (fun c _ => takes c ∧ c.grp.deferCap < c.grp.deferUsed + size c) := by
  intro takes
  constructor
  · refine effects_done (fun s _ _ _ => hi s) (fun c hf hok => he c hf hok.1.1) fun s c hf hctx ⟨⟨hok, hdiv, htakes, hsound⟩, hroom⟩ => ?_
    have hbody := (hb c hf.form hok).trans (Ctx.command_of_record hf hdiv htakes hsound (hr s c hf))
    rw [if_neg (Nat.not_lt.2 hroom)] at hbody
    refine ⟨_, hbody, ?_⟩
    obtain ⟨g, w, hsub⟩ := Ctx.submit_submitted (o := { c.order cls (e c) h rel with stage := .performed }) hctx rfl
      ⟨htakes.room, htakes.key, htakes.pages⟩ (by simp)
    have hdone := hsub.finish (os := fun c => { c.order cls (e c) h rel with stage := .performed }) (tags := fun c => c.wave.latchTag) hf op rfl
    rw [Ctx.finish_withRecord]
    exact hdone.withRecord
  · refine exhausts_body hi (fun c _ hf hok => he c hf hok.1.1) fun s c _ hf ⟨⟨hok, hdiv, htakes, hsound⟩, hroom⟩ => ?_
    rw [hb c hf.form hok, Ctx.command_of_record hf hdiv htakes hsound (hr s c hf), if_pos hroom]

/-! ### The checks of the instructions, passed -/

section
variable {c : Ctx} {f : Form}

theorem Ctx.checkBulk_eq_none {d : Bulk} {loc sp write : Bool} (hgood : goodBulk c d)
    (heven : d.va.toNat % 4 = 0 ∧ d.vstr % 4 = 0)
    (hloc : loc = true → d.loc.toNat % 4 = 0 ∧ d.lstr % 4 = 0 ∧ d.localCodes c.st c.grp sp write = []) :
    c.checkBulk d loc sp write = none := by
  obtain ⟨hmin, hmax, hwords, hrow, hrows, htotal, hlast⟩ := hgood
  have hfields : (d.len < 4 || 16777216 < d.len || d.len % 4 ≠ 0 || d.rows < 1 || 65536 < d.rows
      || c.wave.readS c.st.tick 1 (sIndex c.form.a + 7) ≠ 0 || 16777216 < d.len * d.rows) = false := by
    simp only [Bool.or_eq_false_iff, decide_eq_false_iff_not, Nat.not_lt, not_not]
    exact ⟨⟨⟨⟨⟨⟨hmin, hmax⟩, hwords⟩, hrow⟩, hrows⟩, hlast⟩, htotal⟩
  have haligned : (d.va.toNat % 4 ≠ 0 || d.vstr % 4 ≠ 0 || (loc && (d.loc.toNat % 4 ≠ 0 || d.lstr % 4 ≠ 0))) = false := by
    cases loc with
    | false => simp [heven]
    | true => simp [heven, hloc rfl]
  unfold Ctx.checkBulk
  rw [if_neg (Bool.not_eq_true _ ▸ hfields), if_neg (Bool.not_eq_true _ ▸ haligned)]
  cases loc with
  | false => rfl
  | true => rw [if_pos rfl, (hloc rfl).2.2]; rfl

theorem Ctx.checkArgs_eq_none (hf : c.form = f) {k : Nat} (h : ∀ l, c.act.getLsbD l = true → c.read 1 .n64 f.a l % 2 ^ 64 % k = 0)
    (val loc : Nat → Nat) {sides : Option (Bool × Bool)}
    (hl : ∀ x ∈ sides, checkLanes c.st c.grp x.1 x.2 k ((lanesOf c.act).map loc) = none) :
    c.checkArgs (c.laneArgs val loc) k sides = none := by
  subst hf
  have hany : (c.laneArgs val loc).any (fun x => decide (x.addr.toNat % k ≠ 0)) = false := by
    rw [List.any_eq_false]
    intro x hx
    obtain ⟨l, hl, rfl⟩ := List.mem_map.1 hx
    simpa only [BitVec.toNat_ofNat, ne_eq, decide_not, Bool.not_eq_true', decide_eq_true_eq, Bool.not_eq_false, decide_eq_false_iff_not,
      not_not] using h l ((mem_lanesOf _ l).1 hl).2
  unfold Ctx.checkArgs
  rw [hany]
  cases sides with
  | none => rfl
  | some x =>
    refine Eq.trans (congrArg _ ?_) (hl x rfl)
    rw [Ctx.laneArgs, List.map_map]
    rfl

theorem Ctx.checkArgs_main (hf : c.form = f) {k : Nat} (h : ∀ l, c.act.getLsbD l = true → c.read 1 .n64 f.a l % 2 ^ 64 % k = 0)
    (val loc : Nat → Nat) : c.checkArgs (c.laneArgs val loc) k none = none :=
  c.checkArgs_eq_none hf h val loc fun _ hx => nomatch hx

theorem Ctx.localOf_registers (hf : c.form = f) (hv : f.var = 0#4) (write : Bool) : c.localOf write = none := by
  simp [Ctx.localOf, hf, hv]

theorem Ctx.localOf_local (hf : c.form = f) (hv : f.var ≠ 0#4) (write : Bool) : c.localOf write = some (decide (f.var = 2#4), write) := by
  unfold Ctx.localOf
  rw [hf]
  split
  · rename_i h0
    exact absurd (BitVec.eq_of_toNat_eq h0) hv
  · simp [BitVec.toNat_eq]

/-- The lanes of a scatter: with the values of B, or with local addresses (R227). -/
def Ctx.scattered (c : Ctx) (f : Form) : List LaneArg :=
  if f.var = 0#4 then laneList c (c.patB f) (fun _ => 0) else laneList c (fun _ => 0) (fun l => c.read 2 .n32 f.b l)

theorem Ctx.length_scattered (c : Ctx) (f : Form) : (c.scattered f).length = (lanesOf c.act).length := by
  unfold Ctx.scattered
  split <;> exact List.length_map _

theorem exec_bscat (f : Form) (s : State) : exec (.bscat f) s = issueInstr 0x93 f s .unused (.vreg true)
    (if f.var = 0#4 then .value (wideTy f.ty) else .vreg false) (some .cmdHandle) (fun _ => true) (fun c =>
      match c.checkArgs (c.scattered f) (tySize f.ty) (c.localOf false) with
      | some k => .fault k
      | none => c.command 2 (.scatter f.ty f.var.toNat (c.scattered f)) (handleReg f.c)) := rfl

theorem Ctx.checkArgs_scattered (hf : c.form = f)
    (h : ∀ l, c.act.getLsbD l = true → c.read 1 .n64 f.a l % 2 ^ 64 % tySize f.ty = 0)
    (hl : f.var = 0#4 ∨ checkLanes c.st c.grp (f.var = 2#4) false (tySize f.ty) ((lanesOf c.act).map (fun l => c.read 2 .n32 f.b l)) = none) :
    c.checkArgs (c.scattered f) (tySize f.ty) (c.localOf false) = none := by
  unfold Ctx.scattered
  by_cases hv : f.var = 0#4
  · rw [if_pos hv, c.localOf_registers hf hv]
    exact c.checkArgs_main hf h _ _
  · rw [if_neg hv, c.localOf_local hf hv]
    refine c.checkArgs_eq_none hf h _ _ fun x hx => ?_
    obtain rfl := Option.some.inj hx
    exact hl.resolve_left hv

/-! ### The bytes of a record -/

theorem storeSize_eq (n : Nat) : storeSize n = 64 + (n + 63) / 64 * 64 := rfl

theorem Ctx.readLocal_eq {s : State} (hf : c.Found s f) (sp : Bool) (a n : Nat) :
    c.st.readLocal c.grp.id sp a n (some c.grp.die) = (List.range n).map (fun j => localByte c.grp c.st sp (c.localKey sp a + j)) := by
  rw [State.readLocal, hf.group]
  cases sp <;> rfl

theorem scatter_record {s : State} (hf : c.Found s f) :
    (Effect.scatter f.ty f.var.toNat (c.scattered f)).record c.st c.grp.id c.grp.die
      = some (.store (tySize f.ty) ((c.scattered f).map (fun x => (x.addr, if f.var = 0#4 then toBytes (tySize f.ty) x.val.toNat
          else (List.range (tySize f.ty)).map (fun j => localByte c.grp c.st (f.var = 2#4) (c.localKey (f.var = 2#4) x.loc + j))))),
        storeSize ((lanesOf c.act).length * tySize f.ty)) := by
  have hzero : f.var.toNat = 0 ↔ f.var = 0#4 := by simp [BitVec.toNat_eq]
  have htwo : f.var.toNat = 2 ↔ f.var = 2#4 := by simp [BitVec.toNat_eq]
  simp only [Effect.record, scatterBytes, c.length_scattered, c.readLocal_eq hf, hzero, htwo]

theorem patternBytes_word (x n : Nat) :
    patternBytes (word x) n = (List.range n).map (fun j => BitVec.ofNat 8 (x / 2 ^ (8 * (j % 4)))) := by
  refine List.map_congr_left fun j _ => BitVec.eq_of_toNat_eq ?_
  simp only [bits, word_toNat, Nat.shiftRight_eq_div_pow, BitVec.toNat_ofNat, Nat.mod_mod]
  have hj : j % 4 < 4 := Nat.mod_lt _ (by decide)
  interval_cases j % 4 <;> omega

end

/-- Settles O31: each instruction is a command whose effect has a record (`held_command`); the rows of BCOUT are read by `Ctx.readLocal_eq`,
the pattern of BFILL is `patternBytes_word`, and a scatter copies its values or its local bytes (`scatter_record`). -/
theorem heldBackEffects : Obligations.HeldBackEffects := by
  unfold Obligations.HeldBackEffects
  intro f sp n reg h handle rel sound held lined even evenLocal bytes rows lines vals locs copy fill scatter reduce sum clear size
  refine ⟨?copy, ?fill, fun _ => ?scatter, ?reduce, ?sum, ?clear⟩
  case copy =>
    refine held_command (fun _ => rfl) (fun _ _ _ => rfl) (fun c _ ⟨⟨hgood, heven⟩, hlocal⟩ => ?_) fun s c hf => ?_
    · simp only [c.checkBulk_eq_none (sp := bit f.var 0) hgood heven fun _ => hlocal]
      rfl
    · simp only [Effect.record, Bulk.rowBytes, storeSize_eq, c.readLocal_eq hf]
      rfl
  case fill =>
    refine held_command (fun _ => rfl) (fun _ _ _ => rfl) (fun c _ ⟨hgood, heven⟩ => ?_) fun s c hf => ?_
    · simp only [c.checkBulk_eq_none (loc := false) (sp := false) (write := false) hgood heven fun h => absurd h Bool.false_ne_true]
      rfl
    · simp only [Effect.record, storeSize_eq, patternBytes_word]
      rfl
  case scatter =>
    refine held_command (e := fun c => .scatter f.ty f.var.toNat (c.scattered f)) (exec_bscat f) (fun _ _ _ => rfl)
      (fun c hf ⟨hlined, hlocal⟩ => ?_) fun s c hf => scatter_record hf
    simp only [c.checkArgs_scattered hf hlined hlocal]
    rfl
  case reduce =>
    refine held_command (fun _ => rfl) (fun _ _ _ => rfl) (fun c hf hok => ?_) fun s c hf => rfl
    simp only [c.checkArgs_main (k := tySize f.ty) hf hok]
    rfl
  case sum =>
    refine held_command (fun _ => rfl) (fun _ _ _ => rfl) (fun c hf hok => ?_) fun s c hf => rfl
    simp only [c.checkArgs_main hf hok]
    rfl
  case clear =>
    refine held_command (fun _ => rfl) (fun _ _ _ => rfl) (fun c hf hok => ?_) fun s c hf => rfl
    simp only [c.checkArgs_main hf hok]
    rfl

end Sys2Proof.Machine
end

section
/-! PROOF. O50 (`Obligations.WaveEvents`): how a command is answered (R207, R213, R335, R430, R431), what performing it does to memory and to
local storage, and the wave events of R296, R318 and R353. -/

namespace Sys2Proof.Machine

open Sys2Proof

/-! ### COMMAND_COMPLETE of a command -/

section
variable {s : State} {gid wid : Nat} {g : Group} {w : Wave} {c : Cmd}

/-- The links that a command's requests took lead on, and nothing of it waits behind a replay buffer (R430, R431). -/
theorem State.answered_iff (hg : g.id = gid) (hw : w.id = wid) : s.answered g w c = true ↔
    ∀ x ∈ c.via, ∀ p, (if (s.port x.2).state = 3 then s.routeTo x.1 else some x.2) = some p → (s.port p).state = 2
      ∧ ∀ y ∈ (s.port p).replay.drop 256, y.tag ≠ some (gid, wid, c.cls, c.seq) := by
  subst hg hw
  unfold State.answered
  rw [List.all_eq_true]
  refine forall₂_congr fun x _ => ?_
  split
  next h => simp [h]
  next p h => simp [h]

theorem State.mayPerform_works (h : s.mayPerform g w c = true) : g.works c.cls = true ∧ c.stage = .queued := by
  simp only [State.mayPerform, Bool.and_eq_true, decide_eq_true_eq] at h
  obtain ⟨⟨⟨hstage, hworks⟩, -⟩, -⟩ := h
  exact ⟨hworks, hstage⟩

theorem execCommandComplete_found (hg : s.group? gid = some g) (hw : g.wave? wid = some w) (hc : w.cmd? c.cls c.seq = some c) :
    (s.group? gid).bind (fun g => (g.wave? wid).bind (fun w => (w.cmd? c.cls c.seq).map (fun c => (g, w, c)))) = some (g, w, c) := by
  simp [hg, hw, hc]

/-- A command whose engine has done with its cycle, or whose answer has no way, waits. -/
theorem commandComplete_waits (hg : s.group? gid = some g) (hw : g.wave? wid = some w) (hc : w.cmd? c.cls c.seq = some c) (ans : Byte)
    (hdone : c.done = false) (h : s.engineClosed g c = true ∨ c.posted = true ∧ s.answered g w c = false) :
    exec (.commandComplete gid wid c.cls c.seq ans) s = .next s := by
  change execCommandComplete gid wid c.cls c.seq ans s = _
  simp only [execCommandComplete, execCommandComplete_found hg hw hc]
  rcases h with h | ⟨hp, ha⟩
  · simp [hdone, h]
  · simp [hdone, hp, ha]

/-- A command that nothing holds back is performed, or worked on where the answer is PENDING. -/
theorem commandComplete_ready (hg : s.group? gid = some g) (hw : g.wave? wid = some w) (hc : w.cmd? c.cls c.seq = some c) (ans : Byte)
    (hmay : s.mayPerform g w c = true) (hclosed : s.engineClosed g c = false) (hans : s.answered g w c = true)
    (hport : c.posted = true ∨ s.portsOf c = []) : exec (.commandComplete gid wid c.cls c.seq ans) s
      = .next ((if ans = 0x01#8 then s.progress g w c else s.performCmd g w c ans).signal g wid c.cls) := by
  obtain ⟨hworks, -⟩ := State.mayPerform_works hmay
  have hsent : (!c.posted && !(s.portsOf c).isEmpty) = false := by rcases hport with h | h <;> simp [h]
  change execCommandComplete gid wid c.cls c.seq ans s = _
  simp only [execCommandComplete, execCommandComplete_found hg hw hc]
  simp [hworks, hclosed, hans, hmay, hsent]

/-- The requests of a command wait while a port that they leave on is not up (R431). -/
theorem commandComplete_unsent (hg : s.group? gid = some g) (hw : g.wave? wid = some w) (hc : w.cmd? c.cls c.seq = some c) (ans : Byte)
    (hmay : s.mayPerform g w c = true) (hclosed : s.engineClosed g c = false) (hposted : c.posted = false)
    (hdown : ∃ p ∈ s.portsOf c, (s.port p).state ≠ 2) :
    exec (.commandComplete gid wid c.cls c.seq ans) s = .next (s.signal g wid c.cls) := by
  obtain ⟨hworks, -⟩ := State.mayPerform_works hmay
  obtain ⟨p, hp, hstate⟩ := hdown
  have hsent : (s.portsOf c).isEmpty = false := by simpa using List.ne_nil_of_mem hp
  obtain ⟨x, hx, rfl⟩ := List.mem_map.1 hp
  have hpost : s.postRequests g w c = s := if_pos (List.any_eq_true.2 ⟨x, hx, decide_eq_true hstate⟩)
  change execCommandComplete gid wid c.cls c.seq ans s = _
  simp only [execCommandComplete, execCommandComplete_found hg hw hc]
  simp [hworks, hclosed, hmay, hposted, hsent, hpost]

/-- A delivery that lands is completed, or lands some more of its bytes (R212). -/
theorem commandComplete_landing (hg : s.group? gid = some g) (hw : g.wave? wid = some w) (hc : w.cmd? c.cls c.seq = some c) (ans : Byte)
    (hstage : c.stage = .landing) (hposted : c.posted = false) (hworks : g.works c.cls = true) (hclosed : s.engineClosed g c = false) :
    exec (.commandComplete gid wid c.cls c.seq ans) s
      = .next ((if ans = 0x01#8 then s.progressLanding g w c else s.land gid wid c.cls c.seq).signal g wid c.cls) := by
  have hmay : s.mayPerform g w c = false := by simp [State.mayPerform, hstage]
  obtain rfl := State.group?_id s hg
  obtain rfl := Group.wave?_id g hw
  change execCommandComplete _ _ c.cls c.seq ans s = _
  simp only [execCommandComplete, execCommandComplete_found hg hw hc]
  simp [hworks, hclosed, hmay, hposted, hstage]

/-- The bytes that land are those that do not land later. -/
theorem State.progressLanding_eq (s : State) (g : Group) (w : Wave) (c : Cmd) :
    let later := c.late.filter (fun x => 2 ^ 63 ≤ x.1 || s.landsLater g x.1)
    s.progressLanding g w c = (s.landBytes g.id (c.late.filter (fun x => !later.contains x))).updCmd g.id w.id c.cls c.seq (fun c => { c with
      late := later }) := by
  intro later
  have hnow : c.late.filter (fun x => !later.contains x) = c.late.filter (fun x => !(2 ^ 63 ≤ x.1 || s.landsLater g x.1)) := by
    refine List.filter_congr fun x hx => ?_
    simp [later, hx]
  rw [hnow]
  simp only [State.progressLanding, List.partition_eq_filter_filter]
  rfl

end

/-! ### Performing a command, and some of it -/

section
variable {s : State} {g : Group} {w : Wave} {c : Cmd}

/-- What is left of a command of which nothing has been performed. -/
theorem Cmd.left_whole (hsent : c.sent = 0) (hmoved : c.moved = []) : c.left = [c] := by simp [Cmd.left, hsent, hmoved]

/-- A copy-engine command that consumes no uncorrectable word and of which nothing has been performed (R207, R433). -/
theorem State.performCmd_copy (ans : Byte) (hstatus : c.status = 0) (hcls : c.cls ≤ 3) (hsent : c.sent = 0) (hmoved : c.moved = [])
    (hgood : s.consumes g w c = none) (hcall : ∀ k, c.effect ≠ .call k) (hmat : ∀ m, c.effect ≠ .matrix m) :
    s.performCmd g w c ans = (s.copyPieces g w c ans [c.effect] [c]).perform g.id w.id c.cls c.seq
      (if c.lost = true ∨ ∃ x ∈ c.mainKeys, s.reaches ans c x.1 = false then 0x14 else 0) := by
  have hleft := Cmd.left_whole hsent hmoved
  have hrest : c.rest = [c.effect] := if_pos hsent
  have hcopy : s.performCopy g w c ans = (s.copyPieces g w c ans [c.effect] [c]).perform g.id w.id c.cls c.seq
      (if c.lost = true ∨ ∃ x ∈ c.mainKeys, s.reaches ans c x.1 = false then 0x14 else 0) := by
    have hlost : (c.lost || (c.left.flatMap Cmd.mainKeys).any (fun x => !s.reaches ans c x.1)) = true
        ↔ c.lost = true ∨ ∃ x ∈ c.mainKeys, s.reaches ans c x.1 = false := by simp [hleft]
    unfold State.performCopy
    dsimp only
    rw [hrest, if_congr hlost rfl rfl, hleft]
    rfl
  have hfree : c.left.findSome? (s.consumes g w) = none := by simp [hleft, hgood]
  rw [← hcopy]
  unfold State.performCmd
  split
  next m hm => exact absurd hm (hmat m)
  · rw [if_neg (by simp [hstatus]), hfree]
    dsimp only
    split
    next k hk => exact absurd hk (hcall k)
    · exact if_neg (by omega)

/-- A command that no unit has begun is begun (R213). -/
theorem State.progress_begins (hcls : c.cls ≤ 4) (hbegun : c.begun = false) (hcall : ∀ k, c.effect ≠ .call k) :
    s.progress g w c = s.updCmd g.id w.id c.cls c.seq (fun c => { c with begun := true }) := by
  unfold State.progress
  split
  next h => exact absurd h (hcall _)
  · rw [if_neg (by omega), if_pos (by simp [hbegun])]

/-- A call, and a command of the matrix unit, is one piece. -/
theorem Effect.pieces_of_undivided {e : Effect} (h : (∃ k, e = .call k) ∨ ∃ m, e = .matrix m) : e.pieces = [e] := by
  rcases h with ⟨k, rfl⟩ | ⟨m, rfl⟩ <;> rfl

/-- A begun command of which more than one piece is left goes on with the next, as a free choice (R182, R213). -/
theorem State.progress_piece {e e' : Effect} {rest : List Effect} (hcls : c.cls ≤ 3) (hbegun : c.begun = true) (hstatus : c.status = 0)
    (hleft : c.effect.pieces.drop c.sent = e :: e' :: rest)
    (hreach : ∀ x ∈ ({ c with effect := e } : Cmd).mainKeys, s.reaches 0 c x.1 = true) :
    (Config.freeBit s.tick 0x321 c.sent = true → s.progress g w c = s.performPiece g w c e)
      ∧ (Config.freeBit s.tick 0x321 c.sent = false → e.words.length ≤ 1 →
        s.progress g w c = s.updCmd g.id w.id c.cls c.seq (fun c => c)) := by
  have hnot : ¬((∃ k, c.effect = .call k) ∨ ∃ m, c.effect = .matrix m) := by
    intro h
    have hlen := congrArg List.length hleft
    rw [Effect.pieces_of_undivided h, List.length_drop] at hlen
    simp at hlen
    omega
  have hlost : (({ c with effect := e } : Cmd).mainKeys).any (fun x => !s.reaches 0 c x.1) = false := by simpa using hreach
  have hsame : s.writtenBy s (g.id, w.id, c.cls, c.seq) = s := by simp [State.writtenBy]
  unfold State.progress
  split
  next h => exact absurd (.inl ⟨_, h⟩) hnot
  · rw [if_neg (by omega), if_neg (by simp [hbegun]), if_neg (by simp [hstatus])]
    split
    next m h => exact absurd (.inr ⟨m, h⟩) hnot
    · rw [hleft]
      dsimp only
      rw [hlost]
      refine ⟨fun hbit => by simp [hbit], fun hbit hwords => ?_⟩
      simp [hbit, hwords, hsame]

/-- A piece of a command that reaches its home performed. -/
theorem State.performPiece_reaches {e : Effect} (hmoved : c.moved = []) (hgood : s.consumes g w { c with effect := e } = none)
    (hreach : ∀ x ∈ ({ c with effect := e } : Cmd).mainKeys, s.reaches 0 c x.1 = true) :
    s.performPiece g w c e = (s.copyPieces g w c 0 [e] [{ c with effect := e }]).updCmd g.id w.id c.cls c.seq (fun c => { c with
      sent := c.sent + 1
      moved := [] }) := by
  have hlost : (({ c with effect := e } : Cmd).mainKeys).any (fun x => !s.reaches 0 c x.1) = false := by simpa using hreach
  have hks : c.unmoved e = [e] := by simp [Cmd.unmoved, hmoved]
  unfold State.performPiece
  dsimp only
  rw [hks, hlost]
  simp [hgood]

end

/-! ### What performing leaves of memory and of shared memory -/

/-- Main memory, the keys of its sectors, and the shared memory of every group are the same. -/
structure State.SameStorage (s t : State) : Prop where
  mem    : t.mem = s.mem
  keyed  : t.keyed = s.keyed
  shared : ∀ gid, (t.group? gid).map Group.shared = (s.group? gid).map Group.shared

namespace State.SameStorage

variable {s t u : State} {facet ctx gid wid cls seq key n page sec : Nat} {g : Group} {c : Cmd} {ans : Byte}

theorem refl (s : State) : s.SameStorage s := ⟨rfl, rfl, fun _ => rfl⟩

theorem keep (h : s.SameStorage t) (hmem : u.mem = t.mem) (hkeyed : u.keyed = t.keyed) (hgroups : u.groups = t.groups) :
    s.SameStorage u where
  mem := hmem.trans h.mem
  keyed := hkeyed.trans h.keyed
  shared k := by rw [← h.shared k, State.group?, State.group?, hgroups]

theorem ite {p : Prop} [Decidable p] (ht : s.SameStorage t) (hu : s.SameStorage u) : s.SameStorage (if p then t else u) := by
  split <;> assumption

theorem foldl {α : Type} {l : List α} {f : State → α → State} (h : s.SameStorage t) (hf : ∀ v x, s.SameStorage v → s.SameStorage (f v x)) :
    s.SameStorage (l.foldl f t) :=
  List.foldlRecOn l f h fun v hv x _ => hf v x hv

theorem updGroup (h : s.SameStorage t) {F : Group → Group} (hid : ∀ x, (F x).id = x.id) (hshared : ∀ x, (F x).shared = x.shared) :
    s.SameStorage (t.updGroup gid F) where
  mem := h.mem
  keyed := h.keyed
  shared k := by
    rw [← h.shared k]
    by_cases hk : k = gid
    · subst hk
      rw [group?_updGroup _ _ _ hid, Option.map_map]
      exact congrArg (Option.map · _) (funext hshared)
    · rw [group?_updGroup_ne _ _ hid hk]

theorem updCmd (h : s.SameStorage t) {F : Cmd → Cmd} : s.SameStorage (t.updCmd gid wid cls seq F) := h.updGroup (fun _ => rfl) fun _ => rfl

theorem perform (h : s.SameStorage t) {status : Byte} : s.SameStorage (t.perform gid wid cls seq status) := h.updCmd

theorem count (h : s.SameStorage t) {i : Nat} : s.SameStorage (t.count facet ctx i n) := h.keep rfl rfl rfl

theorem countMig (h : s.SameStorage t) {mode : Nat} : s.SameStorage (t.countMig facet mode page key) := by
  unfold State.countMig
  refine ite ?_ h
  dsimp only
  split <;> exact h.keep rfl rfl rfl

theorem dropLines (h : s.SameStorage t) {p : L2Line → Bool} : s.SameStorage (t.dropLines p) := h.keep rfl rfl rfl

theorem makeWay (h : s.SameStorage t) : s.SameStorage (t.makeWay facet sec) := ite h h.dropLines

theorem makeEntry (h : s.SameStorage t) : s.SameStorage (t.makeEntry sec) := ite h (ite h h.dropLines)

theorem touch (h : s.SameStorage t) {mode : Nat} {write : Bool} : s.SameStorage (t.touch facet ctx mode page key write) := by
  unfold State.touch
  lift_lets
  intro sec s₁ mine serves s₂ s₃ others rest bad shared
  have h₁ : s.SameStorage s₁ := h.keep rfl rfl rfl
  have h₂ : s.SameStorage s₂ := ite h₁ h₁.countMig
  have h₃ : s.SameStorage s₃ := ite h₂.count.makeEntry.makeWay h₂
  refine ite (ite h₁.dropLines h₁) (ite (h₃.keep rfl rfl rfl) ?_)
  generalize mine = found
  cases found with
  | some _ => exact h₃
  | none => exact ite (h₃.keep rfl rfl rfl) (h₃.keep rfl rfl rfl)

theorem touchPinned (h : s.SameStorage t) {pins : List Pin} {va : Nat} {write : Bool} :
    s.SameStorage (t.touchPinned facet ctx pins va write) := by
  unfold State.touchPinned
  split
  · exact h.touch
  · exact h

theorem requests (h : s.SameStorage t) {es : List Effect} : s.SameStorage (t.requests facet ctx c ans es) := by
  unfold State.requests
  refine h.foldl fun v x hv => ?_
  split
  · exact ite hv (ite hv.touchPinned hv.countMig)
  · exact hv

theorem countMain (h : s.SameStorage t) {e : Effect} {keys : List (Nat × Nat)} : s.SameStorage (t.countMain g e keys) := by
  unfold State.countMain
  split
  · split
    · exact h.count
    · exact ite h.count.count h.count
  · split
    · exact h
    · exact ite h.count h

theorem mendRanges (h : s.SameStorage t) {rs : List (Nat × Nat)} : s.SameStorage (t.mendRanges gid rs) := by
  unfold State.mendRanges
  lift_lets
  intro u
  have hu : s.SameStorage u := h.keep rfl rfl rfl
  exact hu.updGroup (fun _ => rfl) fun _ => rfl

theorem mend (h : s.SameStorage t) {es : List Effect} : s.SameStorage (t.mend g c ans es) := ite h h.mendRanges

end State.SameStorage

/-- All but the effect of its pieces leaves memory and shared memory. -/
theorem State.sameStorage_copyPieces (s : State) (g : Group) (w : Wave) (c : Cmd) (ans : Byte) (es : List Effect) (k : Cmd) :
    (s.copyEffect g w k ans).SameStorage (s.copyPieces g w c ans es [k]) := by
  have h : (s.copyEffect g w k ans).SameStorage ((s.copyEffect g w k ans).writtenBy s (g.id, w.id, c.cls, c.seq)) :=
    (State.SameStorage.refl _).keep rfl rfl rfl
  exact h.countMain.mend.requests

/-! ### What a write to main memory leaves of other bytes -/

theorem State.read_claimSector_other (s : State) (ctx key a : Nat) (h : isLocal a = true → a / 64 ≠ key / 64) :
    (s.claimSector ctx key).mem.read a = s.mem.read a := by
  unfold State.claimSector
  dsimp only
  split
  · rfl
  next hc =>
    obtain ⟨hloc, -⟩ : isLocal key = true ∧ look 0 s.keyed (key / 64) ≠ ctx + 1 := by simpa using hc
    have hsec : a / 64 ≠ key / 64 := fun heq => h (isLocal_sector hloc heq) heq
    dsimp only
    split
    · rfl
    · apply Memory.read_writeBytes_outside
      simp only [State.readBytes, List.length_map, List.length_range]
      omega

theorem State.read_writeUp_other (s : State) (ctx key : Nat) (f : Nat → Byte) (n a : Nat) (hout : ¬(key ≤ a ∧ a < key + n))
    (hsec : isLocal a = true → ∀ i, i < n → a / 64 ≠ (key + i) / 64) : (s.writeUp ctx key f n).mem.read a = s.mem.read a := by
  induction n with
  | zero => rfl
  | succ n ih =>
    have hone := State.read_claimSector_other (s.writeUp ctx key f n) ctx (key + n) a fun hl => hsec hl n (by omega)
    rw [State.writeUp_succ, State.writeByte]
    dsimp only
    rw [Memory.read_write_ne _ _ (by omega), hone, ih (by omega) fun hl i hi => hsec hl i (by omega)]

/-- A write that meets no TAIL word leaves every byte outside it, but for those of its sectors that it brings under another key (R202). -/
theorem State.read_storeMain_other {s : State} {ctx key : Nat} {bytes : List Byte} {unit : Nat} {a : Nat}
    (hq : ∀ q ∈ s.queues, meets key bytes.length (q.key + 16) 8 = false) (hout : ¬(key ≤ a ∧ a < key + bytes.length))
    (hsec : isLocal a = true → ∀ i, i < bytes.length → a / 64 ≠ (key + i) / 64) :
    (s.storeMain ctx key bytes unit).mem.read a = s.mem.read a := by
  obtain ⟨u, hu⟩ : ∃ u, u = (s.backInvalidate key (max 1 bytes.length)).recallRange key (max 1 bytes.length) := ⟨_, rfl⟩
  have humem : u.mem = s.mem := by rw [hu]; rfl
  have hq' : (u.keepOld key bytes.length).queues.filter (fun q => meets key bytes.length (q.key + 16) 8) = [] := by
    rw [State.keepOld_eq, hu]
    exact List.filter_eq_nil_iff.2 fun q hm => by simp [hq q hm]
  have hfold : ∀ v : State, (List.range bytes.length).foldl (fun s i =>
      if ([] : List Queue).any (fun q => q.key + 16 ≤ key + i && key + i < q.key + 24) then s
      else s.writeByte ctx (key + i) (bytes.getD i 0)) v = v.writeUp ctx key (fun i => bytes.getD i 0) bytes.length := fun v => rfl
  have hread : ((u.keepOld key bytes.length).writeUp ctx key (fun i => bytes.getD i 0) bytes.length).mem.read a = s.mem.read a := by
    rw [State.read_writeUp_other _ _ _ _ _ _ hout hsec, State.keepOld_eq, ← humem]
  rw [State.storeMain, ← hu, State.applyMain, hq', hfold, List.foldl_nil]
  exact hread

/-! ### One lane at its home, and one row fetched -/

section
variable {s : State} {g : Group} {w : Wave} {c : Cmd}

theorem tySize_le (ty : Ty) : tySize ty ≤ 8 := by cases ty <;> decide

theorem State.reaches_near {k : Nat} (s : State) (c : Cmd) (h : k < 2 ^ 50) : s.reaches 0 c k = true := by
  rw [State.reaches, if_neg (by omega)]
  rfl

/-- The atomic operation of one lane whose old value no register takes (R228). -/
theorem State.copyEffect_atomic {op : Nat} {ty : Ty} {x : LaneArg} {k o m : Nat} (he : c.effect = .atomic op ty .none [x])
    (hp : pinned c.pins x.addr.toNat = some (k, o, m)) (hk : k < 2 ^ 50) : s.copyEffect g w c 0
      = ((s.backInvalidate k (tySize ty)).recallRange k (tySize ty)).storeMain o k
          (toBytes (tySize ty) (atomOp op ty (s.readNum o k (tySize ty)) x.val.toNat)) := by
  have hr : s.reaches 0#8 c k = true := State.reaches_near s c hk
  simp [State.copyEffect, he, State.lanesAtHome, State.atHome, hp, hr]

/-- The piece of a row that lies in one page. -/
theorem rowPieces_page {a n : Nat} (hn : 1 ≤ n) (h : a % 4096 + n ≤ 4096) : rowPieces a n = [(a, n)] := by
  have hpage : (a + n - 1) / 4096 - a / 4096 + 1 = 1 := by omega
  have hmax : max a (a / 4096 * 4096) = a := by omega
  have hmin : min (a + n) ((a / 4096 + 1) * 4096) - a = n := by omega
  simp [rowPieces, pagesOf, hpage, hmax, hmin]

/-- One row of a bulk command read into shared memory (R226). -/
theorem State.copyEffect_bulkIn {d : Bulk} {k o m : Nat} (hg : s.group? g.id = some g) (he : c.effect = .bulkIn d false)
    (hrows : d.rows = 1) (hlen : 1 ≤ d.len) (hpage : d.va.toNat % 4096 + d.len ≤ 4096)
    (hp : pinned c.pins d.va.toNat = some (k, o, m)) (hk : k + d.len ≤ 2 ^ 50) : s.copyEffect g w c 0
      = s.updGroup g.id (fun x => x.storeShared d.loc.toNat ((List.range d.len).map (fun i => s.readByte o (k + i)))) := by
  have hr : s.reaches 0#8 c k = true := State.reaches_near s c (by omega)
  have hlist : d.rowList = [((d.va.toNat : Int), (d.loc.toNat : Int))] := by simp [Bulk.rowList, hrows]
  have hbytes : (List.range d.len).map (fun i => s.readVia g.facet m o (k + i) c.effect.grain)
      = (List.range d.len).map (fun i => s.readByte o (k + i)) := by
    refine List.map_congr_left fun i hi => ?_
    have hi' : i < d.len := List.mem_range.1 hi
    simp only [State.readVia]
    exact if_pos (by simp; omega)
  simp [State.copyEffect, he, hlist, State.fetchRow, rowPieces_page hlen hpage, hp, hr]
  rw [he] at hbytes
  simp [State.storeLocal, hg, hbytes]

/-- Main memory after an atomic operation of one lane has been performed. -/
theorem State.performCmd_atomic {op : Nat} {ty : Ty} {x : LaneArg} {k o m : Nat} (hstatus : c.status = 0) (hcls : c.cls ≤ 3)
    (hsent : c.sent = 0) (hmoved : c.moved = []) (hgood : s.consumes g w c = none) (he : c.effect = .atomic op ty .none [x])
    (hp : pinned c.pins x.addr.toNat = some (k, o, m)) (hk : k < 2 ^ 50) (hq : ∀ q ∈ s.queues, meets k (tySize ty) (q.key + 16) 8 = false) :
    (s.performCmd g w c 0).readNum o k (tySize ty) = atomOp op ty (s.readNum o k (tySize ty)) x.val.toNat % 2 ^ (8 * tySize ty)
      ∧ ∀ a, ¬(k ≤ a ∧ a < k + tySize ty) → (isLocal a = true → a / 64 ≠ k / 64 ∧ a / 64 ≠ (k + tySize ty - 1) / 64) →
          (s.performCmd g w c 0).mem.read a = s.mem.read a := by
  obtain ⟨t, ht⟩ : ∃ t, t = (s.backInvalidate k (tySize ty)).recallRange k (tySize ty) := ⟨_, rfl⟩
  have hqt : ∀ y, ∀ q ∈ t.queues, meets k (toBytes (tySize ty) y).length (q.key + 16) 8 = false := by
    intro y q hm
    rw [length_toBytes]
    exact hq q (by rw [ht] at hm; exact hm)
  have hmem : t.mem = s.mem := by rw [ht]; rfl
  have hkeep : (s.copyEffect g w c 0).SameStorage (s.performCmd g w c 0) := by
    rw [State.performCmd_copy 0 hstatus hcls hsent hmoved hgood (by simp [he]) (by simp [he])]
    exact (State.sameStorage_copyPieces s g w c 0 [c.effect] c).perform
  rw [State.copyEffect_atomic he hp hk, ← ht] at hkeep
  refine ⟨?_, fun a hout hsec => ?_⟩
  · have hread := (State.storeMain_stored (ctx := o) (unit := 64) (hqt (atomOp op ty (s.readNum o k (tySize ty)) x.val.toNat))).readNum
    rw [pow_mul]
    refine Eq.trans ?_ hread
    exact congrArg ofBytes (List.map_congr_left fun i _ => State.readByte_congr hkeep.mem hkeep.keyed _ _)
  · have hsmall := tySize_le ty
    rw [hkeep.mem, State.read_storeMain_other (hqt _) (by rwa [length_toBytes]) ?_, hmem]
    intro hl i hi
    rw [length_toBytes] at hi
    have := hsec hl
    omega

/-- Shared memory after a bulk row has been performed. -/
theorem State.performCmd_bulkIn {d : Bulk} {k o m : Nat} (hg : s.group? g.id = some g) (hstatus : c.status = 0) (hcls : c.cls ≤ 3)
    (hsent : c.sent = 0) (hmoved : c.moved = []) (hgood : s.consumes g w c = none) (he : c.effect = .bulkIn d false)
    (hrows : d.rows = 1) (hlen : 1 ≤ d.len) (hpage : d.va.toNat % 4096 + d.len ≤ 4096)
    (hp : pinned c.pins d.va.toNat = some (k, o, m)) (hk : k + d.len ≤ 2 ^ 50) :
    ∃ x, (s.performCmd g w c 0).group? g.id = some x ∧ (s.performCmd g w c 0).mem = s.mem
      ∧ (∀ j, j < d.len → x.shared.read (d.loc.toNat + j) = s.readByte o (k + j))
      ∧ ∀ a, ¬(d.loc.toNat ≤ a ∧ a < d.loc.toNat + d.len) → x.shared.read a = g.shared.read a := by
  have hkeep : (s.copyEffect g w c 0).SameStorage (s.performCmd g w c 0) := by
    rw [State.performCmd_copy 0 hstatus hcls hsent hmoved hgood (by simp [he]) (by simp [he])]
    exact (State.sameStorage_copyPieces s g w c 0 [c.effect] c).perform
  rw [State.copyEffect_bulkIn hg he hrows hlen hpage hp hk] at hkeep
  have hstored := State.group?_updGroup s g.id (fun x => x.storeShared d.loc.toNat ((List.range d.len).map (fun i => s.readByte o (k + i))))
    fun _ => rfl
  have hshared := hkeep.shared g.id
  rw [hstored, hg] at hshared
  obtain ⟨x, hx, hxs⟩ := Option.map_eq_some_iff.1 hshared
  refine ⟨x, hx, hkeep.mem, fun j hj => ?_, fun a ha => ?_⟩
  · rw [hxs]
    have := Memory.read_writeBytes_inside ((List.range d.len).map (fun i => s.readByte o (k + i))) g.shared d.loc.toNat j (by simpa using hj)
    simpa [Group.storeShared] using this
  · rw [hxs]
    exact Memory.read_writeBytes_outside _ _ _ _ (by simp; omega)

end

/-! ### Fairness runs, sleeps and timers -/

/-- The best of a list has the highest priority of it (R293). -/
theorem prio_le_bestPath {ps : List Path} {q : Path} (h : bestPath ps = some q) : ∀ p ∈ ps, p.prio.toNat ≤ q.prio.toNat := by
  induction ps generalizing q with
  | nil => simp [bestPath] at h
  | cons a as ih =>
    rw [bestPath] at h
    cases hb : bestPath as with
    | none =>
      have has : as = [] := by
        cases as with
        | nil => rfl
        | cons b bs => rw [bestPath] at hb; split at hb <;> simp at hb
      obtain rfl : a = q := by simpa [hb] using h
      simp [has]
    | some b =>
      have hq : (if b.before a then b else a) = q := by simpa [hb] using h
      have hab : a.prio.toNat ≤ q.prio.toNat ∧ b.prio.toNat ≤ q.prio.toNat := by
        subst hq
        split
        next hbef =>
          simp only [Path.before, Bool.or_eq_true, Bool.and_eq_true, decide_eq_true_eq] at hbef
          rcases hbef with hlt | ⟨heq, -⟩
          · omega
          · rw [heq]; omega
        next hbef =>
          simp only [Path.before, Bool.or_eq_true, Bool.and_eq_true, decide_eq_true_eq, not_or] at hbef
          omega
      intro p hp
      rcases List.mem_cons.1 hp with rfl | hp
      · exact hab.1
      · exact (ih hb p hp).trans hab.2

theorem bestPath_of_mem {ps : List Path} {p : Path} (h : p ∈ ps) : ∃ q, bestPath ps = some q := by
  cases ps with
  | nil => simp at h
  | cons a as => rw [bestPath]; split <;> exact ⟨_, rfl⟩

/-- A maximum taken over a list bounds every value, and is one of them where it is not the one that it began with. -/
theorem foldl_max_spec {α : Type} (f : α → Nat) (l : List α) (n : Nat) :
    n ≤ l.foldl (fun acc x => max acc (f x)) n ∧ (∀ x ∈ l, f x ≤ l.foldl (fun acc x => max acc (f x)) n)
      ∧ (l.foldl (fun acc x => max acc (f x)) n = n ∨ ∃ x ∈ l, f x = l.foldl (fun acc x => max acc (f x)) n) := by
  induction l generalizing n with
  | nil => simp
  | cons a as ih =>
    obtain ⟨hn, hall, hmem⟩ := ih (max n (f a))
    rw [List.foldl_cons]
    refine ⟨by omega, ?_, ?_⟩
    · intro x hx
      rcases List.mem_cons.1 hx with rfl | hx
      · omega
      · exact hall x hx
    · rcases hmem with hmem | ⟨x, hx, hfx⟩
      · rcases Nat.le_total (f a) n with hle | hle
        · exact .inl (by omega)
        · exact .inr ⟨a, List.mem_cons_self, by omega⟩
      · exact .inr ⟨x, List.mem_cons_of_mem a hx, hfx⟩

/-- A run begins for another path of the highest priority (R296). -/
theorem Wave.startRun_other {w : Wave} (hfair : 4096 ≤ w.fair) (hother : ∃ p ∈ w.readyPaths, p.id ≠ w.last) :
    ∃ p ∈ w.readyPaths, p.id ≠ w.last ∧ w.startRun = { w with run := some (p.id, 64), fair := 0 }
      ∧ ∀ p' ∈ w.readyPaths, p'.id ≠ w.last → p'.prio.toNat ≤ p.prio.toNat := by
  obtain ⟨others, ho⟩ : ∃ others, others = w.frontiers.filterMap (fun fr => bestPath ((w.readyIn fr).filter (fun p => p.id ≠ w.last))) :=
    ⟨_, rfl⟩
  have hbest : ∀ p ∈ w.readyPaths, p.id ≠ w.last → ∃ q ∈ others, p.prio.toNat ≤ q.prio.toNat := by
    intro p hp hlast
    obtain ⟨fr, hfr, hin⟩ := List.mem_flatMap.1 hp
    have hmem : p ∈ (w.readyIn fr).filter (fun p => p.id ≠ w.last) := by simp [hin, hlast]
    obtain ⟨q, hq⟩ := bestPath_of_mem hmem
    exact ⟨q, by rw [ho]; exact List.mem_filterMap.2 ⟨fr, hfr, hq⟩, prio_le_bestPath hq p hmem⟩
  have hready : ∀ q ∈ others, q ∈ w.readyPaths ∧ q.id ≠ w.last := by
    intro q hq
    rw [ho] at hq
    obtain ⟨fr, hfr, hq⟩ := List.mem_filterMap.1 hq
    obtain ⟨hin, hlast⟩ := List.mem_filter.1 (mem_of_bestPath _ _ hq)
    exact ⟨List.mem_flatMap.2 ⟨fr, hfr, hin⟩, by simpa using hlast⟩
  obtain ⟨-, hbound, hmax⟩ := foldl_max_spec (fun p : Path => p.prio.toNat) others 0
  have htop : ∃ q ∈ others, q.prio.toNat = others.foldl (fun acc p => max acc p.prio.toNat) 0 := by
    rcases hmax with hzero | h
    · obtain ⟨p, hp, hlast⟩ := hother
      obtain ⟨q, hq, -⟩ := hbest p hp hlast
      have := hbound q hq
      exact ⟨q, hq, by omega⟩
    · exact h
  obtain ⟨q₀, hq₀, hprio₀⟩ := htop
  obtain ⟨q, hq⟩ : ∃ q, others.find? (fun p => p.prio.toNat = others.foldl (fun acc p => max acc p.prio.toNat) 0) = some q :=
    Option.isSome_iff_exists.1 (List.find?_isSome.2 ⟨q₀, hq₀, by simpa using hprio₀⟩)
  have hqmem := List.mem_of_find?_eq_some hq
  have hqprio : q.prio.toNat = others.foldl (fun acc p => max acc p.prio.toNat) 0 := by simpa using List.find?_some hq
  obtain ⟨hqr, hql⟩ := hready q hqmem
  refine ⟨q, hqr, hql, ?_, fun p hp hlast => ?_⟩
  · rw [Wave.startRun, if_neg (by omega), ← ho]
    dsimp only
    rw [hq]
  · obtain ⟨r, hr, hle⟩ := hbest p hp hlast
    have := hbound r hr
    omega

theorem Wave.startRun_id (w : Wave) : w.startRun.id = w.id := by
  unfold Wave.startRun
  dsimp only
  split
  · rfl
  · split <;> rfl

/-- One wave of a group changed, as its lookup finds it. -/
theorem State.wave_updWave {s : State} {gid wid : Nat} {g : Group} {w : Wave} (hg : s.group? gid = some g) (hw : g.wave? wid = some w)
    (F : Wave → Wave) (hid : ∀ x, (F x).id = x.id) : ((s.updWave gid wid F).group? gid).bind (fun y => y.wave? wid) = some (F w) := by
  rw [State.group?_updWave, hg]
  exact (Group.wave?_updWave g wid F hid).trans (by rw [hw]; rfl)

theorem State.facet_setFacet (s : State) {f : Nat} (h : f < s.facets.length) (x : Facet) : (s.setFacet f x).facet f = x := by
  simp [State.setFacet, State.facet, h]

/-- An object of a facet's table changed in place. -/
theorem State.objAt_updFacet {s : State} {facet idx : Nat} {o : Obj} {F : Obj → Obj} {u : Facet → Facet} (hfacet : facet < s.facets.length)
    (hesc : isEsc facet idx = false) (ho : s.objAt facet idx = some o) (hid : ∀ x, (F x).idx = x.idx)
    (hobjs : (u (s.facet facet)).objs = (s.facet facet).objs.map (fun o => if o.idx = idx then F o else o)) :
    (s.updFacet facet u).objAt facet idx = some (F o) := by
  simp only [State.objAt, hesc, Bool.false_eq_true, if_false] at ho ⊢
  rw [State.updFacet, State.facet_setFacet s hfacet, hobjs, find?_map_here _ Obj.idx F idx hid, ho]
  rfl

/-- A timer whose deadline has come, marked as expired. -/
def Obj.expired (o : Obj) : Obj :=
  match o.kind with
  | .timer d _ _ => { o with kind := .timer d true true }
  | _ => o

theorem Obj.expired_idx (o : Obj) : o.expired.idx = o.idx := by
  unfold Obj.expired
  split <;> rfl

/-- A timer expires, and its engine is closed until the next edge (R335, R353). -/
theorem timerExpire_due {s : State} {facet idx : Nat} {o : Obj} {d : DWord} (hfacet : facet < s.facets.length)
    (ho : s.objAt facet idx = some o) (hkind : o.kind = .timer d true false) (hdue : d.toNat ≤ (s.facet facet).ref.toNat) :
    ∃ t x, exec (.timerExpire facet idx) s = .next t ∧ t.objAt facet idx = some x ∧ x.kind = .timer d true true
      ∧ (t.facet facet).closed = true := by
  have hesc : isEsc facet idx = false := by
    by_contra h
    simp only [State.objAt, Bool.not_eq_false _ ▸ h, if_true, Option.some.injEq] at ho
    rw [← ho] at hkind
    simp [State.escPort] at hkind
  have htimer : timerDue (s.facet facet).ref o = true := by simp [timerDue, hkind, hdue]
  obtain ⟨u, hu⟩ : ∃ u, u = s.updFacet facet (fun x => { x with objs := x.objs.map (fun o => if o.idx = idx then o.expired else o) }) :=
    ⟨_, rfl⟩
  have hlen : facet < u.facets.length := by
    rw [hu, State.updFacet, State.setFacet, List.length_set]
    exact hfacet
  have hobj : u.objAt facet idx = some o.expired := by
    rw [hu]
    exact State.objAt_updFacet hfacet hesc ho Obj.expired_idx rfl
  refine ⟨u.updFacet facet (fun f => { f with closed := true }), o.expired, ?_, ?_, ?_, ?_⟩
  · change execTimerExpire facet idx s = _
    simp only [execTimerExpire, ho, htimer, if_true, State.updObj, hesc, Bool.false_eq_true, if_false, hu]
    rfl
  · simp only [State.objAt, hesc, Bool.false_eq_true, if_false] at hobj ⊢
    rw [State.updFacet, State.facet_setFacet _ hlen]
    exact hobj
  · simp [Obj.expired, hkind]
  · rw [State.updFacet, State.facet_setFacet _ hlen]

/-! ### The settled statement -/

/-- Settles O50: one rule for each way that COMMAND_COMPLETE goes, the storage that performing leaves alone, and the three wave events. -/
theorem waveEvents : Obligations.WaveEvents := by
  unfold Obligations.WaveEvents
  intro s gid wid g w hg hw next lone turn linked ready
  have hgid := State.group?_id s hg
  have hwid := Group.wave?_id g hw
  have answered : ∀ c, ready c → ∀ ans, exec (.commandComplete gid wid c.cls c.seq ans) s
      = .next ((if ans = 0x01#8 then s.progress g w c else s.performCmd g w c ans).signal g wid c.cls) := by
    intro c ⟨⟨hc, hmay, hclosed⟩, hlinked, hport⟩ ans
    exact commandComplete_ready hg hw hc ans hmay hclosed ((State.answered_iff hgid hwid).2 hlinked) hport
  refine ⟨fun c ans hready hans => ?_, fun c ans ⟨hc, hmay, hclosed⟩ hposted hdown => ?_, fun c ans hc hdone hclosed => ?_,
    fun c ans hc hdone hposted hlinked => ?_, fun c hc hstage hposted hworks hclosed => ⟨fun ans hans => ?_, ?_⟩,
    fun c hready hcls hbegun hcall _ => ?_, fun c ans ⟨hstatus, hcls, hsent, hmoved, hgood⟩ hcall hmat => ?_,
    fun c e e' rest hready hcls hbegun hstatus hmoved hleft hgood hreach => ?_,
    fun c op ty x k o m ⟨hstatus, hcls, hsent, hmoved, hgood⟩ he hp hk hq => ?_,
    fun c d k o m ⟨hstatus, hcls, hsent, hmoved, hgood⟩ he hrows hlen hpage _ hp hk => ?_, ?_,
    fun d hpark hstat hdue => ?_, fun facet idx o d hfacet ho hkind hdue => timerExpire_due hfacet ho hkind hdue⟩
  · exact (answered c hready ans).trans (by rw [if_neg hans])
  · exact commandComplete_unsent hg hw hc ans hmay hclosed hposted hdown
  · exact commandComplete_waits hg hw hc ans hdone (.inl hclosed)
  · refine commandComplete_waits hg hw hc ans hdone (.inr ⟨hposted, ?_⟩)
    exact Bool.eq_false_iff.2 fun h => hlinked ((State.answered_iff hgid hwid).1 h)
  · exact (commandComplete_landing hg hw hc ans hstage hposted hworks hclosed).trans (by rw [if_neg hans])
  · refine ⟨c.late.filter (fun x => 2 ^ 63 ≤ x.1 || s.landsLater g x.1), fun x hx => List.mem_of_mem_filter hx,
      fun x hx hreg => List.mem_filter.2 ⟨hx, Bool.or_eq_true_iff.2 (.inl (decide_eq_true hreg))⟩, ?_⟩
    refine (commandComplete_landing hg hw hc 0x01#8 hstage hposted hworks hclosed).trans ?_
    rw [if_pos rfl, State.progressLanding_eq, hgid, hwid]
  · exact (answered c hready 0x01#8).trans (by rw [if_pos rfl, State.progress_begins hcls hbegun hcall])
  · subst hgid hwid
    exact State.performCmd_copy ans hstatus hcls hsent hmoved hgood hcall hmat
  · obtain ⟨hnext, hnone⟩ := State.progress_piece (g := g) (w := w) hcls hbegun hstatus hleft hreach
    refine ⟨_, answered c hready 0x01#8, fun hbit => ?_, fun hbit hwords => ?_⟩
    · rw [if_pos rfl, hnext hbit, State.performPiece_reaches hmoved hgood hreach]
    · rw [if_pos rfl, hnone hbit hwords]
  · exact State.performCmd_atomic hstatus hcls hsent hmoved hgood he hp hk hq
  · subst hgid
    exact State.performCmd_bulkIn hg hstatus hcls hsent hmoved hgood he hrows hlen hpage hp hk
  · refine ⟨s.updWave gid wid Wave.startRun, w.startRun, rfl, rfl, State.wave_updWave hg hw _ Wave.startRun_id, Wave.startRun_other,
      fun hfair => if_pos hfair⟩
  · refine ⟨s.updWave gid wid (fun w => { w with
      park := .no
      parkedAt := 0 }), ?_, rfl, State.wave_updWave hg hw _ fun _ => rfl⟩
    change execSleepWake gid wid s = _
    simp [execSleepWake, hg, hw, hpark, hstat, hdue]

end Sys2Proof.Machine
end

section
/-! PROOF. O52 (`Obligations.MemoryAndNetworkEvents`) fails: its clause on HOST_RECALL says that nothing but the L2s changes, where a copy
with the current bytes takes an uncorrectable word with it to HBM (R203). -/

namespace Sys2Proof.Machine

open Sys2Proof

/-- A recall of the host gives up every L2 copy of the sector (R187). -/
theorem hostRecall_next {s : State} (h : s.host.boot = 2) (pa : Nat) :
    exec (.hostRecall pa) s = .next (s.recallRange (s.hostAddress pa) 1) := by
  change execHostRecall pa s = _
  rw [execHostRecall, if_pos h]

/-- The errors of the copies with the current bytes that a recall gives up go to HBM (R186, R203). -/
theorem State.bad_recallRange (s : State) (key n : Nat) : (s.recallRange key n).bad = s.bad ++ (s.l2.filter (fun l =>
    (key / 64 ≤ l.sector && l.sector ≤ (key + n - 1) / 64) && (l.st = .m || l.st = .o) && !l.bad.isEmpty)).map L2Line.sector := rfl

/-- A package whose host port is trained, and of which facet 0 holds sector 0 in its L2, written there, with its first word uncorrectable. -/
def badCopy : State :=
  { State.reset with
    host := { State.reset.host with boot := 2 }
    l2 := [⟨0, 0, .m, [], [0]⟩] }

theorem badCopy_recalled : (badCopy.recallRange 0 1).bad = [0] := State.bad_recallRange badCopy 0 1

/-- Refutes O52: a HOST_RECALL of a sector whose current bytes stand, with an uncorrectable word, in an L2 writes them back, and the sector
of HBM is in error then (R187, R203), so that not only the L2s have changed. -/
theorem not_memoryAndNetworkEvents : ¬ Obligations.MemoryAndNetworkEvents := by
  unfold Obligations.MemoryAndNetworkEvents
  intro h
  obtain ⟨-, -, -, -, -, hrecall, -⟩ := h badCopy
  obtain ⟨t, hnext, ht, -⟩ := hrecall 0 rfl
  have hrun : exec (.hostRecall 0) badCopy = .next (badCopy.recallRange 0 1) := hostRecall_next rfl 0
  obtain rfl : badCopy.recallRange 0 1 = t := by simpa using hrun.symm.trans hnext
  have hbad : (badCopy.recallRange 0 1).bad = badCopy.bad := (congrArg State.bad ht :)
  rw [badCopy_recalled] at hbad
  exact absurd hbad (by decide)

end Sys2Proof.Machine
end

section
/-! PROOF. O48 (`Obligations.QueueEvents`) fails: its clause on LAUNCH says that a launch which its context can admit is presented, where the
write that initialises the completion record (R278) can end the descriptor of that context before admission is asked (R391). -/

namespace Sys2Proof.Machine

open Sys2Proof

variable {s t u v : State} {qid f k ck : Nat} {q : Queue} {h : Held} {ks cks : List Nat}

/-! ### A LAUNCH packet -/

/-- The addresses of a fetcher that are all found, with the package after their translation. -/
theorem State.fetchKeys_eq {ctx : Nat} {xs : List (DWord × Access)} (hk : (s.fetchKeys f ctx xs).1 = .ok ks) :
    s.fetchKeys f ctx xs = (.ok ks, (s.fetchKeys f ctx xs).2) := Prod.ext hk rfl

/-- What a fetcher reads at READ, where the address of the packet is found (R263). -/
theorem State.packetAt_found (hk : s.fetchKeys f q.ctx [(s.packetVa q, .write)] = (.ok (k :: ks), t)) :
    s.packetAt q f = .ok (t, t.holds q k (t.readNum (t.under q.ctx k) k 64)) := by
  unfold State.packetAt
  rw [hk]

/-- A packet that stands ready at READ is processed (R266). -/
theorem State.processing_ready {ty : Nat} (hp : packetReady s qid ty .idle q f t h) (body : State → Queue → Nat → Held → State) :
    s.processing qid ty body = body t q f h := by
  obtain ⟨hq, hserving, hstage, hat, hty, hfence, honly⟩ := hp
  have hfree : (h.pkt.testBit 8 && s.launches.any (fun l => l.queue = qid)) = false := by
    rw [Bool.and_eq_false_imp]
    exact fun hbit => by simpa using hfence hbit
  simp only [State.processing, hq, hserving, hstage, hat, hty, hfree, honly, ne_eq, not_true_eq_false, Bool.not_true,
    Bool.false_eq_true, if_false]

/-- A launch whose record is good, and whose completion record and cancel word are found, is checked and presented (R267). -/
theorem launchPacket_presents (hp : packetReady s qid 1 .idle q f t h) (haddr : field h.pkt 64 64 % 256 = 0)
    (hrecord : t.fetchKeys f q.ctx [(BitVec.ofNat 64 (field h.pkt 64 64), .read)] = (.ok (k :: ks), u)) {x : Nat}
    (hx : u.readNum (u.under q.ctx k) k 256 = x) (hok : (parseRecord x).ok x = true)
    (hcompl : u.fetchKeys f q.ctx (((parseRecord x).compl, .write)
      :: (if (parseRecord x).cancel = 0 then [] else [((parseRecord x).cancel, .read)])) = (.ok (ck :: cks), v)) :
    exec (.launchPacket qid) s = .next (v.present q h.key
      (({ v with tlb := t.tlb } : State).launchFrom q f (field h.pkt 64 64) (parseRecord x) ck cks.head?)) := by
  change execLaunchPacket qid s = _
  simp only [execLaunchPacket, State.processing_ready hp, haddr, hrecord, hx, hok, hcompl, ne_eq, not_true_eq_false, Bool.not_true,
    Bool.false_eq_true, if_false]

/-- The package once the completion record of a checked launch is initialised (R278). -/
def State.initCompl (s : State) (q : Queue) (l : Launch) : State :=
  ({ s with nextId := s.nextId + 1 } : State).storeMain (s.under q.ctx l.complKey) l.complKey (l.complBytes none 0)

/-- A launch whose context is gone once its completion record is initialised is not presented: its packet is consumed with STATUS 0x03. -/
theorem State.present_of_ctx_gone {l : Launch} (hgone : (s.initCompl q l).ctx? q.ctx = none) (key : Nat) :
    s.present q key l = ((s.initCompl q l).storeMain (s.under q.ctx l.complKey) l.complKey
      (l.complBytes (some 3) ((s.initCompl q l).facet l.facet).ref)).consume q key := by
  unfold State.initCompl at hgone ⊢
  unfold State.present
  dsimp only
  have hunder : ({ s with nextId := s.nextId + 1 } : State).under q.ctx l.complKey = s.under q.ctx l.complKey := rfl
  rw [hunder, hgone]
  rfl

/-! ### A completion record at the descriptor of its context -/

/-- A mapped queue of context 1, with its ring at 0x5000. -/
def launchQueue : Queue := ⟨9, 1, 0x320000, 0x6000, 0x5000, 3, 0, some (0, true, 0), .idle, 0, [], none, none⟩

/-- The frame that stands at 0x5000 in context 1, on loan from the firmware (R348). -/
def lentFrame : Nat := bootFrame + 4096

/-- Context 1 on facet 0, with its descriptor in that frame. -/
def lentCtx : CtxDesc := { bootCtx with
  plog2 := 0
  area := lentFrame + 512 }

/-- A launch record of one task in one group of 64 lanes, with its completion record at 0x5200. -/
def lentRecord : Nat :=
  bootPc + 63 * 2 ^ 96 + 1 * 2 ^ 144 + (1 + 2 ^ 32 + 2 ^ 64) * (2 ^ 192 + 2 ^ 288 + 2 ^ 384) + (8 + 8 * 2 ^ 9) * (2 ^ 576 + 2 ^ 640)
    + 0x5200 * 2 ^ 832

/-- The LAUNCH packet of that record, as the fetcher reads it. -/
def lentPacket : Held := ⟨0, lentFrame, 1 + 0x5100 * 2 ^ 64, []⟩

/-- The package with the packet at READ, the record at 0x5100 and the descriptor at 0x5200, where the completion record is to be written. -/
def lentDescriptor : State :=
  let s := { State.reset.withWord 0 with
    ctxs := [lentCtx]
    lends := [⟨lentFrame, 0, 1⟩]
    queues := [launchQueue]
    facets := State.reset.facets.map (fun (f : Facet) => { f with reserve := 2 ^ 30 }) }
  let s := s.writeRaw 1 (bootRoot + 0x21000 + 8 * 5) (toBytes 8 (2 ^ 63 + 2 ^ 62 + 2 ^ 9 + lentFrame))
  let s := (s.writeRaw 0 lentFrame (toBytes 16 lentPacket.pkt)).writeRaw 0 (lentFrame + 256) (toBytes 112 lentRecord)
  ((s.writeRaw 0 lentCtx.area (descRecord lentCtx 1)).cbWrite launchQueue 16 8 1).cbWrite launchQueue 32 1 1

/-- The addresses that the record names, and the accesses to them. -/
def lentRecordNames : List (DWord × Access) :=
  ((parseRecord lentRecord).compl, .write) :: (if (parseRecord lentRecord).cancel = 0 then [] else [((parseRecord lentRecord).cancel, .read)])

/-- The package after the translation of the packet's address. -/
def packetFound : State := (lentDescriptor.fetchKeys 0 1 [(lentDescriptor.packetVa launchQueue, .write)]).2

/-- The package after the translation of the record's address. -/
def recordFound : State := (packetFound.fetchKeys 0 1 [(BitVec.ofNat 64 (field lentPacket.pkt 64 64), .read)]).2

/-- The package after the translation of the completion record's address. -/
def complFound : State := (recordFound.fetchKeys 0 1 lentRecordNames).2

/-- The launch that is checked. -/
def lentLaunch : Launch :=
  ({ complFound with tlb := packetFound.tlb } : State).launchFrom launchQueue 0 (field lentPacket.pkt 64 64) (parseRecord lentRecord)
    (lentFrame + 512) none

/-- The package is whole, and the descriptor stands in memory as the package has it. -/
theorem lentDescriptor_whole : lentDescriptor.whole = true ∧ lentDescriptor.readDesc lentCtx = some lentCtx := by decide +kernel

theorem lentDescriptor_fetchKeys :
    lentDescriptor.fetchKeys 0 1 [(lentDescriptor.packetVa launchQueue, .write)] = (.ok [lentFrame], packetFound) := by
  rw [packetFound]
  exact State.fetchKeys_eq (by decide +kernel)

theorem packetFound_fetchKeys : packetFound.fetchKeys 0 1 [(BitVec.ofNat 64 (field lentPacket.pkt 64 64), .read)]
    = (.ok [lentFrame + 256], recordFound) := by
  rw [recordFound]
  exact State.fetchKeys_eq (by decide +kernel)

theorem recordFound_fetchKeys : recordFound.fetchKeys 0 1 lentRecordNames = (.ok [lentFrame + 512], complFound) := by
  rw [complFound]
  exact State.fetchKeys_eq (by decide +kernel)

theorem packetFound_holds : packetFound.holds launchQueue lentFrame (packetFound.readNum (packetFound.under 1 lentFrame) lentFrame 64)
    = lentPacket := by decide +kernel

theorem recordFound_readNum : recordFound.readNum (recordFound.under 1 (lentFrame + 256)) (lentFrame + 256) 256 = lentRecord := by
  decide +kernel

theorem lentRecord_ok : (parseRecord lentRecord).ok lentRecord = true := by decide +kernel

theorem lentDescriptor_queue : lentDescriptor.queue? 9 = some launchQueue := by decide +kernel

theorem lentDescriptor_serving : lentDescriptor.serving launchQueue = some 0 := by decide +kernel

theorem lentPacket_ready : packetReady lentDescriptor 9 1 .idle launchQueue 0 packetFound lentPacket :=
  ⟨lentDescriptor_queue, lentDescriptor_serving, rfl, packetFound_holds ▸ State.packetAt_found lentDescriptor_fetchKeys, by decide,
    fun hbit => absurd hbit (by decide), by decide⟩

/-- The context stands when the launch is checked, and it can admit the launch. -/
theorem complFound_admits : complFound.ctx? 1 = some lentCtx ∧ complFound.neverAdmissible lentCtx (parseRecord lentRecord) = false := by
  decide +kernel

/-- The completion record as it is initialised reads as a descriptor with STATE 0, so that the context is gone. -/
theorem complFound_initCompl_ctx : (complFound.initCompl launchQueue lentLaunch).ctx? 1 = none := by decide +kernel

theorem lentLaunch_not_presented : ∀ y ∈ (complFound.present launchQueue lentPacket.key lentLaunch).launches, y.id ≠ complFound.nextId := by
  rw [State.present_of_ctx_gone complFound_initCompl_ctx]
  decide +kernel

theorem lentDescriptor_launchPacket :
    exec (.launchPacket 9) lentDescriptor = .next (complFound.present launchQueue lentPacket.key lentLaunch) := by
  have hnext := launchPacket_presents lentPacket_ready (by decide) packetFound_fetchKeys recordFound_readNum lentRecord_ok
    recordFound_fetchKeys
  rw [lentLaunch]
  exact hnext

/-- Refutes O48: where the descriptor of a context lies in a page that is lent to the context, and the completion record of its launch lies
at the same bytes, the record's initialisation ends the context, and a launch that the context could admit is not presented
(`lentDescriptor`). R391 keeps descriptors in memory that no context maps; the statement has no such premise. -/
theorem not_queueEvents : ¬ Obligations.QueueEvents := by
  unfold Obligations.QueueEvents
  intro h
  obtain ⟨-, -, -, -, -, -, -, -, -, hlaunch, -⟩ := h lentDescriptor 9 launchQueue lentDescriptor_queue
  obtain ⟨x, hx, hadmitted, -⟩ := hlaunch 0 packetFound lentPacket recordFound (lentFrame + 256) [] complFound (lentFrame + 512) []
    lentPacket_ready (by decide) packetFound_fetchKeys (recordFound_readNum ▸ lentRecord_ok) (recordFound_readNum ▸ recordFound_fetchKeys)
  obtain ⟨hctx, hadmits⟩ := complFound_admits
  obtain ⟨l, hl, hid, -⟩ := hadmitted (fun c hc => by
    obtain rfl := Option.some.inj (hctx.symm.trans hc)
    exact recordFound_readNum ▸ hadmits) (Option.isSome_iff_exists.2 ⟨_, hctx⟩)
  obtain rfl := Host.Outcome.next.inj (lentDescriptor_launchPacket.symm.trans hx)
  exact lentLaunch_not_presented l hl hid

end Sys2Proof.Machine
end
